-- ==== Sys2Proof/Word.lean ====
section
/-! DEFINITION. The word types of the device: 32-bit registers and instruction words, bytes, and lane masks of up to 64 lanes (R1, R3, R40). -/

namespace Sys2Proof

/-- A 32-bit register value, and a 32-bit instruction word (R96). -/
abbrev Word := BitVec 32

/-- One byte of memory (R3: multi-byte values are little-endian). -/
abbrev Byte := BitVec 8

/-- A set of lanes of one warp: bit l stands for lane l (R40: W is 16, 32 or 64). -/
abbrev Mask := BitVec 64

end Sys2Proof
end

