-- ==== Sys2Proof/Config.lean ====
section
/-! DEFINITION. What is fixed for one package: the instruction header shape, the facts the boot firmware finds (R16), and the free values the spec leaves open (R6), each an opaque constant no proof can look into. -/

namespace Sys2Proof

/-- Bits 31..26 of every word but PFX (R96): chain, wait marker, guard negate, guard predicate. -/
structure Hdr where
  c  : Bool
  w  : Bool
  gn : Bool
  gp : BitVec 3
  deriving DecidableEq, Repr

/-- What Favos finds of one die in steps 1, 2, 4 and 5 (R16). -/
structure DieReport where
  answers  : Bool
  kindOk   : Bool
  hwver    : Nat
  serial   : Nat
  cores    : BitVec 20
  slices   : BitVec 16
  channels : BitVec 32
  deriving DecidableEq, Repr

/-- What Favos finds of one link in step 3 (R16): the BDP versions its other end advertises (R241) and the trained modules. -/
structure LinkReport where
  vers    : List Nat
  trained : Bool
  modmask : BitVec 8
  deriving DecidableEq, Repr

/-- What Favos finds of one external port (R24, R241); `vers` are the Igroxel versions the peer advertises. -/
structure PortReport where
  up       : Bool
  vers     : List Nat
  peerPkg  : Nat
  peerPort : Nat
  deriving DecidableEq, Repr

/-- What a loss of a link or of a plane reports (R229): which one, the lines whose write-back it lost, and the lines whose invalidation acknowledgement it lost. -/
structure PathLoss where
  which : Nat
  lost  : List Nat
  acks  : List Nat
  deriving DecidableEq, Repr

/-- Where a replay request is seen (R225, R234): the link, or 26 and more for an Igroxel port, its optical module, and the direction: true when the second endpoint of R14, or for a port the peer package, receives. -/
structure LinkModule where
  link    : Nat
  module_ : Nat
  toB     : Bool
  deriving DecidableEq, Repr

/-- What a flit that failed its CRC carries (R231): nothing in particular, the data of a write-back by physical address, of a fill by the core and the address, or of a copy by its block, tag and address, the request of such copy data, a directory update or invalidation acknowledgement of a line, a packet or contribution by its number, an acknowledgement by its place, a coherence request of a line, or management. -/
inductive FlitLoss where
  | none
  | data (pa : Nat)
  | fill (core pa : Nat)
  | copy (blk tag pa : Nat)
  | copyAsk (blk tag pa : Nat)
  | dir (line : Nat)
  | packet (id : Nat)
  | contrib (id : Nat)
  | ack (i : Nat)
  | coherence (line : Nat)
  | management
  deriving DecidableEq, Repr

/-- The outcome of the boot steps of R16 to R18, R25 and R332: what the silicon and the board controller answer; `imageOk` is the root of trust's verdict on the image, which the package reset itself fills in. -/
structure BootReport where
  feOk    : Bool
  imageOk : Bool
  ident   : Option (Nat × Nat)
  dies    : List DieReport
  links   : List LinkReport
  ports   : List PortReport
  templim : Nat
  ratemax : Nat
  deriving DecidableEq, Repr

/-- R332: what a Favos image carries, whose layout the spec does not give: the public key as x then y, the signature (r, s) and the bytes it signs. -/
structure ImageParts where
  key    : List Byte
  r      : Nat
  s      : Nat
  signed : List Byte
  deriving DecidableEq, Repr, Inhabited

namespace Config

/-- R6: a fresh unspecified 32-bit value, by context (as `Ctx.born` names it) and the number the context has drawn (log entry 4). -/
opaque freeWord : Nat → Nat → Word

/-- R6: a fresh unspecified choice among n, by context and number (log entry 4). -/
opaque freePick : Nat → Nat → Nat → Nat

/-- R87, R219, R305, R306: what the device puts into a place whose format is private, as (offset, byte) pairs, by context and number (log entry 12). -/
opaque privateCells : Nat → Nat → List (Nat × Byte)

/-- R334: the 64 bytes of key 0 that the root of trust generates at a boot, by the boot's number (log entry 28). -/
opaque rootKey : Nat → List Byte

/-- R334: the per-boot private key, by the boot's number (log entry 28). -/
opaque bootPriv : Nat → Nat

/-- R333: the device identity key (log entry 28). -/
opaque idPriv : Nat

/-- R333: the nonce of a signature, by cycle (log entry 28). -/
opaque signNonce : Nat → Nat

/-- R332: how an image carries its key, its signature and what it signs (log entry 28). -/
opaque imageParts : List Byte → ImageParts

/-- R332: the SHA-384 hash fused in the FE (log entry 28). -/
opaque fusedHash : List Byte

/-- R322: the byte a load of another size than the window takes receives with its error completion, by cycle and key (log entry 84). -/
opaque errByte : Nat → Nat → Byte

/-- R135: the implementation's result of special function f (FRCP 0, FRSQ 1, FEXP2 3, FLOG2 4, FSIN 5, FCOS 6) under an FTZ setting on input bits x, used where the table states no exact value and it lies within the stated bound (log entry 4). -/
opaque sfu : Nat → Bool → Word → Word

/-- R229: the sectors whose write-back, and the lines whose invalidation acknowledgement, a link carried when the machine itself finds it lost in a cycle (log entry 20). -/
opaque lostOn : Nat → Nat → List Nat × List Nat

/-- R227: the source's pick among planes or ports, by the message and the total weight; a plane's share of the picks is its weight (log entry 27). -/
opaque spray : Nat → Nat → Nat

/-- R231: how long the acknowledgements of a re-invalidation take, by line and cycle; 10,000 or more when one is missing (log entry 57). -/
opaque ackDelay : Nat → Nat → Nat

end Config

end Sys2Proof
end

