-- ==== Sys2Proof/Syntax.lean ====
section
/-! DEFINITION. The instruction set: one constructor per row of spec/opcode_table.json. The 146 rows with an encoding take the header of R96, their operand fields in table order, and, for the hosts of R116, the payload of the PFX that precedes them. The 92 rows without an encoding are operations and events of the package; their arguments name the object they act on. -/

namespace Sys2Proof

/-- Every row of the opcode table (R117, R118, R330 and the events of the concept chapters). -/
inductive Instr where
  /-- PACKAGE_RESET, R16. -/
  | packageReset (r : BootReport)
  /-- CORE_RETIRED, R29. -/
  | coreRetired (die : Nat) (core : Nat)
  /-- L2_SLICE_RETIRED, R28. -/
  | l2SliceRetired (die : Nat) (slice : Nat) (unread : List Nat)
  /-- HBM_CHANNEL_FAILING, R30. -/
  | hbmChannelFailing (die : Nat) (chan : Nat)
  /-- HBM_CHANNEL_REMAP, R30. -/
  | hbmChannelRemap (die : Nat) (chan : Nat) (unread : List Nat)
  /-- LINK_HALVING, R234. -/
  | linkHalving (link : Nat)
  /-- LINK_SILENCE_TIMEOUT, R234. -/
  | linkSilenceTimeout (link : Nat)
  /-- LINK_LOST, R229. -/
  | linkLost (l : PathLoss)
  /-- PLANE_LOST, R239. -/
  | planeLost (l : PathLoss)
  /-- PORT_LOST, R28. -/
  | portLost (port : Nat)
  /-- BOARD_CAP_CHANGE, R335. -/
  | boardCapChange (watts : Nat)
  /-- CONTEXT_SUSPEND, R36. -/
  | contextSuspend (ctx : Nat)
  /-- TOKEN_GRANT, R266. -/
  | tokenGrant (temp : Nat)
  /-- DESCRIPTOR_VALIDATION, R272. -/
  | descriptorValidation
  /-- BLOCK_PLACEMENT, R276. -/
  | blockPlacement (die : Nat)
  /-- STEAL, R278. -/
  | steal (die : Nat) (grid : Nat)
  /-- WARP_EXCHANGE, R281. -/
  | warpExchange (core : Nat)
  /-- PATH_AGED, R50. -/
  | pathAged (blk : Nat) (warp : Nat)
  /-- POLL_WATCH_WAKE, R53. -/
  | pollWatchWake (blk : Nat) (warp : Nat) (lane : Nat)
  /-- POLL_WATCH_EXPIRY, R53. -/
  | pollWatchExpiry (blk : Nat) (warp : Nat) (lane : Nat)
  /-- BANK_SWAP, R282. -/
  | bankSwap (core : Nat)
  /-- SWAP_COMPLETE, R300. -/
  | swapComplete (core : Nat)
  /-- CONTEXT_SAVE, R302. -/
  | contextSave (blk : Nat)
  /-- BLOCK_RESTORE, R303. -/
  | blockRestore (blk : Nat)
  /-- LONG_RESULT_ARRIVAL, R105. -/
  | longResultArrival (blk : Nat) (warp : Nat) (seq : Nat)
  /-- CELLAR_START, R91. -/
  | cellarStart (core : Nat)
  /-- CELLAR_SPILL_COMPLETE, R91. -/
  | cellarSpillComplete (core : Nat)
  /-- CELLAR_FILL_COMPLETE, R92. -/
  | cellarFillComplete (core : Nat)
  /-- SUBWARP_REPLAY, R293. -/
  | subwarpReplay (blk : Nat) (warp : Nat) (lane : Nat)
  /-- SOFT_ERROR_DETECTED, R312: `sub` is the MCHK sub-cause of R317: 1 and 2 a checked-mode mismatch, 3 a mirrored mismatch, 4 storage; `lanes` are those that disagreed. -/
  | softErrorDetected (blk : Nat) (warp : Nat) (sub : Nat) (lanes : Nat)
  /-- MEMORY_ECC_ERROR, R315. -/
  | memoryEccError (pa : Nat)
  /-- CH0_ROOM_ENQUEUE, R446. -/
  | ch0RoomEnqueue (blk : Nat)
  /-- COPY_COMPLETE, R166. -/
  | copyComplete (blk : Nat) (tag : Nat)
  /-- SNOOP_WRITEBACK_IN_FLIGHT, R230. -/
  | snoopWritebackInFlight (line : Nat)
  /-- HOST_MEM_ACCESS, R195. -/
  | hostMemAccess (write : Bool) (pa : Nat) (len : Nat) (bytes : List (BitVec 8))
  /-- MERGE_HOLD_EXPIRY, R204. -/
  | mergeHoldExpiry (blk : Nat) (ch : Nat)
  /-- PACKET_SEND, R205. -/
  | packetSend (blk : Nat) (ch : Nat)
  /-- ESCAPEMENT_PACKET_ARRIVAL, R214. -/
  | escapementPacketArrival (pkt : Nat)
  /-- STREAM_ACK, R215. -/
  | streamAck (ack : Nat)
  /-- START_RETRY, R214. -/
  | startRetry (blk : Nat) (ch : Nat)
  /-- ESCAPEMENT_CONTEXT_FREE, R214. -/
  | escapementContextFree (esc : Nat)
  /-- RETENTION_RESEND, R232. -/
  | retentionResend (pkt : Nat)
  /-- FLIT_REPLAY_REQUEST, R225: `loss` is what the flit carried when its eighth replay fails too (R231). -/
  | flitReplayRequest (at_ : LinkModule) (loss : FlitLoss)
  /-- SUSPECT_ACK_TIMEOUT, R231. -/
  | suspectAckTimeout (line : Nat)
  /-- COHERENCE_REISSUE_TIMEOUT, R231. -/
  | coherenceReissueTimeout (line : Nat)
  /-- MANAGEMENT_RESEND_TIMEOUT, R231. -/
  | managementResendTimeout (link : Nat)
  /-- BUFFER_LIMIT_RECOMPUTE, R233. -/
  | bufferLimitRecompute (link : Nat) (toB : Bool)
  /-- BUFFER_LIMIT_ANNOUNCE, R233. -/
  | bufferLimitAnnounce (link : Nat) (toB : Bool)
  /-- LINKLOST, R235. -/
  | linklost (link : Nat)
  /-- ROUTES_RECOMPUTED, R235. -/
  | routesRecomputed (src : Nat) (dst : Nat)
  /-- DELIVERED, R235. -/
  | delivered (src : Nat) (dst : Nat) (strm : Nat)
  /-- EXCHANGE_TIMEOUT, R235. -/
  | exchangeTimeout (src : Nat) (dst : Nat)
  /-- SYNCDONE, R235. -/
  | syncdone (src : Nat) (dst : Nat)
  /-- SLOT_CONTRIBUTION, R237. -/
  | slotContribution (rr : Nat)
  /-- SLOT_DEADLINE, R237. -/
  | slotDeadline (plane : Nat) (slot : Nat)
  /-- SLOT_FREE, R237. -/
  | slotFree (plane : Nat) (slot : Nat)
  /-- TIMELINE_ADVANCE, R193. -/
  | timelineAdvance (ctx : Nat) (tl : Nat)
  /-- GRID_COMPLETE, R194. -/
  | gridComplete (grid : Nat)
  /-- MITER_PHASE_START, R268. -/
  | miterPhaseStart (core : Nat)
  /-- MITER_ITERATION_END, R263. -/
  | miterIterationEnd (core : Nat)
  /-- ERROR_LOG_DRAIN, R318. -/
  | errorLogDrain (die : Nat)
  /-- NETPOST_ACKNOWLEDGED, R330. -/
  | netpostAcknowledged (q : Nat) (seq : Nat) (data : List (BitVec 8))
  /-- DOORBELL, R328. -/
  | doorbell (q : Nat) (v : Nat)
  /-- QUEUE_ENABLE, R326. -/
  | queueEnable (q : Nat)
  /-- QUEUE_DISABLE, R326. -/
  | queueDisable (q : Nat)
  /-- RING_HEAD_WRITE, R325. -/
  | ringHeadWrite (ring : Nat) (v : Nat)
  /-- HOST_REGISTER_WRITE, R322. -/
  | hostRegisterWrite (off : Nat) (size : Nat) (v : Nat)
  /-- HOST_LAUNCH, R330. -/
  | hostLaunch (q : Nat)
  /-- COPY, R330. -/
  | copy (q : Nat)
  /-- TLHOLD, R330. -/
  | tlhold (q : Nat)
  /-- NETPOST, R330. -/
  | netpost (q : Nat)
  /-- NETQP, R330. -/
  | netqp (q : Nat)
  /-- CTXCREATE, R330. -/
  | ctxcreate (q : Nat)
  /-- CTXDESTROY, R330. -/
  | ctxdestroy (q : Nat)
  /-- TLBINV, R330. -/
  | tlbinv (q : Nat)
  /-- BIASFLIP, R196. -/
  | biasflip (q : Nat)
  /-- FAULTRESP, R293. -/
  | faultresp (q : Nat)
  /-- HOST_MAPACK, R38. -/
  | hostMapack (q : Nat)
  /-- CHANCONF, R30. -/
  | chanconf (q : Nat)
  /-- KILL, R297. -/
  | kill (q : Nat)
  /-- BRKRESUME, R296. -/
  | brkresume (q : Nat)
  /-- SUSPEND, R330. -/
  | suspend (q : Nat)
  /-- RESUME, R330. -/
  | resume (q : Nat)
  /-- SLOTREAD, R240. -/
  | slotread (q : Nat)
  /-- KEYINSTALL, R334. -/
  | keyinstall (q : Nat)
  /-- KEYREMOVE, R334. -/
  | keyremove (q : Nat)
  /-- POWERCAP, R335. -/
  | powercap (q : Nat)
  /-- ATTEST, R333. -/
  | attest (q : Nat)
  /-- FWSTAGE, R332. -/
  | fwstage (q : Nat)
  /-- PFX, R115. -/
  | pfx (hi : BitVec 4) (lo : BitVec 19)
  /-- NOP, R391. -/
  | nop (h : Hdr)
  /-- BRA, R344. -/
  | bra (h : Hdr) (t : BitVec 19)
  /-- BRX, R346. -/
  | brx (h : Hdr) (a : BitVec 6)
  /-- CALL, R347. -/
  | call (h : Hdr) (e : BitVec 3) (t : BitVec 16)
  /-- CALLX, R347. -/
  | callx (h : Hdr) (e : BitVec 3) (a : BitVec 6)
  /-- RET, R402. -/
  | ret (h : Hdr)
  /-- UNWIND, R426. -/
  | unwind (h : Hdr) (a : BitVec 6)
  /-- YIELD, R429. -/
  | yield (h : Hdr)
  /-- EXIT, R362. -/
  | exit (h : Hdr)
  /-- TRAP, R423. -/
  | trap (h : Hdr) (i : BitVec 13)
  /-- TRET, R424. -/
  | tret (h : Hdr)
  /-- BRK, R345. -/
  | brk (h : Hdr) (i : BitVec 13)
  /-- BAR, R341. -/
  | bar (h : Hdr)
  /-- PBINIT, R395. -/
  | pbinit (h : Hdr) (a : BitVec 6) (b : BitVec 6)
  /-- PBARR, R395. -/
  | pbarr (h : Hdr) (a : BitVec 6)
  /-- PBWAIT, R395. -/
  | pbwait (h : Hdr) (a : BitVec 6) (b : BitVec 6)
  /-- DIVG, R54. -/
  | divg (h : Hdr) (i : BitVec 13)
  /-- RECONV, R55. -/
  | reconv (h : Hdr) (i : BitVec 13)
  /-- GROW, R83. -/
  | grow (h : Hdr) (a : BitVec 6)
  /-- GROW_TRY, R83. -/
  | growTry (h : Hdr) (p : BitVec 3) (a : BitVec 6)
  /-- SHRINK, R413. -/
  | shrink (h : Hdr) (a : BitVec 6)
  /-- LAUNCH, R284. -/
  | launch (h : Hdr) (d : BitVec 6) (a : BitVec 6) (b : BitVec 6)
  /-- MAPACK, R37. -/
  | mapack (h : Hdr) (a : BitVec 6)
  /-- FENCE, R367. -/
  | fence (h : Hdr) (i : BitVec 13)
  /-- IADD, R372. -/
  | iadd (h : Hdr) (d : BitVec 6) (a : BitVec 6) (b : BitVec 6) (m : Bool) (pf : Option (BitVec 23))
  /-- IADDI, R372. -/
  | iaddi (h : Hdr) (d : BitVec 6) (a : BitVec 6) (i : BitVec 7) (pf : Option (BitVec 23))
  /-- ISUB, R372. -/
  | isub (h : Hdr) (d : BitVec 6) (a : BitVec 6) (b : BitVec 6) (m : Bool) (pf : Option (BitVec 23))
  /-- IMUL, R374. -/
  | imul (h : Hdr) (d : BitVec 6) (a : BitVec 6) (b : BitVec 6) (m : Bool)
  /-- IMULH, R374. -/
  | imulh (h : Hdr) (d : BitVec 6) (a : BitVec 6) (b : BitVec 6) (m : Bool) (pf : Option (BitVec 23))
  /-- IMAD, R374. -/
  | imad (h : Hdr) (d : BitVec 6) (a : BitVec 6) (b : BitVec 6) (m : Bool) (pf : Option (BitVec 23))
  /-- IMIN, R375. -/
  | imin (h : Hdr) (d : BitVec 6) (a : BitVec 6) (b : BitVec 6) (m : Bool) (pf : Option (BitVec 23))
  /-- IMAX, R375. -/
  | imax (h : Hdr) (d : BitVec 6) (a : BitVec 6) (b : BitVec 6) (m : Bool) (pf : Option (BitVec 23))
  /-- IADDW, R373. -/
  | iaddw (h : Hdr) (d : BitVec 6) (a : BitVec 6) (b : BitVec 6) (m : Bool)
  /-- ISUBW, R373. -/
  | isubw (h : Hdr) (d : BitVec 6) (a : BitVec 6) (b : BitVec 6) (m : Bool)
  /-- SHLW, R412. -/
  | shlw (h : Hdr) (d : BitVec 6) (a : BitVec 6) (b : BitVec 6) (m : Bool)
  /-- ISETP, R376. -/
  | isetp (h : Hdr) (p : BitVec 3) (k : BitVec 3) (a : BitVec 6) (b : BitVec 6) (m : Bool) (pf : Option (BitVec 23))
  /-- ISETPW, R376. -/
  | isetpw (h : Hdr) (p : BitVec 3) (k : BitVec 3) (a : BitVec 6) (b : BitVec 6) (m : Bool) (pf : Option (BitVec 23))
  /-- AND, R337. -/
  | and (h : Hdr) (d : BitVec 6) (a : BitVec 6) (b : BitVec 6) (m : Bool)
  /-- OR, R337. -/
  | or (h : Hdr) (d : BitVec 6) (a : BitVec 6) (b : BitVec 6) (m : Bool)
  /-- XOR, R337. -/
  | xor (h : Hdr) (d : BitVec 6) (a : BitVec 6) (b : BitVec 6) (m : Bool)
  /-- LOP3, R382. -/
  | lop3 (h : Hdr) (d : BitVec 6) (a : BitVec 6) (b : BitVec 6) (m : Bool) (pf : Option (BitVec 23))
  /-- SHL, R408. -/
  | shl (h : Hdr) (d : BitVec 6) (a : BitVec 6) (b : BitVec 6) (m : Bool)
  /-- SHR, R408. -/
  | shr (h : Hdr) (d : BitVec 6) (a : BitVec 6) (b : BitVec 6) (m : Bool)
  /-- SAR, R408. -/
  | sar (h : Hdr) (d : BitVec 6) (a : BitVec 6) (b : BitVec 6) (m : Bool)
  /-- ROT, R404. -/
  | rot (h : Hdr) (d : BitVec 6) (a : BitVec 6) (b : BitVec 6) (m : Bool)
  /-- POPC, R343. -/
  | popc (h : Hdr) (d : BitVec 6) (a : BitVec 6)
  /-- CLZ, R343. -/
  | clz (h : Hdr) (d : BitVec 6) (a : BitVec 6)
  /-- BREV, R343. -/
  | brev (h : Hdr) (d : BitVec 6) (a : BitVec 6)
  /-- BFX, R342. -/
  | bfx (h : Hdr) (d : BitVec 6) (a : BitVec 6) (b : BitVec 6) (m : Bool)
  /-- BFI, R342. -/
  | bfi (h : Hdr) (d : BitVec 6) (a : BitVec 6) (b : BitVec 6) (pf : Option (BitVec 23))
  /-- MOV, R387. -/
  | mov (h : Hdr) (d : BitVec 6) (a : BitVec 6)
  /-- MOVI, R387. -/
  | movi (h : Hdr) (d : BitVec 6) (i : BitVec 13) (pf : Option (BitVec 23))
  /-- SHAPE, R409. -/
  | shape (h : Hdr) (d : BitVec 6) (a : BitVec 6)
  /-- UNIF, R425. -/
  | unif (h : Hdr) (d : BitVec 6) (a : BitVec 6)
  /-- PLOP, R398. -/
  | plop (h : Hdr) (p : BitVec 3) (f : BitVec 3) (q : BitVec 3) (r : BitVec 3) (s : Bool)
  /-- P2V, R392. -/
  | p2v (h : Hdr) (d : BitVec 6)
  /-- V2P, R427. -/
  | v2p (h : Hdr) (a : BitVec 6)
  /-- SHFL_LANE, R411. -/
  | shflLane (h : Hdr) (d : BitVec 6) (a : BitVec 6) (b : BitVec 6) (pf : Option (BitVec 23))
  /-- SHFL_SWAP, R411. -/
  | shflSwap (h : Hdr) (d : BitVec 6) (a : BitVec 6) (b : BitVec 6) (pf : Option (BitVec 23))
  /-- SHFL_BELOW, R411. -/
  | shflBelow (h : Hdr) (d : BitVec 6) (a : BitVec 6) (b : BitVec 6) (pf : Option (BitVec 23))
  /-- SHFL_ABOVE, R411. -/
  | shflAbove (h : Hdr) (d : BitVec 6) (a : BitVec 6) (b : BitVec 6) (pf : Option (BitVec 23))
  /-- VOTE_ALL, R428. -/
  | voteAll (h : Hdr) (s : BitVec 3) (p : BitVec 3)
  /-- VOTE_ANY, R428. -/
  | voteAny (h : Hdr) (s : BitVec 3) (p : BitVec 3)
  /-- VOTE_EQ, R428. -/
  | voteEq (h : Hdr) (s : BitVec 3) (p : BitVec 3)
  /-- VOTE_BALLOT_LO, R428. -/
  | voteBallotLo (h : Hdr) (d : BitVec 6) (s : BitVec 3)
  /-- VOTE_BALLOT_HI, R428. -/
  | voteBallotHi (h : Hdr) (d : BitVec 6) (s : BitVec 3)
  /-- MATCH, R384. -/
  | matchW (h : Hdr) (d : BitVec 6) (a : BitVec 6)
  /-- REDW, R401. -/
  | redw (h : Hdr) (d : BitVec 6) (a : BitVec 6) (b : BitVec 6)
  /-- CRD, R352. -/
  | crd (h : Hdr) (d : BitVec 6) (r : BitVec 13)
  /-- CWR, R354. -/
  | cwr (h : Hdr) (d : BitVec 6) (r : BitVec 13)
  /-- FADD, R365. -/
  | fadd (h : Hdr) (d : BitVec 6) (a : BitVec 6) (b : BitVec 6) (m : Bool)
  /-- FSUB, R365. -/
  | fsub (h : Hdr) (d : BitVec 6) (a : BitVec 6) (b : BitVec 6) (m : Bool)
  /-- FMUL, R365. -/
  | fmul (h : Hdr) (d : BitVec 6) (a : BitVec 6) (b : BitVec 6) (m : Bool)
  /-- FFMA, R365. -/
  | ffma (h : Hdr) (d : BitVec 6) (a : BitVec 6) (b : BitVec 6) (m : Bool) (pf : Option (BitVec 23))
  /-- FMIN, R365. -/
  | fmin (h : Hdr) (d : BitVec 6) (a : BitVec 6) (b : BitVec 6) (m : Bool)
  /-- FMAX, R365. -/
  | fmax (h : Hdr) (d : BitVec 6) (a : BitVec 6) (b : BitVec 6) (m : Bool)
  /-- FSETP, R361. -/
  | fsetp (h : Hdr) (p : BitVec 3) (k : BitVec 3) (a : BitVec 6) (b : BitVec 6) (m : Bool)
  /-- FRCP, R366. -/
  | frcp (h : Hdr) (d : BitVec 6) (a : BitVec 6)
  /-- FRSQ, R366. -/
  | frsq (h : Hdr) (d : BitVec 6) (a : BitVec 6)
  /-- FSQRT, R366. -/
  | fsqrt (h : Hdr) (d : BitVec 6) (a : BitVec 6)
  /-- FEXP2, R366. -/
  | fexp2 (h : Hdr) (d : BitVec 6) (a : BitVec 6)
  /-- FLOG2, R366. -/
  | flog2 (h : Hdr) (d : BitVec 6) (a : BitVec 6)
  /-- FSIN, R366. -/
  | fsin (h : Hdr) (d : BitVec 6) (a : BitVec 6)
  /-- FCOS, R366. -/
  | fcos (h : Hdr) (d : BitVec 6) (a : BitVec 6)
  /-- FRND, R368. -/
  | frnd (h : Hdr) (d : BitVec 6) (a : BitVec 6) (t : Bool) (x : BitVec 2)
  /-- CVT, R353. -/
  | cvt (h : Hdr) (d : BitVec 6) (a : BitVec 6) (x : BitVec 3) (y : BitVec 3) (m : Bool) (pf : Option (BitVec 23))
  /-- DADD, R359. -/
  | dadd (h : Hdr) (d : BitVec 6) (a : BitVec 6) (b : BitVec 6) (m : Bool)
  /-- DMUL, R359. -/
  | dmul (h : Hdr) (d : BitVec 6) (a : BitVec 6) (b : BitVec 6) (m : Bool)
  /-- DFMA, R359. -/
  | dfma (h : Hdr) (d : BitVec 6) (a : BitVec 6) (b : BitVec 6) (m : Bool) (pf : Option (BitVec 23))
  /-- DMIN, R359. -/
  | dmin (h : Hdr) (d : BitVec 6) (a : BitVec 6) (b : BitVec 6) (m : Bool)
  /-- DMAX, R359. -/
  | dmax (h : Hdr) (d : BitVec 6) (a : BitVec 6) (b : BitVec 6) (m : Bool)
  /-- DSETP, R361. -/
  | dsetp (h : Hdr) (p : BitVec 3) (k : BitVec 3) (a : BitVec 6) (b : BitVec 6) (m : Bool)
  /-- HADD2, R371. -/
  | hadd2 (h : Hdr) (d : BitVec 6) (a : BitVec 6) (b : BitVec 6) (m : Bool) (pf : Option (BitVec 23))
  /-- HMUL2, R371. -/
  | hmul2 (h : Hdr) (d : BitVec 6) (a : BitVec 6) (b : BitVec 6) (m : Bool) (pf : Option (BitVec 23))
  /-- HFMA2, R371. -/
  | hfma2 (h : Hdr) (d : BitVec 6) (a : BitVec 6) (b : BitVec 6) (m : Bool) (pf : Option (BitVec 23))
  /-- LD, R379. -/
  | ld (h : Hdr) (d : BitVec 6) (a : BitVec 6) (z : BitVec 3) (o : BitVec 4) (pf : Option (BitVec 23))
  /-- LD_ACQ, R379. -/
  | ldAcq (h : Hdr) (d : BitVec 6) (a : BitVec 6) (z : BitVec 3) (o : BitVec 4) (pf : Option (BitVec 23))
  /-- LD_POLL, R379. -/
  | ldPoll (h : Hdr) (d : BitVec 6) (a : BitVec 6) (z : BitVec 3) (o : BitVec 4) (pf : Option (BitVec 23))
  /-- LD_U, R379. -/
  | ldU (h : Hdr) (d : BitVec 6) (a : BitVec 6) (z : BitVec 3) (o : BitVec 4) (pf : Option (BitVec 23))
  /-- ST, R415. -/
  | st (h : Hdr) (s : BitVec 6) (a : BitVec 6) (z : BitVec 3) (o : BitVec 4) (pf : Option (BitVec 23))
  /-- ST_REL, R415. -/
  | stRel (h : Hdr) (s : BitVec 6) (a : BitVec 6) (z : BitVec 3) (o : BitVec 4) (pf : Option (BitVec 23))
  /-- LDS, R381. -/
  | lds (h : Hdr) (d : BitVec 6) (a : BitVec 6) (z : BitVec 3) (o : BitVec 4) (pf : Option (BitVec 23))
  /-- STS, R415. -/
  | sts (h : Hdr) (s : BitVec 6) (a : BitVec 6) (z : BitVec 3) (o : BitVec 4) (pf : Option (BitVec 23))
  /-- LDT, R381. -/
  | ldt (h : Hdr) (d : BitVec 6) (a : BitVec 6) (z : BitVec 3) (o : BitVec 4) (pf : Option (BitVec 23))
  /-- STT, R415. -/
  | stt (h : Hdr) (s : BitVec 6) (a : BitVec 6) (z : BitVec 3) (o : BitVec 4) (pf : Option (BitVec 23))
  /-- ATOM_ARITH, R339. -/
  | atomArith (h : Hdr) (d : BitVec 6) (a : BitVec 5) (b : BitVec 6) (u : BitVec 2) (pf : Option (BitVec 23))
  /-- ATOM_MINMAX, R339. -/
  | atomMinmax (h : Hdr) (d : BitVec 6) (a : BitVec 5) (b : BitVec 6) (u : BitVec 2) (pf : Option (BitVec 23))
  /-- ATOM_BIT, R339. -/
  | atomBit (h : Hdr) (d : BitVec 6) (a : BitVec 5) (b : BitVec 6) (u : BitVec 2) (pf : Option (BitVec 23))
  /-- ATOM_CAS, R339. -/
  | atomCas (h : Hdr) (d : BitVec 6) (a : BitVec 5) (b : BitVec 6) (u : BitVec 2) (pf : Option (BitVec 23))
  /-- STASHMAP, R161. -/
  | stashmap (h : Hdr) (d : BitVec 6) (a : BitVec 6) (b : BitVec 6)
  /-- STASHMAP_UN, R161. -/
  | stashmapUn (h : Hdr) (d : BitVec 6)
  /-- STASHPIN, R163. -/
  | stashpin (h : Hdr) (a : BitVec 6)
  /-- STASHPIN_UN, R163. -/
  | stashpinUn (h : Hdr) (a : BitVec 6)
  /-- RLD, R403. -/
  | rld (h : Hdr) (a : BitVec 5) (s : BitVec 6) (x : BitVec 4)
  /-- RST, R406. -/
  | rst (h : Hdr) (ch : BitVec 4) (a : BitVec 5) (s : BitVec 6) (x : BitVec 4)
  /-- RATOM, R399. -/
  | ratom (h : Hdr) (ch : BitVec 4) (a : BitVec 5) (s : BitVec 6) (x : BitVec 4)
  /-- RRED, R405. -/
  | rred (h : Hdr) (ch : BitVec 4) (a : BitVec 5) (s : BitVec 6) (x : BitVec 4)
  /-- CHJOIN, R211. -/
  | chjoin (h : Hdr) (ch : BitVec 4) (k : BitVec 4)
  /-- CHDRAIN, R211. -/
  | chdrain (h : Hdr) (ch : BitVec 4)
  /-- CHSTAT, R211. -/
  | chstat (h : Hdr) (ch : BitVec 4) (d : BitVec 6)
  /-- CPY_SH, R165. -/
  | cpySh (h : Hdr) (t : BitVec 6) (a : BitVec 6) (b : BitVec 5)
  /-- CPY_ST, R165. -/
  | cpySt (h : Hdr) (t : BitVec 6) (a : BitVec 6) (b : BitVec 5)
  /-- CPY_TILE, R165. -/
  | cpyTile (h : Hdr) (t : BitVec 6) (a : BitVec 6) (b : BitVec 5)
  /-- CPYR, R350. -/
  | cpyr (h : Hdr) (t : BitVec 6) (a : BitVec 6) (b : BitVec 5)
  /-- TWAIT_ANY, R418. -/
  | twaitAny (h : Hdr) (a : BitVec 6)
  /-- TWAIT_ALL, R418. -/
  | twaitAll (h : Hdr) (a : BitVec 6)
  /-- TFIRST, R418. -/
  | tfirst (h : Hdr) (d : BitVec 6) (a : BitVec 6)
  /-- TLWAIT, R421. -/
  | tlwait (h : Hdr) (d : BitVec 6) (a : BitVec 6)
  /-- TLREAD, R421. -/
  | tlread (h : Hdr) (d : BitVec 6) (a : BitVec 6)
  /-- TLD, R420. -/
  | tld (h : Hdr) (t : BitVec 4) (a : BitVec 6) (b : BitVec 6) (p : Bool) (v : BitVec 2)
  /-- TST, R420. -/
  | tst (h : Hdr) (t : BitVec 4) (a : BitVec 6) (b : BitVec 6) (v : BitVec 2)
  /-- TZERO, R422. -/
  | tzero (h : Hdr) (t : BitVec 4) (v : BitVec 2)
  /-- TMOV, R422. -/
  | tmov (h : Hdr) (t : BitVec 4) (a : BitVec 4) (v : BitVec 2)
  /-- MTRN, R390. -/
  | mtrn (h : Hdr) (t : BitVec 4) (a : BitVec 4) (v : BitVec 2)
  /-- TGET, R256. -/
  | tget (h : Hdr) (d : BitVec 6) (t : BitVec 4) (b : BitVec 6) (r : Bool) (i : BitVec 2) (pf : Option (BitVec 23))
  /-- TSET, R256. -/
  | tset (h : Hdr) (d : BitVec 6) (t : BitVec 4) (b : BitVec 6) (r : Bool) (i : BitVec 2) (pf : Option (BitVec 23))
  /-- MMA, R251. -/
  | mma (h : Hdr) (t : BitVec 4) (a : BitVec 4) (b : BitVec 4) (f : BitVec 4) (p : Bool) (v : BitVec 2)
  /-- MMAB, R253. -/
  | mmab (h : Hdr) (t : BitVec 4) (a : BitVec 4) (b : BitVec 4) (f : BitVec 4) (v : BitVec 2)
  /-- MSCALE, R254. -/
  | mscale (h : Hdr) (t : BitVec 4) (a : BitVec 4) (s : BitVec 6)
  /-- MPOLY, R259. -/
  | mpoly (h : Hdr) (t : BitVec 4) (a : BitVec 4) (n : BitVec 4) (p : Bool)
  /-- MITER_NS, R262. -/
  | miterNs (h : Hdr) (t : BitVec 4) (p : Bool)
  /-- MITER_NINV, R262. -/
  | miterNinv (h : Hdr) (t : BitVec 4) (a : BitVec 4) (p : Bool)
  /-- MITER_POLY, R262. -/
  | miterPoly (h : Hdr) (t : BitVec 4) (n : BitVec 4) (p : Bool)
  /-- TQNT, R255. -/
  | tqnt (h : Hdr) (t : BitVec 4) (a : BitVec 4) (s : BitVec 6)
  /-- TDQ, R255. -/
  | tdq (h : Hdr) (t : BitVec 4) (a : BitVec 4) (s : BitVec 6)
  /-- MX_WORD_END, R247. -/
  | mxWordEnd (core : Nat)
  /-- ENTRY_VISIBLE_AT_DIE_SCOPE, R181. -/
  | entryVisibleAtDieScope (blk : Nat) (seq : Nat)
  /-- CPLHEAD_WRITE, R329. -/
  | cplheadWrite (q : Nat) (v : Nat)
  deriving DecidableEq, Repr

end Sys2Proof
end

