-- ==== Sys2Proof/WellFormed.lean ====
section
/-! DEFINITION. The fetch checks of R101 that look at one instruction and its prefix (the checks of a whole chain group stand in Machine/Fetch.lean): register pairs and quads, reserved codes of operand fields, unused payload bits, reserved control registers, and a negated p7 guard. -/

namespace Sys2Proof.Wf

/-- R68: a field that names a pair holds an even code. -/
def even {n : Nat} (r : BitVec n) : Bool := r.toNat % 2 == 0

/-- R101: a quad field is divisible by 4. -/
def quad {n : Nat} (r : BitVec n) : Bool := r.toNat % 4 == 0

/-- R115: the payload sets no bit outside the host's mask. -/
def pay (pf : Option (BitVec 23)) (mask : BitVec 23) : Bool :=
  match pf with
  | none => true
  | some p => (p &&& ~~~mask) == 0

/-- R116, R358: payload bit 14 CE and bits 13..8 c, with further bits `more`. -/
def payC (pf : Option (BitVec 23)) (more : BitVec 23) : Bool := pay pf (0x7F00#23 ||| more)

/-- R358: an odd c with CE = 1 is no pair. -/
def cEven (pf : Option (BitVec 23)) : Bool :=
  match pf with
  | none => true
  | some p => !(p.getLsbD 14) || even (p.extractLsb' 8 6)

/-- R113: b64 needs an even data field and b128 one divisible by 4. -/
def dataReg (z : Nat) (r : BitVec 6) : Bool :=
  if z = 3 then even r else if z = 4 then quad r else true

/-- R116, R340: ORD in bits 1..0, SCOPE in bits 3..2; SCOPE 3 is reserved, and ORD = 0 needs SCOPE = 0. -/
def atomPay (pf : Option (BitVec 23)) : Bool :=
  match pf with
  | none => true
  | some p => pay pf 0xF && (p.extractLsb' 2 2 != 3) && (p.extractLsb' 0 2 != 0 || p.extractLsb' 2 2 == 0)

/-- R137: the placement fields a CVT's destination type allows; DESIGN CHOICE (log entry 74): BYTE other than 0 with a 16-bit destination, which the rule's list does not name, is reserved too (BYTE places 8-bit results only, R116, and an unused payload bit is refused, R115) (types: 0 f64, 1 f32, 2 f16, 3 bf16, 4 e4m3, 5 e5m2, 6 i32, 7 n32). -/
def cvtPlace (dt : BitVec 3) (pf : Option (BitVec 23)) : Bool :=
  match pf with
  | none => true
  | some p =>
    let half := (p.extractLsb' 1 2).toNat
    let byte := (p.extractLsb' 3 2).toNat
    let is16 := dt == 2 || dt == 3
    let is8 := dt == 4 || dt == 5
    (byte == 0 || half == 1) && decide (half ≠ 3) && (half == 0 || is16 || is8) && !(half == 2 && is8) &&
      (byte == 0 || is8)

/-- R118: the operand formats of MMA and MMAB. -/
def mmaFmt (f : Nat) : Bool := decide (f ≤ 6) || decide (8 ≤ f ∧ f ≤ 10)

/-- R119: the control-register numbers that are assigned. -/
def crKnown (n : Nat) : Bool :=
  decide (n ≤ 0x021) || decide (0x030 ≤ n ∧ n ≤ 0x065) || decide (0x068 ≤ n ∧ n ≤ 0x06B)

/-- R119: the assigned numbers whose access is RO. -/
def crReadOnly (n : Nat) : Bool :=
  decide (n ≤ 0x017) || decide (0x01A ≤ n ∧ n ≤ 0x01C) || decide (0x01F ≤ n ∧ n ≤ 0x021) || n == 0x064 || n == 0x065

/-- R101: GN = 1 with GP = 7 is no guard. -/
def guardOk (h : Hdr) : Bool := !(h.gn && h.gp == 7)

end Sys2Proof.Wf

namespace Sys2Proof

open Wf

/-- R101: an instruction that passes every fetch check on itself and its prefix. A lone PFX never does (R115), and an event has no word to check. -/
def Instr.wf (i : Instr) : Bool :=
  match i with
  | .packageReset _ => true
  | .coreRetired _ _ => true
  | .l2SliceRetired _ _ _ => true
  | .hbmChannelFailing _ _ => true
  | .hbmChannelRemap _ _ _ => true
  | .linkHalving _ => true
  | .linkSilenceTimeout _ => true
  | .linkLost _ => true
  | .planeLost _ => true
  | .portLost _ => true
  | .boardCapChange _ => true
  | .contextSuspend _ => true
  | .tokenGrant _ => true
  | .descriptorValidation => true
  | .blockPlacement _ => true
  | .steal _ _ => true
  | .warpExchange _ => true
  | .pathAged _ _ => true
  | .pollWatchWake _ _ _ => true
  | .pollWatchExpiry _ _ _ => true
  | .bankSwap _ => true
  | .swapComplete _ => true
  | .contextSave _ => true
  | .blockRestore _ => true
  | .longResultArrival _ _ _ => true
  | .cellarStart _ => true
  | .cellarSpillComplete _ => true
  | .cellarFillComplete _ => true
  | .subwarpReplay _ _ _ => true
  | .softErrorDetected _ _ _ _ => true
  | .memoryEccError _ => true
  | .ch0RoomEnqueue _ => true
  | .copyComplete _ _ => true
  | .snoopWritebackInFlight _ => true
  | .hostMemAccess _ _ _ _ => true
  | .mergeHoldExpiry _ _ => true
  | .packetSend _ _ => true
  | .escapementPacketArrival _ => true
  | .streamAck _ => true
  | .startRetry _ _ => true
  | .escapementContextFree _ => true
  | .retentionResend _ => true
  | .flitReplayRequest _ _ => true
  | .suspectAckTimeout _ => true
  | .coherenceReissueTimeout _ => true
  | .managementResendTimeout _ => true
  | .bufferLimitRecompute _ _ => true
  | .bufferLimitAnnounce _ _ => true
  | .linklost _ => true
  | .routesRecomputed _ _ => true
  | .delivered _ _ _ => true
  | .exchangeTimeout _ _ => true
  | .syncdone _ _ => true
  | .slotContribution _ => true
  | .slotDeadline _ _ => true
  | .slotFree _ _ => true
  | .timelineAdvance _ _ => true
  | .gridComplete _ => true
  | .miterPhaseStart _ => true
  | .miterIterationEnd _ => true
  | .errorLogDrain _ => true
  | .netpostAcknowledged _ _ _ => true
  | .doorbell _ _ => true
  | .queueEnable _ => true
  | .queueDisable _ => true
  | .ringHeadWrite _ _ => true
  | .hostRegisterWrite _ _ _ => true
  | .hostLaunch _ => true
  | .copy _ => true
  | .tlhold _ => true
  | .netpost _ => true
  | .netqp _ => true
  | .ctxcreate _ => true
  | .ctxdestroy _ => true
  | .tlbinv _ => true
  | .biasflip _ => true
  | .faultresp _ => true
  | .hostMapack _ => true
  | .chanconf _ => true
  | .kill _ => true
  | .brkresume _ => true
  | .suspend _ => true
  | .resume _ => true
  | .slotread _ => true
  | .keyinstall _ => true
  | .keyremove _ => true
  | .powercap _ => true
  | .attest _ => true
  | .fwstage _ => true
  | .pfx _ _ => false
  | .nop h => guardOk h
  | .bra h _ => guardOk h
  | .brx h a => guardOk h && (even a)
  | .call h _ _ => guardOk h
  | .callx h _ a => guardOk h && (even a)
  | .ret h => guardOk h
  | .unwind h _ => guardOk h
  | .yield h => guardOk h
  | .exit h => guardOk h
  | .trap h _ => guardOk h
  | .tret h => guardOk h
  | .brk h _ => guardOk h
  | .bar h => guardOk h
  | .pbinit h _ _ => guardOk h
  | .pbarr h _ => guardOk h
  | .pbwait h _ _ => guardOk h
  | .divg h i => guardOk h && (decide (i.toNat ≤ 15))
  | .reconv h i => guardOk h && (decide (i.toNat ≤ 15))
  | .grow h _ => guardOk h
  | .growTry h _ _ => guardOk h
  | .shrink h _ => guardOk h
  | .launch h d a _ => guardOk h && (even d && even a)
  | .mapack h _ => guardOk h
  | .fence h i => guardOk h && (decide (i.toNat ≤ 2))
  | .iadd h _ _ _ _ pf => guardOk h && (pay pf 0x3)
  | .iaddi h _ _ _ _ => guardOk h
  | .isub h _ _ _ _ pf => guardOk h && (pay pf 0x3)
  | .imul h _ _ _ _ => guardOk h
  | .imulh h _ _ _ _ pf => guardOk h && (pay pf 0x2)
  | .imad h _ _ _ _ pf => guardOk h && (payC pf 0)
  | .imin h _ _ _ _ pf => guardOk h && (pay pf 0x2)
  | .imax h _ _ _ _ pf => guardOk h && (pay pf 0x2)
  | .iaddw h d a _ _ => guardOk h && (even d && even a)
  | .isubw h d a _ _ => guardOk h && (even d && even a)
  | .shlw h d a _ _ => guardOk h && (even d && even a)
  | .isetp h _ k _ _ _ pf => guardOk h && (decide (k.toNat ≤ 5) && pay pf 2)
  | .isetpw h _ k a b m pf => guardOk h && (decide (k.toNat ≤ 5) && pay pf 2 && even a && (m || even b))
  | .and h _ _ _ _ => guardOk h
  | .or h _ _ _ _ => guardOk h
  | .xor h _ _ _ _ => guardOk h
  | .lop3 h _ _ _ _ pf => guardOk h && (pf.isSome && pay pf 0x3FFF)
  | .shl h _ _ _ _ => guardOk h
  | .shr h _ _ _ _ => guardOk h
  | .sar h _ _ _ _ => guardOk h
  | .rot h _ _ _ _ => guardOk h
  | .popc h _ _ => guardOk h
  | .clz h _ _ => guardOk h
  | .brev h _ _ => guardOk h
  | .bfx h _ _ _ _ => guardOk h
  | .bfi h _ _ _ pf => guardOk h && (payC pf 0)
  | .mov h _ _ => guardOk h
  | .movi h _ _ pf => guardOk h && (pay pf 0x7FFFF)
  | .shape h _ _ => guardOk h
  | .unif h _ _ => guardOk h
  | .plop h _ f _ r s => guardOk h && (decide (f.toNat ≤ 3) && (decide (f.toNat ≠ 3) || (r == 0 && !s)))
  | .p2v h _ => guardOk h
  | .v2p h _ => guardOk h
  | .shflLane h _ _ b pf => guardOk h && (pay pf 0x3F && (pf.isNone || b == 0))
  | .shflSwap h _ _ b pf => guardOk h && (pay pf 0x3F && (pf.isNone || b == 0))
  | .shflBelow h _ _ b pf => guardOk h && (pay pf 0x3F && (pf.isNone || b == 0))
  | .shflAbove h _ _ b pf => guardOk h && (pay pf 0x3F && (pf.isNone || b == 0))
  | .voteAll h _ _ => guardOk h
  | .voteAny h _ _ => guardOk h
  | .voteEq h _ _ => guardOk h
  | .voteBallotLo h _ _ => guardOk h
  | .voteBallotHi h _ _ => guardOk h
  | .matchW h d _ => guardOk h && (even d)
  | .redw h _ _ b => guardOk h && (decide (b.toNat ≤ 10))
  | .crd h _ r => guardOk h && (crKnown r.toNat)
  | .cwr h _ r => guardOk h && (crKnown r.toNat && !crReadOnly r.toNat)
  | .fadd h _ _ _ _ => guardOk h
  | .fsub h _ _ _ _ => guardOk h
  | .fmul h _ _ _ _ => guardOk h
  | .ffma h _ _ _ _ pf => guardOk h && (payC pf 0)
  | .fmin h _ _ _ _ => guardOk h
  | .fmax h _ _ _ _ => guardOk h
  | .fsetp h _ _ _ _ _ => guardOk h
  | .frcp h _ _ => guardOk h
  | .frsq h _ _ => guardOk h
  | .fsqrt h _ _ => guardOk h
  | .fexp2 h _ _ => guardOk h
  | .flog2 h _ _ => guardOk h
  | .fsin h _ _ => guardOk h
  | .fcos h _ _ => guardOk h
  | .frnd h d a t _ => guardOk h && (!t || (even d && even a))
  | .cvt h d a x y _ pf => guardOk h && ((x != y) && (x != 0 || even d) && (y != 0 || even a) && pay pf 0x1F && cvtPlace x pf)
  | .dadd h d a b m => guardOk h && (even d && even a && (m || even b))
  | .dmul h d a b m => guardOk h && (even d && even a && (m || even b))
  | .dfma h d a b m pf => guardOk h && (even d && even a && (m || even b) && payC pf 0 && cEven pf)
  | .dmin h d a b m => guardOk h && (even d && even a && (m || even b))
  | .dmax h d a b m => guardOk h && (even d && even a && (m || even b))
  | .dsetp h _ _ a b m => guardOk h && (even a && (m || even b))
  | .hadd2 h _ _ _ _ pf => guardOk h && (pay pf 4)
  | .hmul2 h _ _ _ _ pf => guardOk h && (pay pf 4)
  | .hfma2 h _ _ _ _ pf => guardOk h && (payC pf 4)
  | .ld h d a z _ _ => guardOk h && (even a && decide (z.toNat ≤ 6) && dataReg z.toNat d)
  | .ldAcq h d a z _ _ => guardOk h && (even a && decide (z.toNat ≤ 6) && dataReg z.toNat d)
  | .ldPoll h d a z _ _ => guardOk h && (even a && decide (z.toNat ≤ 6) && dataReg z.toNat d)
  | .ldU h d a z _ _ => guardOk h && (even a && decide (z.toNat ≤ 6) && dataReg z.toNat d)
  | .st h s a z _ _ => guardOk h && (even a && decide (z.toNat ≤ 4) && dataReg z.toNat s)
  | .stRel h s a z _ _ => guardOk h && (even a && decide (z.toNat ≤ 4) && dataReg z.toNat s)
  | .lds h d _ z _ _ => guardOk h && (decide (z.toNat ≤ 6) && dataReg z.toNat d)
  | .sts h s _ z _ _ => guardOk h && (decide (z.toNat ≤ 4) && dataReg z.toNat s)
  | .ldt h d _ z _ _ => guardOk h && (decide (z.toNat ≤ 6) && dataReg z.toNat d)
  | .stt h s _ z _ _ => guardOk h && (decide (z.toNat ≤ 4) && dataReg z.toNat s)
  | .atomArith h d _ b u pf => guardOk h && (atomPay pf && (u.toNat % 2 == 0 || (even d && even b)))
  | .atomMinmax h _ _ _ _ pf => guardOk h && (atomPay pf)
  | .atomBit h _ _ _ _ pf => guardOk h && (atomPay pf)
  | .atomCas h d _ b u pf => guardOk h && (atomPay pf && ((u == 0 && even b) || (u == 1 && even d && quad b)))
  | .stashmap h _ a _ => guardOk h && (even a)
  | .stashmapUn h _ => guardOk h
  | .stashpin h a => guardOk h && (even a)
  | .stashpinUn h a => guardOk h && (even a)
  | .rld h _ s x => guardOk h && (decide (x.toNat ≤ 4) && dataReg x.toNat s)
  | .rst h _ _ s x => guardOk h && (decide (x.toNat ≤ 4) && dataReg x.toNat s)
  | .ratom h _ _ s x => guardOk h && (decide (x.toNat ≤ 13) && (!(x == 1 || x == 3 || x == 12) || even s) && (x != 13 || quad s))
  | .rred h _ _ s x => guardOk h && (decide (x.toNat ≤ 4) && quad s)
  | .chjoin h _ _ => guardOk h
  | .chdrain h _ => guardOk h
  | .chstat h _ _ => guardOk h
  | .cpySh h _ a _ => guardOk h && (even a)
  | .cpySt h _ a _ => guardOk h && (even a)
  | .cpyTile h _ a _ => guardOk h && (even a)
  | .cpyr h t a b => guardOk h && (even a && decide (t.toNat ≤ 31) && b.toNat % 2 == 0)
  | .twaitAny h a => guardOk h && (even a)
  | .twaitAll h a => guardOk h && (even a)
  | .tfirst h _ a => guardOk h && (even a)
  | .tlwait h d a => guardOk h && (even a && decide (d.toNat ≤ 31))
  | .tlread h d a => guardOk h && (even d && decide (a.toNat ≤ 31))
  | .tld h _ a _ _ _ => guardOk h && (even a)
  | .tst h _ a _ _ => guardOk h && (even a)
  | .tzero h _ _ => guardOk h
  | .tmov h _ _ _ => guardOk h
  | .mtrn h _ _ _ => guardOk h
  | .tget h _ _ _ _ _ pf => guardOk h && (pay pf 0x1F)
  | .tset h _ _ _ _ _ pf => guardOk h && (pay pf 0x1F)
  | .mma h _ _ _ f _ _ => guardOk h && (mmaFmt f.toNat)
  | .mmab h _ _ _ f _ => guardOk h && (mmaFmt f.toNat)
  | .mscale h _ _ _ => guardOk h
  | .mpoly h _ _ _ _ => guardOk h
  | .miterNs h _ _ => guardOk h
  | .miterNinv h _ _ _ => guardOk h
  | .miterPoly h _ _ _ => guardOk h
  | .tqnt h _ _ _ => guardOk h
  | .tdq h _ _ _ => guardOk h
  | .mxWordEnd _ => true
  | .entryVisibleAtDieScope _ _ => true
  | .cplheadWrite _ _ => true

end Sys2Proof
end

