-- ==== Sys2Proof/Decode.lean ====
section
/-! DEFINITION. Decoding and encoding of instruction words, from the layouts of R96, R112, R115 to R118 and the encoding tables of the reference entries. Decoding is total: it answers an instruction or names why the word is none. -/

namespace Sys2Proof

/-- Why a word is no instruction (R101): its major is reserved, a sub-op code is reserved, or a bit its format marks zero is set, or there is no word. -/
inductive DecodeError where
  | reservedMajor
  | reservedSubop
  | mustBeZero
  | noWord
  deriving DecidableEq, Repr

/-- Bits 31..26 (R96). -/
def hdrOf (w : Word) : Hdr :=
  { c := w.getLsbD 31, w := w.getLsbD 30, gn := w.getLsbD 29, gp := w.extractLsb' 26 3 }

/-- Bits 25..19 (R96). -/
def opOf (w : Word) : BitVec 7 := w.extractLsb' 19 7

/-- A word from its header, major and operand bits (R96). -/
def wordOf (h : Hdr) (op : BitVec 7) (x : BitVec 19) : Word :=
  (BitVec.ofBool h.c ++ BitVec.ofBool h.w ++ BitVec.ofBool h.gn ++ h.gp ++ op ++ x : BitVec 32)

/-- R116: the majors that accept a PFX. -/
def isHost (op : BitVec 7) : Bool :=
  op == 0x17 || op == 0x18 || op == 0x19 || op == 0x1B || op == 0x1C || op == 0x1D || op == 0x1E || op == 0x22 ||
  op == 0x23 || op == 0x27 || op == 0x2E || op == 0x30 || op == 0x36 || op == 0x37 || op == 0x40 || op == 0x46 ||
  op == 0x49 || op == 0x4D || op == 0x4E || op == 0x4F || op == 0x50 || op == 0x51 || op == 0x52 || op == 0x53 ||
  op == 0x54 || op == 0x55 || op == 0x56 || op == 0x57 || op == 0x58 || op == 0x59 || op == 0x5A || op == 0x5B ||
  op == 0x5C || op == 0x5D || op == 0x70 || op == 0x71

/-- R115: the 23-bit payload of a PFX word: bits 29..26 and 18..0. -/
def payloadOf (w : Word) : BitVec 23 := (w.extractLsb' 26 4 ++ w.extractLsb' 0 19 : BitVec 23)

/-- R116: the payload bits a host uses. -/
def hostMask (op : BitVec 7) : BitVec 23 :=
  if op = 0x17 ∨ op = 0x19 then 0x3
  else if op = 0x1B ∨ op = 0x1D ∨ op = 0x1E ∨ op = 0x22 ∨ op = 0x23 then 0x2
  else if op = 0x1C ∨ op = 0x2E ∨ op = 0x40 ∨ op = 0x49 then 0x7F00
  else if op = 0x4F then 0x7F04
  else if op = 0x4D ∨ op = 0x4E then 0x4
  else if op = 0x27 then 0x3FFF
  else if op = 0x30 then 0x7FFFF
  else if op = 0x36 ∨ op = 0x37 then 0x3F
  else if op = 0x46 ∨ op = 0x70 ∨ op = 0x71 then 0x1F
  else if 0x5A ≤ op ∧ op ≤ 0x5D then 0xF
  else 0x7FFFFF

/-- R115, R397: the PFX word that carries payload p. -/
def pfxWord (p : BitVec 23) : Word :=
  (0#2 ++ p.extractLsb' 19 4 ++ 0x7F#7 ++ p.extractLsb' 0 19 : BitVec 32)

/-- R117, R118: the instruction of major op with operand bits x, under header h and payload pf. -/
def decodeOp (h : Hdr) (op : Nat) (x : BitVec 19) (pf : Option (BitVec 23)) : Except DecodeError Instr :=
  match op with
  | 0x00 =>
      if x.extractLsb' 0 19 == 0#19 then .ok (.nop h)
      else .error .mustBeZero
  | 0x01 =>
      .ok (.bra h (x.extractLsb' 0 19))
  | 0x02 =>
      if x.extractLsb' 13 6 == 0#6 && x.extractLsb' 0 7 == 0#7 then .ok (.brx h (x.extractLsb' 7 6))
      else .error .mustBeZero
  | 0x03 =>
      .ok (.call h (x.extractLsb' 16 3) (x.extractLsb' 0 16))
  | 0x04 =>
      if x.extractLsb' 13 3 == 0#3 && x.extractLsb' 0 7 == 0#7 then .ok (.callx h (x.extractLsb' 16 3) (x.extractLsb' 7 6))
      else .error .mustBeZero
  | 0x05 =>
      if x.extractLsb' 0 19 == 0#19 then .ok (.ret h)
      else .error .mustBeZero
  | 0x06 =>
      if x.extractLsb' 13 6 == 0#6 && x.extractLsb' 0 7 == 0#7 then .ok (.unwind h (x.extractLsb' 7 6))
      else .error .mustBeZero
  | 0x07 =>
      if x.extractLsb' 0 19 == 0#19 then .ok (.yield h)
      else .error .mustBeZero
  | 0x08 =>
      if x.extractLsb' 0 19 == 0#19 then .ok (.exit h)
      else .error .mustBeZero
  | 0x09 =>
      if x.extractLsb' 13 6 == 0#6 then .ok (.trap h (x.extractLsb' 0 13))
      else .error .mustBeZero
  | 0x0A =>
      if x.extractLsb' 0 19 == 0#19 then .ok (.tret h)
      else .error .mustBeZero
  | 0x0B =>
      if x.extractLsb' 13 6 == 0#6 then .ok (.brk h (x.extractLsb' 0 13))
      else .error .mustBeZero
  | 0x0C =>
      if x.extractLsb' 0 19 == 0#19 then .ok (.bar h)
      else .error .mustBeZero
  | 0x0D =>
      if x.extractLsb' 13 6 == 0#6 && x.extractLsb' 0 1 == 0#1 then .ok (.pbinit h (x.extractLsb' 7 6) (x.extractLsb' 1 6))
      else .error .mustBeZero
  | 0x0E =>
      if x.extractLsb' 13 6 == 0#6 && x.extractLsb' 0 7 == 0#7 then .ok (.pbarr h (x.extractLsb' 7 6))
      else .error .mustBeZero
  | 0x0F =>
      if x.extractLsb' 13 6 == 0#6 && x.extractLsb' 0 1 == 0#1 then .ok (.pbwait h (x.extractLsb' 7 6) (x.extractLsb' 1 6))
      else .error .mustBeZero
  | 0x10 =>
      if x.extractLsb' 13 6 == 0#6 then .ok (.divg h (x.extractLsb' 0 13))
      else .error .mustBeZero
  | 0x11 =>
      if x.extractLsb' 13 6 == 0#6 then .ok (.reconv h (x.extractLsb' 0 13))
      else .error .mustBeZero
  | 0x12 =>
      if x.extractLsb' 13 6 == 0#6 && x.extractLsb' 0 7 == 0#7 then .ok (.grow h (x.extractLsb' 7 6))
      else if x.extractLsb' 13 3 == 0#3 && x.extractLsb' 0 7 == 1#7 then .ok (.growTry h (x.extractLsb' 16 3) (x.extractLsb' 7 6))
      else .error .reservedSubop
  | 0x13 =>
      if x.extractLsb' 13 6 == 0#6 && x.extractLsb' 0 7 == 0#7 then .ok (.shrink h (x.extractLsb' 7 6))
      else .error .mustBeZero
  | 0x14 =>
      if x.extractLsb' 0 1 == 0#1 then .ok (.launch h (x.extractLsb' 13 6) (x.extractLsb' 7 6) (x.extractLsb' 1 6))
      else .error .mustBeZero
  | 0x15 =>
      if x.extractLsb' 13 6 == 0#6 && x.extractLsb' 0 7 == 0#7 then .ok (.mapack h (x.extractLsb' 7 6))
      else .error .mustBeZero
  | 0x16 =>
      if x.extractLsb' 13 6 == 0#6 then .ok (.fence h (x.extractLsb' 0 13))
      else .error .mustBeZero
  | 0x17 =>
      .ok (.iadd h (x.extractLsb' 13 6) (x.extractLsb' 7 6) (x.extractLsb' 1 6) (x.getLsbD 0) pf)
  | 0x18 =>
      .ok (.iaddi h (x.extractLsb' 13 6) (x.extractLsb' 7 6) (x.extractLsb' 0 7) pf)
  | 0x19 =>
      .ok (.isub h (x.extractLsb' 13 6) (x.extractLsb' 7 6) (x.extractLsb' 1 6) (x.getLsbD 0) pf)
  | 0x1A =>
      .ok (.imul h (x.extractLsb' 13 6) (x.extractLsb' 7 6) (x.extractLsb' 1 6) (x.getLsbD 0))
  | 0x1B =>
      .ok (.imulh h (x.extractLsb' 13 6) (x.extractLsb' 7 6) (x.extractLsb' 1 6) (x.getLsbD 0) pf)
  | 0x1C =>
      .ok (.imad h (x.extractLsb' 13 6) (x.extractLsb' 7 6) (x.extractLsb' 1 6) (x.getLsbD 0) pf)
  | 0x1D =>
      .ok (.imin h (x.extractLsb' 13 6) (x.extractLsb' 7 6) (x.extractLsb' 1 6) (x.getLsbD 0) pf)
  | 0x1E =>
      .ok (.imax h (x.extractLsb' 13 6) (x.extractLsb' 7 6) (x.extractLsb' 1 6) (x.getLsbD 0) pf)
  | 0x1F =>
      .ok (.iaddw h (x.extractLsb' 13 6) (x.extractLsb' 7 6) (x.extractLsb' 1 6) (x.getLsbD 0))
  | 0x20 =>
      .ok (.isubw h (x.extractLsb' 13 6) (x.extractLsb' 7 6) (x.extractLsb' 1 6) (x.getLsbD 0))
  | 0x21 =>
      .ok (.shlw h (x.extractLsb' 13 6) (x.extractLsb' 7 6) (x.extractLsb' 1 6) (x.getLsbD 0))
  | 0x22 =>
      .ok (.isetp h (x.extractLsb' 16 3) (x.extractLsb' 13 3) (x.extractLsb' 7 6) (x.extractLsb' 1 6) (x.getLsbD 0) pf)
  | 0x23 =>
      .ok (.isetpw h (x.extractLsb' 16 3) (x.extractLsb' 13 3) (x.extractLsb' 7 6) (x.extractLsb' 1 6) (x.getLsbD 0) pf)
  | 0x24 =>
      .ok (.and h (x.extractLsb' 13 6) (x.extractLsb' 7 6) (x.extractLsb' 1 6) (x.getLsbD 0))
  | 0x25 =>
      .ok (.or h (x.extractLsb' 13 6) (x.extractLsb' 7 6) (x.extractLsb' 1 6) (x.getLsbD 0))
  | 0x26 =>
      .ok (.xor h (x.extractLsb' 13 6) (x.extractLsb' 7 6) (x.extractLsb' 1 6) (x.getLsbD 0))
  | 0x27 =>
      .ok (.lop3 h (x.extractLsb' 13 6) (x.extractLsb' 7 6) (x.extractLsb' 1 6) (x.getLsbD 0) pf)
  | 0x28 =>
      .ok (.shl h (x.extractLsb' 13 6) (x.extractLsb' 7 6) (x.extractLsb' 1 6) (x.getLsbD 0))
  | 0x29 =>
      .ok (.shr h (x.extractLsb' 13 6) (x.extractLsb' 7 6) (x.extractLsb' 1 6) (x.getLsbD 0))
  | 0x2A =>
      .ok (.sar h (x.extractLsb' 13 6) (x.extractLsb' 7 6) (x.extractLsb' 1 6) (x.getLsbD 0))
  | 0x2B =>
      .ok (.rot h (x.extractLsb' 13 6) (x.extractLsb' 7 6) (x.extractLsb' 1 6) (x.getLsbD 0))
  | 0x2C =>
      if x.extractLsb' 0 7 == 0#7 then .ok (.popc h (x.extractLsb' 13 6) (x.extractLsb' 7 6))
      else if x.extractLsb' 0 7 == 2#7 then .ok (.clz h (x.extractLsb' 13 6) (x.extractLsb' 7 6))
      else if x.extractLsb' 0 7 == 4#7 then .ok (.brev h (x.extractLsb' 13 6) (x.extractLsb' 7 6))
      else .error .reservedSubop
  | 0x2D =>
      .ok (.bfx h (x.extractLsb' 13 6) (x.extractLsb' 7 6) (x.extractLsb' 1 6) (x.getLsbD 0))
  | 0x2E =>
      if x.extractLsb' 0 1 == 0#1 then .ok (.bfi h (x.extractLsb' 13 6) (x.extractLsb' 7 6) (x.extractLsb' 1 6) pf)
      else .error .mustBeZero
  | 0x2F =>
      if x.extractLsb' 0 7 == 0#7 then .ok (.mov h (x.extractLsb' 13 6) (x.extractLsb' 7 6))
      else .error .mustBeZero
  | 0x30 =>
      .ok (.movi h (x.extractLsb' 13 6) (x.extractLsb' 0 13) pf)
  | 0x31 =>
      if x.extractLsb' 0 7 == 0#7 then .ok (.shape h (x.extractLsb' 13 6) (x.extractLsb' 7 6))
      else .error .mustBeZero
  | 0x32 =>
      if x.extractLsb' 0 7 == 0#7 then .ok (.unif h (x.extractLsb' 13 6) (x.extractLsb' 7 6))
      else .error .mustBeZero
  | 0x33 =>
      if x.extractLsb' 10 3 == 0#3 && x.extractLsb' 4 3 == 0#3 then .ok (.plop h (x.extractLsb' 16 3) (x.extractLsb' 13 3) (x.extractLsb' 7 3) (x.extractLsb' 1 3) (x.getLsbD 0))
      else .error .mustBeZero
  | 0x34 =>
      if x.extractLsb' 0 13 == 0#13 then .ok (.p2v h (x.extractLsb' 13 6))
      else .error .mustBeZero
  | 0x35 =>
      if x.extractLsb' 13 6 == 0#6 && x.extractLsb' 0 7 == 0#7 then .ok (.v2p h (x.extractLsb' 7 6))
      else .error .mustBeZero
  | 0x36 =>
      if x.extractLsb' 0 1 == 0#1 then .ok (.shflLane h (x.extractLsb' 13 6) (x.extractLsb' 7 6) (x.extractLsb' 1 6) pf)
      else if x.extractLsb' 0 1 == 1#1 then .ok (.shflSwap h (x.extractLsb' 13 6) (x.extractLsb' 7 6) (x.extractLsb' 1 6) pf)
      else .error .reservedSubop
  | 0x37 =>
      if x.extractLsb' 0 1 == 0#1 then .ok (.shflBelow h (x.extractLsb' 13 6) (x.extractLsb' 7 6) (x.extractLsb' 1 6) pf)
      else if x.extractLsb' 0 1 == 1#1 then .ok (.shflAbove h (x.extractLsb' 13 6) (x.extractLsb' 7 6) (x.extractLsb' 1 6) pf)
      else .error .reservedSubop
  | 0x38 =>
      if x.extractLsb' 10 9 == 0#9 && x.extractLsb' 0 4 == 0#4 then .ok (.voteAll h (x.extractLsb' 7 3) (x.extractLsb' 4 3))
      else if x.extractLsb' 10 9 == 1#9 && x.extractLsb' 0 4 == 0#4 then .ok (.voteAny h (x.extractLsb' 7 3) (x.extractLsb' 4 3))
      else if x.extractLsb' 10 9 == 2#9 && x.extractLsb' 0 4 == 0#4 then .ok (.voteEq h (x.extractLsb' 7 3) (x.extractLsb' 4 3))
      else if x.extractLsb' 10 3 == 3#3 && x.extractLsb' 0 7 == 0#7 then .ok (.voteBallotLo h (x.extractLsb' 13 6) (x.extractLsb' 7 3))
      else if x.extractLsb' 10 3 == 4#3 && x.extractLsb' 0 7 == 0#7 then .ok (.voteBallotHi h (x.extractLsb' 13 6) (x.extractLsb' 7 3))
      else .error .reservedSubop
  | 0x39 =>
      if x.extractLsb' 0 7 == 0#7 then .ok (.matchW h (x.extractLsb' 13 6) (x.extractLsb' 7 6))
      else .error .mustBeZero
  | 0x3A =>
      if x.extractLsb' 0 1 == 0#1 then .ok (.redw h (x.extractLsb' 13 6) (x.extractLsb' 7 6) (x.extractLsb' 1 6))
      else .error .mustBeZero
  | 0x3B =>
      .ok (.crd h (x.extractLsb' 13 6) (x.extractLsb' 0 13))
  | 0x3C =>
      .ok (.cwr h (x.extractLsb' 13 6) (x.extractLsb' 0 13))
  | 0x3D =>
      .ok (.fadd h (x.extractLsb' 13 6) (x.extractLsb' 7 6) (x.extractLsb' 1 6) (x.getLsbD 0))
  | 0x3E =>
      .ok (.fsub h (x.extractLsb' 13 6) (x.extractLsb' 7 6) (x.extractLsb' 1 6) (x.getLsbD 0))
  | 0x3F =>
      .ok (.fmul h (x.extractLsb' 13 6) (x.extractLsb' 7 6) (x.extractLsb' 1 6) (x.getLsbD 0))
  | 0x40 =>
      .ok (.ffma h (x.extractLsb' 13 6) (x.extractLsb' 7 6) (x.extractLsb' 1 6) (x.getLsbD 0) pf)
  | 0x41 =>
      .ok (.fmin h (x.extractLsb' 13 6) (x.extractLsb' 7 6) (x.extractLsb' 1 6) (x.getLsbD 0))
  | 0x42 =>
      .ok (.fmax h (x.extractLsb' 13 6) (x.extractLsb' 7 6) (x.extractLsb' 1 6) (x.getLsbD 0))
  | 0x43 =>
      .ok (.fsetp h (x.extractLsb' 16 3) (x.extractLsb' 13 3) (x.extractLsb' 7 6) (x.extractLsb' 1 6) (x.getLsbD 0))
  | 0x44 =>
      if x.extractLsb' 0 7 == 0#7 then .ok (.frcp h (x.extractLsb' 13 6) (x.extractLsb' 7 6))
      else if x.extractLsb' 0 7 == 2#7 then .ok (.frsq h (x.extractLsb' 13 6) (x.extractLsb' 7 6))
      else if x.extractLsb' 0 7 == 4#7 then .ok (.fsqrt h (x.extractLsb' 13 6) (x.extractLsb' 7 6))
      else if x.extractLsb' 0 7 == 6#7 then .ok (.fexp2 h (x.extractLsb' 13 6) (x.extractLsb' 7 6))
      else if x.extractLsb' 0 7 == 8#7 then .ok (.flog2 h (x.extractLsb' 13 6) (x.extractLsb' 7 6))
      else if x.extractLsb' 0 7 == 10#7 then .ok (.fsin h (x.extractLsb' 13 6) (x.extractLsb' 7 6))
      else if x.extractLsb' 0 7 == 12#7 then .ok (.fcos h (x.extractLsb' 13 6) (x.extractLsb' 7 6))
      else .error .reservedSubop
  | 0x45 =>
      if x.extractLsb' 4 3 == 0#3 && x.extractLsb' 0 1 == 0#1 then .ok (.frnd h (x.extractLsb' 13 6) (x.extractLsb' 7 6) (x.getLsbD 3) (x.extractLsb' 1 2))
      else .error .mustBeZero
  | 0x46 =>
      .ok (.cvt h (x.extractLsb' 13 6) (x.extractLsb' 7 6) (x.extractLsb' 4 3) (x.extractLsb' 1 3) (x.getLsbD 0) pf)
  | 0x47 =>
      .ok (.dadd h (x.extractLsb' 13 6) (x.extractLsb' 7 6) (x.extractLsb' 1 6) (x.getLsbD 0))
  | 0x48 =>
      .ok (.dmul h (x.extractLsb' 13 6) (x.extractLsb' 7 6) (x.extractLsb' 1 6) (x.getLsbD 0))
  | 0x49 =>
      .ok (.dfma h (x.extractLsb' 13 6) (x.extractLsb' 7 6) (x.extractLsb' 1 6) (x.getLsbD 0) pf)
  | 0x4A =>
      .ok (.dmin h (x.extractLsb' 13 6) (x.extractLsb' 7 6) (x.extractLsb' 1 6) (x.getLsbD 0))
  | 0x4B =>
      .ok (.dmax h (x.extractLsb' 13 6) (x.extractLsb' 7 6) (x.extractLsb' 1 6) (x.getLsbD 0))
  | 0x4C =>
      .ok (.dsetp h (x.extractLsb' 16 3) (x.extractLsb' 13 3) (x.extractLsb' 7 6) (x.extractLsb' 1 6) (x.getLsbD 0))
  | 0x4D =>
      .ok (.hadd2 h (x.extractLsb' 13 6) (x.extractLsb' 7 6) (x.extractLsb' 1 6) (x.getLsbD 0) pf)
  | 0x4E =>
      .ok (.hmul2 h (x.extractLsb' 13 6) (x.extractLsb' 7 6) (x.extractLsb' 1 6) (x.getLsbD 0) pf)
  | 0x4F =>
      .ok (.hfma2 h (x.extractLsb' 13 6) (x.extractLsb' 7 6) (x.extractLsb' 1 6) (x.getLsbD 0) pf)
  | 0x50 =>
      .ok (.ld h (x.extractLsb' 13 6) (x.extractLsb' 7 6) (x.extractLsb' 4 3) (x.extractLsb' 0 4) pf)
  | 0x51 =>
      .ok (.ldAcq h (x.extractLsb' 13 6) (x.extractLsb' 7 6) (x.extractLsb' 4 3) (x.extractLsb' 0 4) pf)
  | 0x52 =>
      .ok (.ldPoll h (x.extractLsb' 13 6) (x.extractLsb' 7 6) (x.extractLsb' 4 3) (x.extractLsb' 0 4) pf)
  | 0x53 =>
      .ok (.ldU h (x.extractLsb' 13 6) (x.extractLsb' 7 6) (x.extractLsb' 4 3) (x.extractLsb' 0 4) pf)
  | 0x54 =>
      .ok (.st h (x.extractLsb' 13 6) (x.extractLsb' 7 6) (x.extractLsb' 4 3) (x.extractLsb' 0 4) pf)
  | 0x55 =>
      .ok (.stRel h (x.extractLsb' 13 6) (x.extractLsb' 7 6) (x.extractLsb' 4 3) (x.extractLsb' 0 4) pf)
  | 0x56 =>
      .ok (.lds h (x.extractLsb' 13 6) (x.extractLsb' 7 6) (x.extractLsb' 4 3) (x.extractLsb' 0 4) pf)
  | 0x57 =>
      .ok (.sts h (x.extractLsb' 13 6) (x.extractLsb' 7 6) (x.extractLsb' 4 3) (x.extractLsb' 0 4) pf)
  | 0x58 =>
      .ok (.ldt h (x.extractLsb' 13 6) (x.extractLsb' 7 6) (x.extractLsb' 4 3) (x.extractLsb' 0 4) pf)
  | 0x59 =>
      .ok (.stt h (x.extractLsb' 13 6) (x.extractLsb' 7 6) (x.extractLsb' 4 3) (x.extractLsb' 0 4) pf)
  | 0x5A =>
      .ok (.atomArith h (x.extractLsb' 13 6) (x.extractLsb' 8 5) (x.extractLsb' 2 6) (x.extractLsb' 0 2) pf)
  | 0x5B =>
      .ok (.atomMinmax h (x.extractLsb' 13 6) (x.extractLsb' 8 5) (x.extractLsb' 2 6) (x.extractLsb' 0 2) pf)
  | 0x5C =>
      .ok (.atomBit h (x.extractLsb' 13 6) (x.extractLsb' 8 5) (x.extractLsb' 2 6) (x.extractLsb' 0 2) pf)
  | 0x5D =>
      .ok (.atomCas h (x.extractLsb' 13 6) (x.extractLsb' 8 5) (x.extractLsb' 2 6) (x.extractLsb' 0 2) pf)
  | 0x5E =>
      if x.extractLsb' 0 1 == 0#1 then .ok (.stashmap h (x.extractLsb' 13 6) (x.extractLsb' 7 6) (x.extractLsb' 1 6))
      else if x.extractLsb' 0 13 == 1#13 then .ok (.stashmapUn h (x.extractLsb' 13 6))
      else .error .reservedSubop
  | 0x5F =>
      if x.extractLsb' 13 6 == 0#6 && x.extractLsb' 0 7 == 0#7 then .ok (.stashpin h (x.extractLsb' 7 6))
      else if x.extractLsb' 13 6 == 0#6 && x.extractLsb' 0 7 == 1#7 then .ok (.stashpinUn h (x.extractLsb' 7 6))
      else .error .reservedSubop
  | 0x60 =>
      if x.extractLsb' 15 4 == 0#4 then .ok (.rld h (x.extractLsb' 10 5) (x.extractLsb' 4 6) (x.extractLsb' 0 4))
      else .error .mustBeZero
  | 0x61 =>
      .ok (.rst h (x.extractLsb' 15 4) (x.extractLsb' 10 5) (x.extractLsb' 4 6) (x.extractLsb' 0 4))
  | 0x62 =>
      .ok (.ratom h (x.extractLsb' 15 4) (x.extractLsb' 10 5) (x.extractLsb' 4 6) (x.extractLsb' 0 4))
  | 0x63 =>
      .ok (.rred h (x.extractLsb' 15 4) (x.extractLsb' 10 5) (x.extractLsb' 4 6) (x.extractLsb' 0 4))
  | 0x64 =>
      if x.extractLsb' 14 1 == 0#1 && x.extractLsb' 0 10 == 0#10 then .ok (.chjoin h (x.extractLsb' 15 4) (x.extractLsb' 10 4))
      else .error .mustBeZero
  | 0x65 =>
      if x.extractLsb' 0 15 == 0#15 then .ok (.chdrain h (x.extractLsb' 15 4))
      else .error .mustBeZero
  | 0x66 =>
      if x.extractLsb' 10 5 == 0#5 && x.extractLsb' 0 4 == 0#4 then .ok (.chstat h (x.extractLsb' 15 4) (x.extractLsb' 4 6))
      else .error .mustBeZero
  | 0x67 =>
      if x.extractLsb' 0 2 == 0#2 then .ok (.cpySh h (x.extractLsb' 13 6) (x.extractLsb' 7 6) (x.extractLsb' 2 5))
      else if x.extractLsb' 0 2 == 1#2 then .ok (.cpySt h (x.extractLsb' 13 6) (x.extractLsb' 7 6) (x.extractLsb' 2 5))
      else if x.extractLsb' 0 2 == 2#2 then .ok (.cpyTile h (x.extractLsb' 13 6) (x.extractLsb' 7 6) (x.extractLsb' 2 5))
      else .error .reservedSubop
  | 0x68 =>
      if x.extractLsb' 0 2 == 0#2 then .ok (.cpyr h (x.extractLsb' 13 6) (x.extractLsb' 7 6) (x.extractLsb' 2 5))
      else .error .mustBeZero
  | 0x69 =>
      if x.extractLsb' 13 6 == 0#6 && x.extractLsb' 0 7 == 0#7 then .ok (.twaitAny h (x.extractLsb' 7 6))
      else if x.extractLsb' 13 6 == 0#6 && x.extractLsb' 0 7 == 1#7 then .ok (.twaitAll h (x.extractLsb' 7 6))
      else .error .reservedSubop
  | 0x6A =>
      if x.extractLsb' 0 7 == 0#7 then .ok (.tfirst h (x.extractLsb' 13 6) (x.extractLsb' 7 6))
      else .error .mustBeZero
  | 0x6B =>
      if x.extractLsb' 0 7 == 0#7 then .ok (.tlwait h (x.extractLsb' 13 6) (x.extractLsb' 7 6))
      else .error .mustBeZero
  | 0x6C =>
      if x.extractLsb' 0 7 == 0#7 then .ok (.tlread h (x.extractLsb' 13 6) (x.extractLsb' 7 6))
      else .error .mustBeZero
  | 0x6D =>
      .ok (.tld h (x.extractLsb' 15 4) (x.extractLsb' 9 6) (x.extractLsb' 3 6) (x.getLsbD 2) (x.extractLsb' 0 2))
  | 0x6E =>
      if x.extractLsb' 2 1 == 0#1 then .ok (.tst h (x.extractLsb' 15 4) (x.extractLsb' 9 6) (x.extractLsb' 3 6) (x.extractLsb' 0 2))
      else .error .mustBeZero
  | 0x6F =>
      if x.extractLsb' 2 13 == 0#13 then .ok (.tzero h (x.extractLsb' 15 4) (x.extractLsb' 0 2))
      else if x.extractLsb' 2 9 == 8#9 then .ok (.tmov h (x.extractLsb' 15 4) (x.extractLsb' 11 4) (x.extractLsb' 0 2))
      else if x.extractLsb' 2 9 == 16#9 then .ok (.mtrn h (x.extractLsb' 15 4) (x.extractLsb' 11 4) (x.extractLsb' 0 2))
      else .error .reservedSubop
  | 0x70 =>
      .ok (.tget h (x.extractLsb' 13 6) (x.extractLsb' 9 4) (x.extractLsb' 3 6) (x.getLsbD 2) (x.extractLsb' 0 2) pf)
  | 0x71 =>
      .ok (.tset h (x.extractLsb' 13 6) (x.extractLsb' 9 4) (x.extractLsb' 3 6) (x.getLsbD 2) (x.extractLsb' 0 2) pf)
  | 0x72 =>
      .ok (.mma h (x.extractLsb' 15 4) (x.extractLsb' 11 4) (x.extractLsb' 7 4) (x.extractLsb' 3 4) (x.getLsbD 2) (x.extractLsb' 0 2))
  | 0x73 =>
      if x.extractLsb' 2 1 == 0#1 then .ok (.mmab h (x.extractLsb' 15 4) (x.extractLsb' 11 4) (x.extractLsb' 7 4) (x.extractLsb' 3 4) (x.extractLsb' 0 2))
      else .error .mustBeZero
  | 0x74 =>
      if x.extractLsb' 7 4 == 0#4 && x.extractLsb' 0 1 == 0#1 then .ok (.mscale h (x.extractLsb' 15 4) (x.extractLsb' 11 4) (x.extractLsb' 1 6))
      else .error .mustBeZero
  | 0x75 =>
      if x.extractLsb' 7 4 == 0#4 && x.extractLsb' 0 2 == 0#2 then .ok (.mpoly h (x.extractLsb' 15 4) (x.extractLsb' 11 4) (x.extractLsb' 3 4) (x.getLsbD 2))
      else .error .mustBeZero
  | 0x76 =>
      if x.extractLsb' 1 14 == 0#14 then .ok (.miterNs h (x.extractLsb' 15 4) (x.getLsbD 0))
      else if x.extractLsb' 1 10 == 16#10 then .ok (.miterNinv h (x.extractLsb' 15 4) (x.extractLsb' 11 4) (x.getLsbD 0))
      else if x.extractLsb' 5 10 == 2#10 then .ok (.miterPoly h (x.extractLsb' 15 4) (x.extractLsb' 1 4) (x.getLsbD 0))
      else .error .reservedSubop
  | 0x77 =>
      if x.extractLsb' 6 5 == 0#5 then .ok (.tqnt h (x.extractLsb' 15 4) (x.extractLsb' 11 4) (x.extractLsb' 0 6))
      else if x.extractLsb' 6 5 == 1#5 then .ok (.tdq h (x.extractLsb' 15 4) (x.extractLsb' 11 4) (x.extractLsb' 0 6))
      else .error .reservedSubop
  | _ => .error .reservedMajor

/-- R115: bits 31..30 of a PFX are zero. -/
def isPfx (w : Word) : Bool := opOf w == 0x7F

/-- One word with the payload of the PFX before it, if any (R115, R116). -/
def decodeWord (w : Word) (pf : Option (BitVec 23)) : Except DecodeError Instr :=
  if isPfx w then
    if w.extractLsb' 30 2 == 0#2 then .ok (.pfx (w.extractLsb' 26 4) (w.extractLsb' 0 19)) else .error .mustBeZero
  else decodeOp (hdrOf w) (opOf w).toNat (w.extractLsb' 0 19) pf

/-- Words to an instruction and the words left: a PFX before a host is one instruction with it (R100); before anything else it stands alone, and the fetch checks refuse it (R115). -/
def decodeWords (ws : List Word) : Except DecodeError (Instr × List Word) :=
  match ws with
  | [] => .error .noWord
  | w :: rest =>
    match rest with
    | [] => (decodeWord w none).map fun i => (i, [])
    | v :: more =>
      if isPfx w && w.extractLsb' 30 2 == 0#2 && isHost (opOf v) then
        (decodeWord v (some (payloadOf w))).map fun i => (i, more)
      else (decodeWord w none).map fun i => (i, rest)

/-- R3: four bytes, lowest address first, as one word. -/
def wordOfBytes (a b c d : Byte) : Word := (d ++ c ++ b ++ a : BitVec 32)

/-- Bytes to words, lowest address first; a rest of fewer than four bytes is dropped. -/
def wordsOfBytes : List Byte → List Word
  | a :: b :: c :: d :: rest => wordOfBytes a b c d :: wordsOfBytes rest
  | _ => []

/-- R96, R3: decoding of any bytes. -/
def decode (bs : List Byte) : Except DecodeError (Instr × List Word) := decodeWords (wordsOfBytes bs)

/-- The payload an instruction's PFX carries, if it has one. -/
def Instr.payload (i : Instr) : Option (BitVec 23) :=
  match i with
  | .iadd _ _ _ _ _ pf => pf
  | .iaddi _ _ _ _ pf => pf
  | .isub _ _ _ _ _ pf => pf
  | .imulh _ _ _ _ _ pf => pf
  | .imad _ _ _ _ _ pf => pf
  | .imin _ _ _ _ _ pf => pf
  | .imax _ _ _ _ _ pf => pf
  | .isetp _ _ _ _ _ _ pf => pf
  | .isetpw _ _ _ _ _ _ pf => pf
  | .lop3 _ _ _ _ _ pf => pf
  | .bfi _ _ _ _ pf => pf
  | .movi _ _ _ pf => pf
  | .shflLane _ _ _ _ pf => pf
  | .shflSwap _ _ _ _ pf => pf
  | .shflBelow _ _ _ _ pf => pf
  | .shflAbove _ _ _ _ pf => pf
  | .ffma _ _ _ _ _ pf => pf
  | .cvt _ _ _ _ _ _ pf => pf
  | .dfma _ _ _ _ _ pf => pf
  | .hadd2 _ _ _ _ _ pf => pf
  | .hmul2 _ _ _ _ _ pf => pf
  | .hfma2 _ _ _ _ _ pf => pf
  | .ld _ _ _ _ _ pf => pf
  | .ldAcq _ _ _ _ _ pf => pf
  | .ldPoll _ _ _ _ _ pf => pf
  | .ldU _ _ _ _ _ pf => pf
  | .st _ _ _ _ _ pf => pf
  | .stRel _ _ _ _ _ pf => pf
  | .lds _ _ _ _ _ pf => pf
  | .sts _ _ _ _ _ pf => pf
  | .ldt _ _ _ _ _ pf => pf
  | .stt _ _ _ _ _ pf => pf
  | .atomArith _ _ _ _ _ pf => pf
  | .atomMinmax _ _ _ _ _ pf => pf
  | .atomBit _ _ _ _ _ pf => pf
  | .atomCas _ _ _ _ _ pf => pf
  | .tget _ _ _ _ _ _ pf => pf
  | .tset _ _ _ _ _ _ pf => pf
  | _ => none

/-- The word of an encoded instruction without its PFX; an event has none. -/
def Instr.word (i : Instr) : Option Word :=
  match i with
  | .pfx hi lo => some (0#2 ++ hi ++ 0x7F#7 ++ lo : BitVec 32)
  | .nop h => some (wordOf h 0x00 0#19)
  | .bra h t => some (wordOf h 0x01 t)
  | .brx h a => some (wordOf h 0x02 (0#6 ++ a ++ 0#7 : BitVec 19))
  | .call h e t => some (wordOf h 0x03 (e ++ t : BitVec 19))
  | .callx h e a => some (wordOf h 0x04 (e ++ 0#3 ++ a ++ 0#7 : BitVec 19))
  | .ret h => some (wordOf h 0x05 0#19)
  | .unwind h a => some (wordOf h 0x06 (0#6 ++ a ++ 0#7 : BitVec 19))
  | .yield h => some (wordOf h 0x07 0#19)
  | .exit h => some (wordOf h 0x08 0#19)
  | .trap h i => some (wordOf h 0x09 (0#6 ++ i : BitVec 19))
  | .tret h => some (wordOf h 0x0A 0#19)
  | .brk h i => some (wordOf h 0x0B (0#6 ++ i : BitVec 19))
  | .bar h => some (wordOf h 0x0C 0#19)
  | .pbinit h a b => some (wordOf h 0x0D (0#6 ++ a ++ b ++ 0#1 : BitVec 19))
  | .pbarr h a => some (wordOf h 0x0E (0#6 ++ a ++ 0#7 : BitVec 19))
  | .pbwait h a b => some (wordOf h 0x0F (0#6 ++ a ++ b ++ 0#1 : BitVec 19))
  | .divg h i => some (wordOf h 0x10 (0#6 ++ i : BitVec 19))
  | .reconv h i => some (wordOf h 0x11 (0#6 ++ i : BitVec 19))
  | .grow h a => some (wordOf h 0x12 (0#6 ++ a ++ 0#7 : BitVec 19))
  | .growTry h p a => some (wordOf h 0x12 (p ++ 0#3 ++ a ++ 1#7 : BitVec 19))
  | .shrink h a => some (wordOf h 0x13 (0#6 ++ a ++ 0#7 : BitVec 19))
  | .launch h d a b => some (wordOf h 0x14 (d ++ a ++ b ++ 0#1 : BitVec 19))
  | .mapack h a => some (wordOf h 0x15 (0#6 ++ a ++ 0#7 : BitVec 19))
  | .fence h i => some (wordOf h 0x16 (0#6 ++ i : BitVec 19))
  | .iadd h d a b m _ => some (wordOf h 0x17 (d ++ a ++ b ++ BitVec.ofBool m : BitVec 19))
  | .iaddi h d a i _ => some (wordOf h 0x18 (d ++ a ++ i : BitVec 19))
  | .isub h d a b m _ => some (wordOf h 0x19 (d ++ a ++ b ++ BitVec.ofBool m : BitVec 19))
  | .imul h d a b m => some (wordOf h 0x1A (d ++ a ++ b ++ BitVec.ofBool m : BitVec 19))
  | .imulh h d a b m _ => some (wordOf h 0x1B (d ++ a ++ b ++ BitVec.ofBool m : BitVec 19))
  | .imad h d a b m _ => some (wordOf h 0x1C (d ++ a ++ b ++ BitVec.ofBool m : BitVec 19))
  | .imin h d a b m _ => some (wordOf h 0x1D (d ++ a ++ b ++ BitVec.ofBool m : BitVec 19))
  | .imax h d a b m _ => some (wordOf h 0x1E (d ++ a ++ b ++ BitVec.ofBool m : BitVec 19))
  | .iaddw h d a b m => some (wordOf h 0x1F (d ++ a ++ b ++ BitVec.ofBool m : BitVec 19))
  | .isubw h d a b m => some (wordOf h 0x20 (d ++ a ++ b ++ BitVec.ofBool m : BitVec 19))
  | .shlw h d a b m => some (wordOf h 0x21 (d ++ a ++ b ++ BitVec.ofBool m : BitVec 19))
  | .isetp h p k a b m _ => some (wordOf h 0x22 (p ++ k ++ a ++ b ++ BitVec.ofBool m : BitVec 19))
  | .isetpw h p k a b m _ => some (wordOf h 0x23 (p ++ k ++ a ++ b ++ BitVec.ofBool m : BitVec 19))
  | .and h d a b m => some (wordOf h 0x24 (d ++ a ++ b ++ BitVec.ofBool m : BitVec 19))
  | .or h d a b m => some (wordOf h 0x25 (d ++ a ++ b ++ BitVec.ofBool m : BitVec 19))
  | .xor h d a b m => some (wordOf h 0x26 (d ++ a ++ b ++ BitVec.ofBool m : BitVec 19))
  | .lop3 h d a b m _ => some (wordOf h 0x27 (d ++ a ++ b ++ BitVec.ofBool m : BitVec 19))
  | .shl h d a b m => some (wordOf h 0x28 (d ++ a ++ b ++ BitVec.ofBool m : BitVec 19))
  | .shr h d a b m => some (wordOf h 0x29 (d ++ a ++ b ++ BitVec.ofBool m : BitVec 19))
  | .sar h d a b m => some (wordOf h 0x2A (d ++ a ++ b ++ BitVec.ofBool m : BitVec 19))
  | .rot h d a b m => some (wordOf h 0x2B (d ++ a ++ b ++ BitVec.ofBool m : BitVec 19))
  | .popc h d a => some (wordOf h 0x2C (d ++ a ++ 0#7 : BitVec 19))
  | .clz h d a => some (wordOf h 0x2C (d ++ a ++ 2#7 : BitVec 19))
  | .brev h d a => some (wordOf h 0x2C (d ++ a ++ 4#7 : BitVec 19))
  | .bfx h d a b m => some (wordOf h 0x2D (d ++ a ++ b ++ BitVec.ofBool m : BitVec 19))
  | .bfi h d a b _ => some (wordOf h 0x2E (d ++ a ++ b ++ 0#1 : BitVec 19))
  | .mov h d a => some (wordOf h 0x2F (d ++ a ++ 0#7 : BitVec 19))
  | .movi h d i _ => some (wordOf h 0x30 (d ++ i : BitVec 19))
  | .shape h d a => some (wordOf h 0x31 (d ++ a ++ 0#7 : BitVec 19))
  | .unif h d a => some (wordOf h 0x32 (d ++ a ++ 0#7 : BitVec 19))
  | .plop h p f q r s => some (wordOf h 0x33 (p ++ f ++ 0#3 ++ q ++ 0#3 ++ r ++ BitVec.ofBool s : BitVec 19))
  | .p2v h d => some (wordOf h 0x34 (d ++ 0#13 : BitVec 19))
  | .v2p h a => some (wordOf h 0x35 (0#6 ++ a ++ 0#7 : BitVec 19))
  | .shflLane h d a b _ => some (wordOf h 0x36 (d ++ a ++ b ++ 0#1 : BitVec 19))
  | .shflSwap h d a b _ => some (wordOf h 0x36 (d ++ a ++ b ++ 1#1 : BitVec 19))
  | .shflBelow h d a b _ => some (wordOf h 0x37 (d ++ a ++ b ++ 0#1 : BitVec 19))
  | .shflAbove h d a b _ => some (wordOf h 0x37 (d ++ a ++ b ++ 1#1 : BitVec 19))
  | .voteAll h s p => some (wordOf h 0x38 (0#9 ++ s ++ p ++ 0#4 : BitVec 19))
  | .voteAny h s p => some (wordOf h 0x38 (1#9 ++ s ++ p ++ 0#4 : BitVec 19))
  | .voteEq h s p => some (wordOf h 0x38 (2#9 ++ s ++ p ++ 0#4 : BitVec 19))
  | .voteBallotLo h d s => some (wordOf h 0x38 (d ++ 3#3 ++ s ++ 0#7 : BitVec 19))
  | .voteBallotHi h d s => some (wordOf h 0x38 (d ++ 4#3 ++ s ++ 0#7 : BitVec 19))
  | .matchW h d a => some (wordOf h 0x39 (d ++ a ++ 0#7 : BitVec 19))
  | .redw h d a b => some (wordOf h 0x3A (d ++ a ++ b ++ 0#1 : BitVec 19))
  | .crd h d r => some (wordOf h 0x3B (d ++ r : BitVec 19))
  | .cwr h d r => some (wordOf h 0x3C (d ++ r : BitVec 19))
  | .fadd h d a b m => some (wordOf h 0x3D (d ++ a ++ b ++ BitVec.ofBool m : BitVec 19))
  | .fsub h d a b m => some (wordOf h 0x3E (d ++ a ++ b ++ BitVec.ofBool m : BitVec 19))
  | .fmul h d a b m => some (wordOf h 0x3F (d ++ a ++ b ++ BitVec.ofBool m : BitVec 19))
  | .ffma h d a b m _ => some (wordOf h 0x40 (d ++ a ++ b ++ BitVec.ofBool m : BitVec 19))
  | .fmin h d a b m => some (wordOf h 0x41 (d ++ a ++ b ++ BitVec.ofBool m : BitVec 19))
  | .fmax h d a b m => some (wordOf h 0x42 (d ++ a ++ b ++ BitVec.ofBool m : BitVec 19))
  | .fsetp h p k a b m => some (wordOf h 0x43 (p ++ k ++ a ++ b ++ BitVec.ofBool m : BitVec 19))
  | .frcp h d a => some (wordOf h 0x44 (d ++ a ++ 0#7 : BitVec 19))
  | .frsq h d a => some (wordOf h 0x44 (d ++ a ++ 2#7 : BitVec 19))
  | .fsqrt h d a => some (wordOf h 0x44 (d ++ a ++ 4#7 : BitVec 19))
  | .fexp2 h d a => some (wordOf h 0x44 (d ++ a ++ 6#7 : BitVec 19))
  | .flog2 h d a => some (wordOf h 0x44 (d ++ a ++ 8#7 : BitVec 19))
  | .fsin h d a => some (wordOf h 0x44 (d ++ a ++ 10#7 : BitVec 19))
  | .fcos h d a => some (wordOf h 0x44 (d ++ a ++ 12#7 : BitVec 19))
  | .frnd h d a t x => some (wordOf h 0x45 (d ++ a ++ 0#3 ++ BitVec.ofBool t ++ x ++ 0#1 : BitVec 19))
  | .cvt h d a x y m _ => some (wordOf h 0x46 (d ++ a ++ x ++ y ++ BitVec.ofBool m : BitVec 19))
  | .dadd h d a b m => some (wordOf h 0x47 (d ++ a ++ b ++ BitVec.ofBool m : BitVec 19))
  | .dmul h d a b m => some (wordOf h 0x48 (d ++ a ++ b ++ BitVec.ofBool m : BitVec 19))
  | .dfma h d a b m _ => some (wordOf h 0x49 (d ++ a ++ b ++ BitVec.ofBool m : BitVec 19))
  | .dmin h d a b m => some (wordOf h 0x4A (d ++ a ++ b ++ BitVec.ofBool m : BitVec 19))
  | .dmax h d a b m => some (wordOf h 0x4B (d ++ a ++ b ++ BitVec.ofBool m : BitVec 19))
  | .dsetp h p k a b m => some (wordOf h 0x4C (p ++ k ++ a ++ b ++ BitVec.ofBool m : BitVec 19))
  | .hadd2 h d a b m _ => some (wordOf h 0x4D (d ++ a ++ b ++ BitVec.ofBool m : BitVec 19))
  | .hmul2 h d a b m _ => some (wordOf h 0x4E (d ++ a ++ b ++ BitVec.ofBool m : BitVec 19))
  | .hfma2 h d a b m _ => some (wordOf h 0x4F (d ++ a ++ b ++ BitVec.ofBool m : BitVec 19))
  | .ld h d a z o _ => some (wordOf h 0x50 (d ++ a ++ z ++ o : BitVec 19))
  | .ldAcq h d a z o _ => some (wordOf h 0x51 (d ++ a ++ z ++ o : BitVec 19))
  | .ldPoll h d a z o _ => some (wordOf h 0x52 (d ++ a ++ z ++ o : BitVec 19))
  | .ldU h d a z o _ => some (wordOf h 0x53 (d ++ a ++ z ++ o : BitVec 19))
  | .st h s a z o _ => some (wordOf h 0x54 (s ++ a ++ z ++ o : BitVec 19))
  | .stRel h s a z o _ => some (wordOf h 0x55 (s ++ a ++ z ++ o : BitVec 19))
  | .lds h d a z o _ => some (wordOf h 0x56 (d ++ a ++ z ++ o : BitVec 19))
  | .sts h s a z o _ => some (wordOf h 0x57 (s ++ a ++ z ++ o : BitVec 19))
  | .ldt h d a z o _ => some (wordOf h 0x58 (d ++ a ++ z ++ o : BitVec 19))
  | .stt h s a z o _ => some (wordOf h 0x59 (s ++ a ++ z ++ o : BitVec 19))
  | .atomArith h d a b u _ => some (wordOf h 0x5A (d ++ a ++ b ++ u : BitVec 19))
  | .atomMinmax h d a b u _ => some (wordOf h 0x5B (d ++ a ++ b ++ u : BitVec 19))
  | .atomBit h d a b u _ => some (wordOf h 0x5C (d ++ a ++ b ++ u : BitVec 19))
  | .atomCas h d a b u _ => some (wordOf h 0x5D (d ++ a ++ b ++ u : BitVec 19))
  | .stashmap h d a b => some (wordOf h 0x5E (d ++ a ++ b ++ 0#1 : BitVec 19))
  | .stashmapUn h d => some (wordOf h 0x5E (d ++ 1#13 : BitVec 19))
  | .stashpin h a => some (wordOf h 0x5F (0#6 ++ a ++ 0#7 : BitVec 19))
  | .stashpinUn h a => some (wordOf h 0x5F (0#6 ++ a ++ 1#7 : BitVec 19))
  | .rld h a s x => some (wordOf h 0x60 (0#4 ++ a ++ s ++ x : BitVec 19))
  | .rst h ch a s x => some (wordOf h 0x61 (ch ++ a ++ s ++ x : BitVec 19))
  | .ratom h ch a s x => some (wordOf h 0x62 (ch ++ a ++ s ++ x : BitVec 19))
  | .rred h ch a s x => some (wordOf h 0x63 (ch ++ a ++ s ++ x : BitVec 19))
  | .chjoin h ch k => some (wordOf h 0x64 (ch ++ 0#1 ++ k ++ 0#10 : BitVec 19))
  | .chdrain h ch => some (wordOf h 0x65 (ch ++ 0#15 : BitVec 19))
  | .chstat h ch d => some (wordOf h 0x66 (ch ++ 0#5 ++ d ++ 0#4 : BitVec 19))
  | .cpySh h t a b => some (wordOf h 0x67 (t ++ a ++ b ++ 0#2 : BitVec 19))
  | .cpySt h t a b => some (wordOf h 0x67 (t ++ a ++ b ++ 1#2 : BitVec 19))
  | .cpyTile h t a b => some (wordOf h 0x67 (t ++ a ++ b ++ 2#2 : BitVec 19))
  | .cpyr h t a b => some (wordOf h 0x68 (t ++ a ++ b ++ 0#2 : BitVec 19))
  | .twaitAny h a => some (wordOf h 0x69 (0#6 ++ a ++ 0#7 : BitVec 19))
  | .twaitAll h a => some (wordOf h 0x69 (0#6 ++ a ++ 1#7 : BitVec 19))
  | .tfirst h d a => some (wordOf h 0x6A (d ++ a ++ 0#7 : BitVec 19))
  | .tlwait h d a => some (wordOf h 0x6B (d ++ a ++ 0#7 : BitVec 19))
  | .tlread h d a => some (wordOf h 0x6C (d ++ a ++ 0#7 : BitVec 19))
  | .tld h t a b p v => some (wordOf h 0x6D (t ++ a ++ b ++ BitVec.ofBool p ++ v : BitVec 19))
  | .tst h t a b v => some (wordOf h 0x6E (t ++ a ++ b ++ 0#1 ++ v : BitVec 19))
  | .tzero h t v => some (wordOf h 0x6F (t ++ 0#13 ++ v : BitVec 19))
  | .tmov h t a v => some (wordOf h 0x6F (t ++ a ++ 8#9 ++ v : BitVec 19))
  | .mtrn h t a v => some (wordOf h 0x6F (t ++ a ++ 16#9 ++ v : BitVec 19))
  | .tget h d t b r i _ => some (wordOf h 0x70 (d ++ t ++ b ++ BitVec.ofBool r ++ i : BitVec 19))
  | .tset h d t b r i _ => some (wordOf h 0x71 (d ++ t ++ b ++ BitVec.ofBool r ++ i : BitVec 19))
  | .mma h t a b f p v => some (wordOf h 0x72 (t ++ a ++ b ++ f ++ BitVec.ofBool p ++ v : BitVec 19))
  | .mmab h t a b f v => some (wordOf h 0x73 (t ++ a ++ b ++ f ++ 0#1 ++ v : BitVec 19))
  | .mscale h t a s => some (wordOf h 0x74 (t ++ a ++ 0#4 ++ s ++ 0#1 : BitVec 19))
  | .mpoly h t a n p => some (wordOf h 0x75 (t ++ a ++ 0#4 ++ n ++ BitVec.ofBool p ++ 0#2 : BitVec 19))
  | .miterNs h t p => some (wordOf h 0x76 (t ++ 0#14 ++ BitVec.ofBool p : BitVec 19))
  | .miterNinv h t a p => some (wordOf h 0x76 (t ++ a ++ 16#10 ++ BitVec.ofBool p : BitVec 19))
  | .miterPoly h t n p => some (wordOf h 0x76 (t ++ 2#10 ++ n ++ BitVec.ofBool p : BitVec 19))
  | .tqnt h t a s => some (wordOf h 0x77 (t ++ a ++ 0#5 ++ s : BitVec 19))
  | .tdq h t a s => some (wordOf h 0x77 (t ++ a ++ 1#5 ++ s : BitVec 19))
  | _ => none

/-- The words of an instruction, its PFX first (R397); none for an event. -/
def encode (i : Instr) : List Word :=
  match i.word with
  | none => []
  | some w =>
    match i.payload with
    | none => [w]
    | some p => [pfxWord p, w]

/-- R3: a word's bytes, lowest address first. -/
def bytesOfWord (w : Word) : List Byte :=
  [w.extractLsb' 0 8, w.extractLsb' 8 8, w.extractLsb' 16 8, w.extractLsb' 24 8]

/-- The bytes of an instruction as memory holds them. -/
def encodeBytes (i : Instr) : List Byte := (encode i).flatMap bytesOfWord

/-- The instruction whose bits are w, numbered from the first word's bit 0; every encoded row of the table is one 32-bit word, so a shorter nbits leaves higher bits 0. -/
def decodeTableWord (nbits w : Nat) : Option Instr :=
  match decode (bytesOfWord (BitVec.ofNat 32 (w % 2 ^ min nbits 32))) with
  | .ok (i, _) => some i
  | .error _ => none

end Sys2Proof
end

