-- ==== Sys2Proof/Machine/State.lean ====
section
/-! DEFINITION. The machine's state as plain data: every piece of state the spec names (INVENTORY.md, '## State'), the reasons a step can stop, and the state right after package reset. -/

namespace Sys2Proof.Machine

/-- Sparse byte storage in canonical form: addresses strictly rising, no entry equal to 0 (log entry 1). -/
abbrev Memory := List Host.Cell

/-- R97: a packet index and a slot. -/
structure PC where
  pk : Nat
  sl : Nat
  deriving DecidableEq, Repr

/-- R71: a register of one warp with its shape tag: U, A(base, stride) or G. -/
inductive RVal where
  | u (v : Word)
  | a (base stride : Word)
  | g (vs : List Word)
  deriving DecidableEq, Repr

/-- R81: one call frame of a warp. `slots` names, while the frame is spilled, where each live member's Cellar slot lies, as (lane, virtual address), and `clob` marks lanes whose slot software has overwritten since (R87); `order` is the order of allocation (R91). -/
structure Frame where
  id       : Nat
  level    : Nat
  size     : Nat
  members  : Mask
  regs     : List RVal
  resident : Bool
  slots    : List (Nat × Nat)
  clob     : Mask
  order    : Nat
  deriving DecidableEq, Repr

/-- R86: a return entry: the byte address of the return word and the caller's frame id. -/
structure RetEnt where
  addr : Nat
  fid  : Nat
  deriving DecidableEq, Repr

/-- R53: a lane's poll record. -/
structure Poll where
  va   : Nat
  size : Nat
  vals : List Word
  deriving DecidableEq, Repr

/-- What a trap carries from its raising point to its frame (R287 to R290); `group` is the PC of the trapping chain group, `go` the handler's PC and `g7u` whether g7 carries tag U, both as they stand when the trap is entered (R288, R290). -/
structure Trap where
  cause  : Nat
  sub    : Nat
  commit : Bool
  second : Bool
  pc     : PC
  rpc    : PC
  group  : PC
  word   : Word
  pfx    : Word
  addr   : Nat
  mask   : Mask
  detail : Nat
  pathid : Nat
  mapver : Nat
  time   : Nat
  go     : PC := ⟨0, 0⟩
  g7u    : Bool := false
  deriving DecidableEq, Repr

/-- What a parked sub-warp does when its fault records are answered (R293): re-issue its word, write its trap frame (R289 step 3), or write the frame of a breakpoint stop (R296). -/
inductive ParkAct where
  | replay
  | frame (t : Trap)
  | stopFrame (id : Nat) (t : Trap)
  deriving DecidableEq, Repr

/-- R293, R294: a page a parked lane waits for: the lane, its record (die and sequence number), and the address the lane met. -/
structure PageWait where
  lane : Nat
  die  : Nat
  seq  : Nat
  va   : Nat
  deriving DecidableEq, Repr

/-- R46: the run states of a lane's path. A parked sub-warp lists the pages it waits for. A wait at a marker or for a token charge is not stored: it is computed from the return buffer and the token cache. `granted` is a path whose CALL or GROW has been charged n lines and issues again (R84), and `drained` one whose CHDRAIN or TWAIT has waited out its operations or tags and issues again (R211, R167); `stall` is a group that found no room (R203, R284) and is tried again after any event; `trapping` is a trap waiting for the lanes' earlier long results (R289 step 1); `fence` waits for released entries (R185). -/
inductive Run where
  | ready
  | reconv (k : Nat)
  | parked (act : ParkAct) (recs : List PageWait)
  | stopped (id : Nat)
  | watching (till : Nat) (sectors : List Nat) (wake : Bool)
  | alloc
  | granted (n : Nat)
  | fill
  | bar
  | pbwait (objs : List (Nat × Nat))
  | tag (all : Bool) (mask : Nat) (at_ : PC)
  | timeline (tl v : Nat)
  | chdrain (ch upto : Nat)
  | drained
  | miter (seq : Nat)
  | fence (waits : List Nat)
  | stall
  | trapping (t : Trap)
  deriving DecidableEq, Repr

/-- One lane of a warp: its PC, current frame, run state, return stack (newest 16 on chip, R86), poll record and handler mode; `first` is the trap frame its handler was entered with, which a double trap records (R292, log entry 68), and empty outside a handler. -/
structure Lane where
  exited  : Bool
  pc      : PC
  fid     : Nat
  run     : Run
  depth   : Nat
  stack   : List RetEnt
  poll    : Option Poll
  handler : Bool
  first   : List Byte
  deriving DecidableEq, Repr

/-- R47, R50, R429: one path of the path order list. -/
structure Path where
  lanes : Mask
  age   : Nat
  aged  : Bool
  yield : Bool
  deriving DecidableEq, Repr

/-- R54: one reconvergence site; `depth` pairs a lane with its recorded depth. -/
structure Site where
  expected : Mask
  arrived  : Mask
  waiting  : Mask
  depth    : List (Nat × Nat)
  deriving DecidableEq, Repr

/-- A place a lane accesses: a byte of global memory (key = package * 2^48 + PA) or an offset of the block-shared window. -/
inductive Loc where
  | glob (key : Nat)
  | shared (off : Nat)
  deriving DecidableEq, Repr

/-- One lane's access: lane, virtual address (or offset), place, size in bytes, and the operand words of an atomic, or the bytes of a load whose value was fixed at issue (R210); `cached` tells whether the issuing core's L1 may hold it (R156, R380). -/
structure Access where
  lane : Nat
  va   : Nat
  loc  : Loc
  size : Nat
  ops  : List Word
  cached : Bool := true
  deriving DecidableEq, Repr

/-- R105: a destination of a long word: a register of a frame or a g register with the bits the word places, or a predicate. -/
inductive Dest where
  | reg (r fid : Nat) (bits : Word)
  | pred (p : Nat)
  deriving DecidableEq, Repr

/-- How a return-buffer entry is filled when its result arrives. A load's `waits` are channel operations, as (channel, number), that must be acknowledged first (R210). `sample` codes: CR numbers 0 to 0x1FFF (a 64-bit CR is named by its word), 0x2000 + ch CHSTAT, 0x3000 + tl TLREAD. -/
inductive Pend where
  | value
  | load (ext : Nat) (uni poll : Bool) (accs : List Access) (waits : List (Nat × Nat))
  | atom (op : Nat) (accs : List Access)
  | chan (left : Mask) (accs : List Access)
  | sample (what : Nat)
  | tfirst (mask : Nat)
  | mx
  deriving DecidableEq, Repr

/-- R172: a page-table entry the device has cached: the context, the level, the bits of the virtual address that select it, and its value (log entry 85). -/
structure TlbEnt where
  ctx   : Nat
  lvl   : Nat
  tag   : Nat
  entry : Nat
  deriving DecidableEq, Repr

/-- A fault found when a result arrives, raised at its commit (R110): the lanes, the cause, and the addresses where they apply (R319). -/
structure CFault where
  lanes : Mask
  cause : Nat
  sub   : Nat
  va    : Option Nat
  pa    : Option Nat
  detail : Nat
  deriving DecidableEq, Repr

/-- R105: one return-buffer entry. `exec` loses the lanes that have committed; `live` is the live set at issue; `fail` marks the lanes R52 demotes; `waits` are released entries that must be visible first (R181). -/
structure Entry where
  seq   : Nat
  word  : Word
  pfx   : Word
  pc    : PC
  exec  : Mask
  live  : Mask
  dests : List Dest
  pend  : Pend
  acq   : Bool
  waits : List Nat
  done  : Bool
  vals  : List RVal
  fail  : Mask
  polls : List (Nat × Poll)
  fault : Option CFault
  held  : Bool
  deriving DecidableEq, Repr

/-- R308: an entry of a leader's issue record: the PC of the group, the path, the Exec of each word, and the long results it still waits for. -/
structure IssueRec where
  group : PC
  lanes : Mask
  execs : List Mask
  seqs  : List Nat
  deriving DecidableEq, Repr

/-- R307, R308: what a shadow warp holds of its own: the registers of its frames by frame id, its g registers, predicates and warp registers, the return entries of each lane, the long results it has computed and not committed, the issue record of its leader and the load-value queue, both by return-buffer entry. -/
structure Shadow where
  regs    : List (Nat × List RVal)
  gregs   : List RVal
  preds   : List Mask
  fpmode  : Word
  fpflags : Word
  vcs     : List Word
  rstacks : List (List RetEnt)
  own     : List (Nat × List RVal)
  record  : List IssueRec
  queue   : List (Nat × List RVal)
  deriving DecidableEq, Repr

/-- One warp (INVENTORY.md, 'Per warp'); in checked mode it is the leader of the shadow it holds (R307). -/
structure Warp where
  num     : Nat
  role    : Nat
  side    : Nat
  vacant  : Mask
  lanes   : List Lane
  paths   : List Path
  frames  : List Frame
  nextOrd : Nat
  gregs   : List RVal
  preds   : List Mask
  fpmode  : Word
  fpflags : Word
  vcs     : List Word
  clkHi   : Word
  sites   : List Site
  rb      : List Entry
  nextSeq : Nat
  waitCnt : Nat
  blocked : Nat
  shadow  : Option Shadow
  deriving DecidableEq, Repr

/-- R243, R316: one tile register's bytes and hidden poison bit. -/
structure Tile where
  bytes  : Memory
  poison : Bool
  deriving DecidableEq, Repr

/-- R258, R260, R355: the coefficients and iteration registers a block has on one core, with the hidden owner of an interrupted MITER (R264) and whether a CWR of MITSTAT is held. -/
structure MitRegs where
  coef    : List (BitVec 64)
  mitcap  : Word
  mittol  : Word
  mitdiv  : Word
  mitstat : Word
  mitres  : BitVec 64
  owner   : Option (Nat × PC)
  heldClr : Bool
  deriving DecidableEq, Repr

/-- A block's share of one core: place, tiles, tile control, coefficients and iteration registers (R355), locked lines. -/
structure Side where
  core    : Nat
  bank    : Nat
  slot    : Nat
  tagFirst : Nat
  tiles   : List Tile
  tctl    : List Word
  eng     : MitRegs
  locks   : List Nat
  deriving DecidableEq, Repr

/-- R200: an operation on a channel. An atomic names the entry and lane its result goes to; `seg` is a CPYR segment as sent: its bytes and the destination sectors that land poisoned (R351). -/
inductive ChOp where
  | store (sector va : Nat) (cells : List Host.Cell)
  | atom (op key va : Nat) (ops : List Word) (warp seq lane : Nat)
  | cpyr (src dst len done tl n : Nat)
  | seg (va : Nat) (cells : List Host.Cell) (bad : List Nat)
  | rred (op : Nat) (desc : BitVec 64) (v : Word) (warp seq lane : Nat)
  | join (chB upto : Nat)
  deriving DecidableEq, Repr

/-- R178: one store-buffer entry: a sector, its virtual address and the bytes held. `tst` marks an off-die sector of a TST, or the off-die operation of an ST.rel or ATOM, waiting for ch0 (R446), which does not count in the occupancy; `own` is such an operation with the entries that must be visible before it (R181). -/
structure SbEnt where
  seq      : Nat
  sector   : Nat
  va       : Nat
  cells    : List Host.Cell
  released : Bool
  tst      : Bool
  own      : Option (ChOp × List Nat)
  deriving DecidableEq, Repr

/-- R181: an ST.rel whose own store waits for released entries of its die. -/
structure RelStore where
  seq   : Nat
  waits : List Nat
  va    : Nat
  cells : List Host.Cell
  deriving DecidableEq, Repr

/-- R161: a stash mapping of one side; `undo` holds the home's bytes under dirty stash sectors, put back on kill (R162). -/
structure StashMap where
  side : Nat
  off  : Nat
  base : Nat
  len  : Nat
  undo : List Host.Cell
  deriving DecidableEq, Repr

/-- R165: a copy outstanding: kind 0 shared, 1 stash, 2 tile; the source as a list of translated pieces (va, key, bytes), a stash copy's destination likewise, how many 16-byte chunks a stash copy has put into the store buffer, the source sectors whose data the fabric lost (R231), the warp that issued it (R348), and the requests for source sectors that were lost, as (number, sector, cycle at which it goes out again) (R232). -/
structure Copy where
  tag  : Nat
  kind : Nat
  side : Nat
  dst  : Nat
  src  : List (Nat × Nat × Nat)
  into : List (Nat × Nat × Nat)
  pos  : Nat
  bad  : List Nat
  warp : Nat := 0
  lost : List (Nat × Nat × Nat) := []
  deriving DecidableEq, Repr

/-- R203: an entry of an issue queue. `first` to `last` number its operations; `hold` is the end of a merge hold (R204); `waits` are released entries that must be visible first (R181); `src` is the store-buffer entry it was released from (R285); `rel` tells that the entry stood there released (R312), and `ord` is its place in the block's issue order over all channels (R210). -/
structure ChEnt where
  ord   : Nat
  first : Nat
  last  : Nat
  dpkg  : Nat
  ddie  : Nat
  op    : ChOp
  hold  : Option Nat
  waits : List Nat
  src   : Option Nat
  rel   : Bool := false
  deriving DecidableEq, Repr

/-- R219: a destination-table entry. `retryAt` is set while a refused START waits (R214). -/
structure DestEnt where
  valid   : Bool
  start   : Bool
  pkg     : Nat
  die     : Nat
  next    : Nat
  ack     : Nat
  lastUse : Nat
  mark    : Nat
  retryAt : Option Nat
  deriving DecidableEq, Repr

/-- R207: a standing join condition: operations of chB numbered `upto` or below, before operations of this channel numbered above `after`. -/
structure JoinCond where
  chB   : Nat
  upto  : Nat
  after : Nat
  deriving DecidableEq, Repr

/-- A packet or contribution sent and not yet acknowledged, as its channel counts it; `tl` is the timeline and number a CPYR segment counts for (R193). -/
structure SentOp where
  first : Nat
  dpkg  : Nat
  ddie  : Nat
  seq   : Nat
  rred  : Bool
  src   : Option Nat
  tl    : Option (Nat × Nat)
  deriving DecidableEq, Repr

/-- One channel of a block (R199 to R219). -/
structure Chan where
  queue  : List ChEnt
  dests  : List DestEnt
  conds  : List JoinCond
  sent   : List SentOp
  err    : Option (Nat × Nat × Nat)
  issued : Nat
  deriving DecidableEq, Repr

/-- R276, R302, R313, R447: where a block is: placed, being restored into a place it holds while its record cannot be read, saved in memory, rolled back and waiting for its new placement, or gone (its channels may still drain, R223). -/
inductive Where where
  | placed
  | restoring
  | saved
  | rolled
  | gone
  deriving DecidableEq, Repr

/-- R84: a request of an allocation queue: kind 0 fill, 1 call, 2 grow. -/
structure AllocReq where
  kind  : Nat
  blk   : Nat
  warp  : Nat
  lanes : Mask
  fid   : Nat
  lines : Nat
  age   : Nat
  deriving DecidableEq, Repr

/-- One block (INVENTORY.md, 'Per block'). `stopped` marks a block whose save is under way (R302); `epoch` orders the times blocks take up stream identities (log entry 34); `reqs` and `cellar` are a saved block's allocation requests and whether its core's Cellar had started (R95), and `spoilt` the offsets of its record the host has written (R306). -/
structure Block where
  id      : Nat
  epoch   : Nat
  grid    : Nat
  ctx     : Nat
  bx      : Nat
  bY      : Nat
  bz      : Nat
  die     : Nat
  place   : Where
  width   : Nat
  threads : Nat
  entry   : Nat
  shsize  : Nat
  stsize  : Nat
  nchan   : Nat
  quota   : Nat
  ntags   : Nat
  ntiles  : Nat
  checked : Bool
  sides   : List Side
  lslot   : Nat
  sealed  : Bool
  rolls   : Nat
  stopped : Bool
  trapbase : BitVec 64
  ready   : BitVec 64
  tagErr  : List (Nat × Nat)
  copies  : List Copy
  shared  : Memory
  maps    : List StashMap
  sb      : List SbEnt
  sbSeq   : Nat
  rels    : List RelStore
  chans   : List Chan
  warps   : List Warp
  reqs    : List AllocReq
  cellar  : Bool
  spoilt  : List Nat
  deriving DecidableEq, Repr

/-- One register bank of a core: the context it holds, its allocation queue and Cellar (R84, R91). Its free lines follow from the frames it holds (R79, `Mach.freeLines`). `fills` are the granted fills under way, `spill` the frame being spilled, as (block, warp, frame), and `claims` the GROW requests that can never fit, each with the cycle its path traps in (R93, R435). -/
structure Bank where
  ctx   : Option Nat
  queue : List AllocReq
  cellar : Bool
  since : Option Nat
  fills : List AllocReq
  spill : Option (Nat × Nat × Nat)
  claims : List (Nat × AllocReq)
  deriving DecidableEq, Repr

/-- The MITER or MPOLY part of a running MX word (R259 to R264): mode 0 NS, 1 NINV, 2 POLY, 3 MPOLY; the tiles of X (or the result) and A with their TCTLs on the leader and on the follower as read at issue, the degree, the charges of one iteration still to be taken and the phases they start (R267), and what MITER carries between iterations; `src` holds the bytes of X and A as the word sees them, as (side, tile, bytes) (R247). -/
structure MxIter where
  mode  : Nat
  td    : Nat
  ta    : Nat
  n     : Nat
  pair  : Bool
  tctl  : Word
  tctlF : Word
  step  : Nat
  k     : Nat
  rise  : Nat
  flags : Word
  coef  : List (BitVec 64)
  cap   : Nat
  tol   : Word
  div   : Word
  src   : List (Nat × Nat × Memory)
  deriving DecidableEq, Repr

/-- The MX word running on a core's array: who issued it and where, its return-buffer entry if it has one, the cycle its current step ends, the tile bytes it writes as (side, tile, offset-byte pairs, the poison bit it sets or none), its iteration, the flags a mirrored word raises when it ends, and whether a later CWR of FPFLAGS overrides its flags (R132). `follower` marks the second core of a pair-mode word (R252). -/
structure MxRun where
  blk    : Nat
  warp   : Nat
  side   : Nat
  pc     : PC
  seq    : Option Nat
  endAt  : Nat
  writes : List (Nat × Nat × List Host.Cell × Option Bool)
  iter   : Option MxIter
  flags  : Word
  follower : Bool
  dead   : Bool
  deriving DecidableEq, Repr

/-- One core (INVENTORY.md, 'Per core'). `active` is the physical bank that is active, `exch` the cycle of the last exchange (R281), and `again` tells that a block placed during a swap calls for another at its end (R283). -/
structure Core where
  live    : Bool
  active  : Nat
  banks   : List Bank
  grains  : Nat
  swapEnd : Option Nat
  idle    : Option Nat
  actSet  : List (Nat × Nat)
  last    : Option (Nat × Nat)
  exch    : Option Nat
  mx      : Option MxRun
  again   : Bool := false
  deriving DecidableEq, Repr

/-- R271: a launch descriptor's fields. -/
structure Desc where
  entry    : Nat
  param    : Nat
  nx       : Nat
  ny       : Nat
  nz       : Nat
  threads  : Nat
  width    : Nat
  frame    : Nat
  roles    : List (Nat × Nat)
  shared   : Nat
  stash    : Nat
  tiles    : Nat
  tags     : Nat
  channels : Nat
  quota    : Nat
  diemask  : Nat
  priority : Nat
  checked  : Bool
  coop     : Bool
  paired   : Bool
  timeline : Nat
  isareq   : Nat
  deriving DecidableEq, Repr

/-- R285: what must hold before a device-launched child places a block: a released entry visible (or, homed off the die, acknowledged), or channel operations acknowledged. -/
inductive StartCond where
  | visible (blk seq : Nat)
  | acked (blk ch upto : Nat)
  deriving DecidableEq, Repr

/-- A grid the FE has accepted. -/
structure Grid where
  num     : Nat
  ctx     : Nat
  raw     : List Byte
  desc    : Desc
  valid   : Bool
  dies    : List Nat
  chunks  : List (Nat × List Nat)
  left    : Nat
  total   : Nat
  failed  : Option Nat
  killed  : Bool
  execErr : Bool
  cmd     : Option (Nat × Nat)
  tlNum   : Nat
  device  : Bool
  conds   : List StartCond
  refused : List (Nat × Nat × Nat)
  complete : Bool
  deriving DecidableEq, Repr

/-- R193: one timeline counter: the next number, the counter, and the completed numbers above it. -/
structure Timeline where
  next  : Nat
  count : Nat
  fin   : List Nat
  deriving DecidableEq, Repr

/-- One context. `events` lists the uncovered map events (version, kind, detection cycle), oldest first; `born` numbers the context among all that were created and `draws` counts its unspecified values (R6, log entry 4). -/
structure Ctx where
  id      : Nat
  root    : Nat
  locbase : Nat
  lsize   : Nat
  lslots  : Nat
  csabase : Nat
  ackver  : Nat
  mapver  : Nat
  events  : List (Nat × Nat × Nat)
  suspMap : Bool
  suspHost : Bool
  killed  : Bool
  tls     : List Timeline
  stops   : Nat
  born    : Nat
  draws   : Nat
  owes    : Bool := false
  deriving DecidableEq, Repr

/-- R295: a fault record; `answer` is the host's response (some true: refused), `posted` whether it is in the queue. -/
structure FaultRec where
  die     : Nat
  seq     : Nat
  va      : Nat
  ctx     : Nat
  access  : Nat
  place   : Nat
  waiters : Nat
  mapver  : Nat
  time    : Nat
  answer  : Option Bool
  deriving DecidableEq, Repr

/-- R21: a die's entry of the resource map. -/
structure DieEnt where
  state    : Nat
  cores    : Nat
  slices   : Nat
  channels : Nat
  hwver    : Nat
  serial   : Nat
  deriving DecidableEq, Repr

/-- R22: a link's entry. -/
structure LinkEnt where
  state   : Nat
  modmask : Nat
  width   : Nat
  replays : Nat
  bdp     : Nat
  deriving DecidableEq, Repr

/-- R24: a port's entry. -/
structure PortEnt where
  state    : Nat
  ver      : Nat
  peerPkg  : Nat
  peerPort : Nat
  deriving DecidableEq, Repr

/-- R26: an event-history record. -/
structure MapEvent where
  ver  : Nat
  kind : Nat
  obj  : Nat
  idx  : Nat
  time : Nat
  deriving DecidableEq, Repr

/-- R19 to R26: the resource map; planes hold (STATE, SLOTS). -/
structure ResMap where
  ver     : Nat
  dies    : List DieEnt
  links   : List LinkEnt
  planes  : List (Nat × Nat)
  ports   : List PortEnt
  limit   : Nat
  rate    : Nat
  templim : Nat
  cause   : Nat
  ratemax : Nat
  pkg     : Nat
  dom     : Nat
  hist    : List MapEvent
  deriving DecidableEq, Repr

/-- R225, R233: one direction of a link: the receive port's limits by class, the bytes received in the period, the limits computed and not yet in effect, the period they were computed in, the 12-bit number of the next flit, and the last 64 flits as (number, class), and the flits that keep failing their CRC, with how often each has (R225). -/
structure LinkDir where
  lim    : List Nat
  recv   : List Nat
  new    : List Nat
  period : Nat
  seq    : Nat
  sent   : List (Nat × Nat)
  fails  : List (FlitLoss × Nat)
  deriving DecidableEq, Repr

/-- A link's running state: replays as (module, cycle) of the last 1 ms (R234), since when it owes flits and delivers none (R234), and its two directions, named after the endpoint of R14 that receives. -/
structure LinkRun where
  reps  : List (Nat × Nat)
  quiet : Option Nat
  dirA  : LinkDir
  dirB  : LinkDir
  deriving DecidableEq, Repr

/-- R213: the identity of a stream. -/
structure Strm where
  die  : Nat
  core : Nat
  slot : Nat
  ch   : Nat
  dpkg : Nat
  ddie : Nat
  deriving DecidableEq, Repr

/-- A channel packet; `tags` are its join tags (channel, sequence number), R207; `route` and `port` are the links it was sent over and the port it leaves by (R227, R228). -/
structure Packet where
  id    : Nat
  blk   : Nat
  strm  : Strm
  seq   : Nat
  mark  : Nat
  epoch : Nat
  start : Bool
  first : Nat
  op    : ChOp
  tags  : List (Nat × Nat)
  route : List (Nat × Bool)
  port  : Option Nat
  sentAt : Nat
  deriving DecidableEq, Repr

/-- R214: a stream context of a destination's Escapement; `blk` is the block whose stream it is, and `epoch` tells when that block took up the identity (R445, log entry 34). -/
structure EscCtx where
  strm    : Strm
  blk     : Nat
  epoch   : Nat
  mark    : Nat
  next    : Nat
  began   : Bool
  waiting : List Packet
  idleAt  : Nat
  deriving DecidableEq, Repr

/-- An acknowledgement in flight to the source (R215): cumulative, with an error as (cause, VA, PA), a retry response to a START, an atomic's value with a failed compare (R52) or the fault it commits, or an RRED's answer. -/
inductive Ack where
  | upto (blk : Nat) (strm : Strm) (mark n : Nat) (err : Option (Nat × Nat × Nat))
  | retry (blk : Nat) (strm : Strm) (mark : Nat)
  | value (blk : Nat) (strm : Strm) (mark n : Nat) (warp seq lane : Nat) (vals : List Word) (fail : Bool) (bad : Option (Nat × Nat × Nat × Nat))
  | rred (blk ch first warp seq lane : Nat) (vals : List Word)
  deriving DecidableEq, Repr

/-- An RRED contribution in flight to its slot. -/
structure Contrib where
  id    : Nat
  blk   : Nat
  ch    : Nat
  first : Nat
  die   : Nat
  op    : Nat
  desc  : BitVec 64
  v     : Word
  warp  : Nat
  seq   : Nat
  lane  : Nat
  sentAt : Nat
  deriving DecidableEq, Repr

/-- R236 to R240: a reduction slot; `got` lists the counted contributions (index, contribution). -/
structure RSlot where
  state    : Nat
  op       : Nat
  gen      : Nat
  count    : Nat
  opened   : Nat
  deadline : Nat
  got      : List (Nat × Contrib)
  result   : Word
  status   : Word
  freeAt   : Nat
  deriving DecidableEq, Repr

/-- R235: the handshake of a pair of dies: 0 NORMAL, 1 HOLD, 2 EXCHANGE, 3 REPLAY, 4 SYNCDONE; DELIVERED values received. -/
structure Pair where
  src  : Nat
  dst  : Nat
  st   : Nat
  since : Nat
  got  : List (Strm × Option Nat)
  deriving DecidableEq, Repr

/-- R231: a home's directory entry of a 1,024-byte line that is not plain: suspect until a cycle, with the cycle its re-invalidation is acknowledged in, or with a request to be reissued at a cycle; `peer` is the other die of the message lost, when its link tells. Which caches hold a line is not kept (log entry 20). -/
structure DirEnt where
  line    : Nat
  peer    : Option Nat
  suspect : Option Nat
  ackAt   : Nat
  reissue : Option Nat
  deriving DecidableEq, Repr

/-- R318: an error-log ring: records not yet drained, the next SEQ, and the count of dropped records. -/
structure ErrLog where
  recs : List (List Byte)
  seq  : Nat
  lost : Nat
  deriving DecidableEq, Repr

/-- R296, R318, R325: a notice that follows a record into the aggregate log: how many held records stand before that record, the host address it was written to, and the notice, ARG1 none standing for that address. -/
structure RingNote where
  after : Nat
  place : Option Nat
  kind  : Nat
  ctx   : Nat
  arg0  : Nat
  arg1  : Option Nat
  deriving DecidableEq, Repr

/-- R325: a host ring, the records it holds back, and the notices that follow them. -/
structure Ring where
  base : Nat
  logs : Nat
  head : Nat
  tail : Nat
  held : List (List Byte)
  notes : List RingNote
  deriving DecidableEq, Repr

/-- R326: a queue state block, its completion count, its held completions, whether fetching has stopped until the next DOORBELL write, and a TLHOLD that keeps later commands waiting. -/
structure Queue where
  cmdbase  : Nat
  cplbase  : Nat
  logs     : Nat
  ctx      : Nat
  enable   : Bool
  ver      : Nat
  doorbell : Nat
  nextexp  : Nat
  lastacc  : Nat
  lastcomp : Nat
  lasterr  : Nat
  errstat  : Nat
  cplhead  : Nat
  cplcount : Nat
  held     : List (List Byte)
  done     : List Nat
  halted   : Bool
  deriving DecidableEq, Repr

/-- An accepted command that has not completed (R327); `tlNum` is its timeline number, `wait` the fault record it waits on and `va` the address it missed at (R450), and `ctx` the context its queue was bound to as it was accepted (R326). -/
structure Cmd where
  q       : Nat
  seq     : Nat
  raw     : List Byte
  started : Bool
  tlNum   : Nat
  wait    : List (Nat × Nat)
  pos     : Nat
  ctx     : Nat := 0
  va      : Nat := 0
  deriving DecidableEq, Repr

/-- R330 NETQP: a RoCEv2 queue pair. -/
structure NetQp where
  ctx  : Nat
  port : Nat
  qpn  : Nat
  peer : Nat
  mtu  : Nat
  ip   : List Byte
  deriving DecidableEq, Repr

/-- R48 to R50: the issue under way in the present cycle: the warp, its paths that were ready, those that have issued a word, the second path still to issue, FPMODE as the cycle began (R128), and whether a YIELD gives the warp's place away as the cycle ends (R429). -/
structure Front where
  blk    : Nat
  warp   : Nat
  ready  : List Mask
  issued : List Mask
  second : Option Mask
  fpmode : Word
  smode  : Word
  yields : Bool := false
  deriving DecidableEq, Repr

/-- R334: the value of an encryption key: key 0 of a boot, or the 64 bytes a blob held. -/
inductive KeyVal where
  | root (boot : Nat)
  | blob (bytes : List Byte)
  deriving DecidableEq, Repr

/-- The package: everything the spec gives the machine. `keys` are the installed keys with their identities, the places of their values in `keyTab`; `boots` numbers the boots, and `sealKeys` are the sectors last written under another key than the first, by identity (R334, log entry 28); `tlb` holds cached page-table entries (R172); `l1Bad` are sectors whose copy in a core's L1 a lost fill has poisoned, as (core, sector) (R231); `ctxCnt` counts the contexts created. `pubBody` and `pubVer` are the body and the header version of the map image as a reader sees them (R27), and `booting` is what Favos finds while it runs (R16). `mgmt` are the LINKLOST messages on their way to the dies, as (link, or 26 and more for a plane; die; the cycle at which a lost one goes out again, else 0) (R231, R235), and `ackOpen` tells for a route how many acknowledgements still travel in the flit whose first one has arrived (R241). `links` holds the 26 links and, from 26 on, the 36 Igroxel ports. `lostAcks` are acknowledgements an uncorrectable flit lost, which the Escapement sends again for a duplicate (R214, R231). `nextCore`, `front` and `period` place the schedule: the core served next, the issue under way, and the last 256-cycle period whose grains were granted (R266). -/
structure Mach where
  clock    : Nat
  bootState : Nat
  bootStep : Nat
  bootReason : Nat
  rmap     : ResMap
  pubBody  : ResMap
  pubVer   : Nat
  booting  : Option BootReport
  hostCap  : Nat
  boardCap : Nat
  rateNow  : Nat
  temp     : Nat
  hot      : Bool
  keys     : List (Nat × Nat)
  keyTab   : List KeyVal
  boots    : Nat
  sealKeys : List (Nat × Nat)
  tlb      : List TlbEnt
  bias     : List Nat
  mem      : Memory
  poison   : List Nat
  l1Bad    : List (Nat × Nat)
  dir      : List DirEnt
  rings    : List Ring
  queues   : List Queue
  cmds     : List Cmd
  grids    : List Grid
  gridCnt  : Nat
  ctxs     : List Ctx
  cores    : List Core
  blocks   : List Block
  nextBlk  : Nat
  faults   : List FaultRec
  faultSeq : List Nat
  logs     : List ErrLog
  esc      : List EscCtx
  net      : List Packet
  retain   : List Packet
  nextPkt  : Nat
  acks     : List Ack
  lostAcks : List Ack
  contribs : List Contrib
  heldCon  : List Contrib
  slots    : List (List RSlot)
  pairs    : List Pair
  links    : List LinkRun
  mgmt     : List (Nat × Nat × Nat)
  ackOpen  : List (List (Nat × Bool) × Nat)
  chanReq  : List (Nat × Nat × Bool)
  qps      : List NetQp
  image    : List Byte
  staged   : Option (List Byte)
  nextCore : Nat
  front    : Option Front
  period   : Nat
  ctxCnt   : Nat
  deriving DecidableEq, Repr

/-- The chain group being issued: the machine as its words read it (R103), who issues it, the group's PC, the PC after it, the word at hand with its prefix and slot, the lanes already parked, the PATHID, FPMODE as the cycle began (R128), the PCs of the words fetched (R171), and, once a word of the group has to wait, the machine the group leaves in place of its effect (R101). -/
structure Issue where
  base   : Mach
  blk    : Nat
  warp   : Nat
  lanes  : Mask
  group  : PC
  npc    : PC
  here   : PC
  word   : Word
  pfx    : Word
  second : Bool
  pathid : Nat
  parked : Mask
  fpmode : Word
  smode  : Word
  code   : List PC := []
  wait   : Option Mach := none
  deriving DecidableEq, Repr

/-- The model's state: the package, the chain group being issued if any, and the schedule of events still to come (log entry 2). -/
structure State where
  m      : Mach
  iss    : Option Issue
  inputs : List Instr
  deriving DecidableEq, Repr

/-- Why a step stops. No state a run reaches raises one. -/
inductive Fault where
  /-- Raised by an encoded word whose issue record names a block, warp or frame the machine does not hold; no fetch makes such a record. Safe: the model stops where the device has no such state. -/
  | badIssue
  deriving DecidableEq, Repr

/-- Why an instruction has no meaning. -/
inductive Refusal where
  /-- Raised by an arm of exec that is not modelled yet, under the mnemonic of the opcode table. Safe. -/
  | notModelled (mnemonic : String)
  deriving DecidableEq, Repr

/-- The map before Favos has written version 1 (log entry 5). -/
def ResMap.empty : ResMap :=
  { ver := 0, dies := [], links := [], planes := [], ports := [], limit := 0, rate := 0, templim := 0,
    cause := 0, ratemax := 0, pkg := 0, dom := 1, hist := [] }

/-- R1, R79, R266: a core at package reset: both banks empty, no grains; it is live once Favos has tested it. -/
def Bank.empty : Bank := { ctx := none, queue := [], cellar := false, since := none, fills := [], spill := none, claims := [] }

def Core.empty : Core :=
  { live := false, active := 0, banks := [Bank.empty, Bank.empty], grains := 0, swapEnd := none, idle := none,
    actSet := [], last := none, exch := none, mx := none }

/-- R237: a free slot (log entry 5 for its other fields). -/
def RSlot.empty : RSlot :=
  { state := 0, op := 0, gen := 0, count := 0, opened := 0, deadline := 0, got := [], result := 0, status := 0, freeAt := 0 }

/-- R233: limits of 64 KiB per class before the first announcement. -/
def LinkDir.empty : LinkDir :=
  { lim := List.replicate 8 65536, recv := List.replicate 8 0, new := List.replicate 8 65536, period := 0, seq := 0, sent := [], fails := [] }

def LinkRun.empty : LinkRun := { reps := [], quiet := none, dirA := LinkDir.empty, dirB := LinkDir.empty }

/-- R325: unconfigured at package reset. -/
def Ring.empty : Ring := { base := 0, logs := 0, head := 0, tail := 0, held := [], notes := [] }

/-- A queue before the host configures it (log entry 5). -/
def Queue.empty : Queue :=
  { cmdbase := 0, cplbase := 0, logs := 0, ctx := 0, enable := false, ver := 0, doorbell := 0, nextexp := 0,
    lastacc := 0, lastcomp := 0, lasterr := 0, errstat := 0, cplhead := 0, cplcount := 0, held := [], done := [],
    halted := false }

/-- The package right after package reset: Favos running, no context, no core live, every cache and ring empty. -/
def Mach.reset : Mach :=
  { clock := 0, bootState := 1, bootStep := 0, bootReason := 0, rmap := ResMap.empty, pubBody := ResMap.empty, pubVer := 0, booting := none, hostCap := 2400,
    boardCap := 2400, rateNow := 0, temp := 0, hot := false, keys := [(0, 0)], keyTab := [.root 0], boots := 0, sealKeys := [], tlb := [], bias := [], mem := [], poison := [], l1Bad := [],
    dir := [], rings := List.replicate 3 Ring.empty, queues := List.replicate 256 Queue.empty, cmds := [],
    grids := [], gridCnt := 1, ctxs := [], cores := List.replicate 160 Core.empty, blocks := [], nextBlk := 0,
    faults := [], faultSeq := List.replicate 9 0, logs := List.replicate 11 { recs := [], seq := 0, lost := 0 },
    esc := [], net := [], retain := [], nextPkt := 0, acks := [], lostAcks := [], contribs := [], heldCon := [],
    slots := [List.replicate 256 RSlot.empty, List.replicate 256 RSlot.empty], pairs := [],
    links := List.replicate 62 LinkRun.empty, mgmt := [], ackOpen := [], chanReq := [], qps := [], image := [], staged := none,
    nextCore := 0, front := none, period := 0, ctxCnt := 0 }

/-- R16, R324: the machine right after package reset. -/
def State.reset : State := { m := Mach.reset, iss := none, inputs := [] }

end Sys2Proof.Machine
end

