-- ==== Sys2Proof/Machine/Base.lean ====
section
/-! DEFINITION. The plainest operations on the state: sparse memory in canonical form, lane masks, lookups and updates of blocks, warps, cores and contexts, bytes of little-endian values, and free values. -/

namespace Sys2Proof.Machine

/-- What an address with no entry reads as (log entry 1). -/
def unlisted : Byte := 0

/-- The byte at an address. -/
def Memory.get (mem : Memory) (a : Nat) : Byte :=
  match mem with
  | [] => unlisted
  | (k, v) :: rest => if k = a then v else Memory.get rest a

/-- Store one byte, keeping the canonical form: a byte equal to the unlisted one has no entry. -/
def Memory.set (mem : Memory) (a : Nat) (b : Byte) : Memory :=
  match mem with
  | [] => if b = unlisted then [] else [(a, b)]
  | (k, v) :: rest =>
    if k = a then (if b = unlisted then rest else (a, b) :: rest)
    else if a < k then (if b = unlisted then (k, v) :: rest else (a, b) :: (k, v) :: rest)
    else (k, v) :: Memory.set rest a b

/-- Addresses strictly above a bound and rising, no entry equal to the unlisted byte. -/
def Memory.above (lo : Nat) (mem : Memory) : Bool :=
  match mem with
  | [] => true
  | (k, v) :: rest => decide (lo ≤ k) && (v != unlisted) && Memory.above (k + 1) rest

/-- The canonical form: strictly rising addresses, no entry equal to what an unlisted address reads as. -/
def Memory.wf (mem : Memory) : Bool := Memory.above 0 mem

/-- Store a list of (address, byte) pairs in order. -/
def Memory.setCells (mem : Memory) (cs : List Host.Cell) : Memory :=
  cs.foldl (fun m c => Memory.set m c.1 c.2) mem

/-- n bytes from address a upward. -/
def Memory.bytes (mem : Memory) (a n : Nat) : List Byte := (List.range n).map fun i => Memory.get mem (a + i)

/-- The (address, byte) pairs of consecutive bytes. -/
def cellsFrom (a : Nat) (bs : List Byte) : List Host.Cell := bs.zipIdx.map fun p => (a + p.2, p.1)

/-- Pairs inside [lo, hi). -/
def cellsIn (lo hi : Nat) (cs : List Host.Cell) : List Host.Cell := cs.filter fun c => lo ≤ c.1 && c.1 < hi

/-- R3: little-endian value of bytes. -/
def leNat (bs : List Byte) : Nat := bs.foldr (fun b n => b.toNat + 256 * n) 0

/-- R3: n little-endian bytes of a value. -/
def leBytes (n v : Nat) : List Byte := (List.range n).map fun i => BitVec.ofNat 8 (v / 256 ^ i)

/-- n zero bytes. -/
def zeros (n : Nat) : List Byte := List.replicate n 0

/-- Bytes cut or padded with zeros to n. -/
def padTo (n : Nat) (bs : List Byte) : List Byte := (bs ++ zeros n).take n

/-- A slice of a byte list as a little-endian value. -/
def fieldAt (bs : List Byte) (off n : Nat) : Nat := leNat ((bs.drop off).take n)

/-- The bytes of a word. -/
def wordBytes (w : Word) : List Byte := leBytes 4 w.toNat

/-- Apply f to element i of a list. -/
def modAt {α : Type} (l : List α) (i : Nat) (f : α → α) : List α :=
  match l, i with
  | [], _ => []
  | x :: xs, 0 => f x :: xs
  | x :: xs, i + 1 => x :: modAt xs i f

/-- Element i of a list becomes v; a list that is too short grows by d. -/
def putAt {α : Type} (d : α) (l : List α) (i : Nat) (v : α) : List α :=
  match l, i with
  | [], 0 => [v]
  | [], i + 1 => d :: putAt d [] i v
  | _ :: xs, 0 => v :: xs
  | x :: xs, i + 1 => x :: putAt d xs i v

/-- Apply f to the elements that satisfy p. -/
def modWhere {α : Type} (l : List α) (p : α → Bool) (f : α → α) : List α :=
  l.map fun x => if p x then f x else x

/-- The element that f makes greatest; the first one on ties. -/
def bestBy {α : Type} (f : α → Nat) : List α → Option α
  | [] => none
  | x :: xs =>
    match bestBy f xs with
    | none => some x
    | some y => if f y ≤ f x then some x else some y

/-- The element that f makes least; the first one on ties. -/
def leastBy {α : Type} (f : α → Nat) : List α → Option α
  | [] => none
  | x :: xs =>
    match leastBy f xs with
    | none => some x
    | some y => if f x ≤ f y then some x else some y

/-- The lanes of a mask, lowest first (W at most 64). -/
def lanesOf (m : Mask) : List Nat := (List.range 64).filter fun l => m.getLsbD l

/-- The mask with one lane. -/
def bit (l : Nat) : Mask := BitVec.ofNat 64 (2 ^ l)

/-- The lanes below W. -/
def allLanes (W : Nat) : Mask := BitVec.ofNat 64 (2 ^ W - 1)

/-- The mask of the lanes that satisfy p. -/
def maskOf (p : Nat → Bool) : Mask :=
  (List.range 64).foldl (fun m l => if p l then m ||| bit l else m) 0

/-- The number of lanes in a mask. -/
def popc (m : Mask) : Nat := (lanesOf m).length

/-- The lowest lane of a mask; 64 when it is empty. -/
def lowest (m : Mask) : Nat := (lanesOf m).headD 64

/-- Is a contained in b. -/
def subset (a b : Mask) : Bool := (a &&& ~~~b) == 0

/-- Two words as a 64-bit value: the even register holds bits 31..0 (R68). -/
def pair64 (lo hi : Word) : BitVec 64 := (hi ++ lo : BitVec 64)

def lo32 (v : BitVec 64) : Word := v.extractLsb' 0 32
def hi32 (v : BitVec 64) : Word := v.extractLsb' 32 32

/-- The block with an id. -/
def Mach.block? (m : Mach) (id : Nat) : Option Block := m.blocks.find? fun b => b.id == id

/-- Apply f to the block with an id. -/
def Mach.updBlock (m : Mach) (id : Nat) (f : Block → Block) : Mach :=
  { m with blocks := modWhere m.blocks (fun b => b.id == id) f }

def Block.updWarp (b : Block) (w : Nat) (f : Warp → Warp) : Block :=
  { b with warps := modWhere b.warps (fun x => x.num == w) f }

def Block.warp? (b : Block) (w : Nat) : Option Warp := b.warps.find? fun x => x.num == w

def Mach.updWarp (m : Mach) (id w : Nat) (f : Warp → Warp) : Mach := m.updBlock id fun b => b.updWarp w f

def Mach.warp? (m : Mach) (id w : Nat) : Option Warp := (m.block? id).bind fun b => b.warp? w

def Block.updSide (b : Block) (i : Nat) (f : Side → Side) : Block := { b with sides := modAt b.sides i f }

/-- Update the engine registers of one core of a block (R355). -/
def Block.updEng (b : Block) (i : Nat) (f : MitRegs → MitRegs) : Block := b.updSide i fun s => { s with eng := f s.eng }

/-- R258, R260: the coefficients and iteration registers as a block is placed. -/
def newMitRegs : MitRegs :=
  { coef := List.replicate 16 0, mitcap := 16, mittol := 0, mitdiv := 0xFF03, mitstat := 0, mitres := 0, owner := none, heldClr := false }

/-- The side whose core a warp runs on (R43). -/
def Block.side (b : Block) (i : Nat) : Side :=
  b.sides.getD i
    { core := 0, bank := 0, slot := 0, tagFirst := 0, tiles := [], tctl := [], eng := newMitRegs, locks := [] }

/-- R259, R261: is a running word a MITER. -/
def MxRun.miter (r : MxRun) : Bool := match r.iter with | some i => i.mode != 3 | none => false

def Block.paired (b : Block) : Bool := b.sides.length == 2

def Mach.core (m : Mach) (c : Nat) : Core := m.cores.getD c Core.empty

def Mach.updCore (m : Mach) (c : Nat) (f : Core → Core) : Mach := { m with cores := modAt m.cores c f }

def Core.bank (c : Core) (i : Nat) : Bank := c.banks.getD i Bank.empty

def Mach.updBank (m : Mach) (c i : Nat) (f : Bank → Bank) : Mach :=
  m.updCore c fun k => { k with banks := modAt k.banks i f }

def Mach.grid? (m : Mach) (n : Nat) : Option Grid := m.grids.find? fun g => g.num == n && !g.complete

def Mach.updGrid (m : Mach) (n : Nat) (f : Grid → Grid) : Mach :=
  { m with grids := modWhere m.grids (fun g => g.num == n && !g.complete) f }

def Mach.ctx? (m : Mach) (n : Nat) : Option Ctx := m.ctxs.find? fun c => c.id == n

def Mach.updCtx (m : Mach) (n : Nat) (f : Ctx → Ctx) : Mach :=
  { m with ctxs := modWhere m.ctxs (fun c => c.id == n) f }

def Block.chan (b : Block) (i : Nat) : Chan :=
  b.chans.getD i { queue := [], dests := [], conds := [], sent := [], err := none, issued := 0 }

def Block.updChan (b : Block) (i : Nat) (f : Chan → Chan) : Block := { b with chans := modAt b.chans i f }

def Warp.lane (w : Warp) (l : Nat) : Lane :=
  w.lanes.getD l { exited := true, pc := ⟨0, 0⟩, fid := 0, run := .ready, depth := 0, stack := [], poll := none, handler := false, first := [] }

/-- Apply f to the lanes of a mask. -/
def Warp.updLanes (w : Warp) (m : Mask) (f : Lane → Lane) : Warp :=
  { w with lanes := w.lanes.zipIdx.map fun p => if m.getLsbD p.2 then f p.1 else p.1 }

/-- Apply f to the lanes of a mask, with each lane's number. -/
def Warp.mapLanes (w : Warp) (m : Mask) (f : Nat → Lane → Lane) : Warp :=
  { w with lanes := w.lanes.zipIdx.map fun p => if m.getLsbD p.2 then f p.2 p.1 else p.1 }

def Mach.updLanes (m : Mach) (id w : Nat) (mask : Mask) (f : Lane → Lane) : Mach :=
  m.updWarp id w fun x => x.updLanes mask f

/-- Lanes that are neither vacant nor exited (R41). -/
def Warp.liveLanes (w : Warp) : Mask := maskOf fun l => !w.vacant.getLsbD l && !(w.lane l).exited

def Warp.frame? (w : Warp) (fid : Nat) : Option Frame := w.frames.find? fun f => f.id == fid

def Warp.updFrame (w : Warp) (fid : Nat) (f : Frame → Frame) : Warp :=
  { w with frames := modWhere w.frames (fun x => x.id == fid) f }

/-- R79, R307: the lines a frame of n registers of a block occupies. -/
def Block.lines (b : Block) (n : Nat) : Nat := n * (b.width / 16) * (if b.checked then 2 else 1)

/-- Is a request one for a frame of a warp. -/
def AllocReq.names (q : AllocReq) (blk warp fid : Nat) : Bool := q.blk == blk && q.warp == warp && q.fid == fid

/-- R79, R84, R92: the lines a warp is charged for: resident frames, frames whose fill is granted, and a granted CALL or GROW not yet issued. -/
def Bank.charged (k : Bank) (b : Block) (w : Warp) : Nat :=
  (w.frames.map fun f => if f.resident || k.fills.any fun q => q.names b.id w.num f.id then b.lines f.size else 0).sum +
    (w.paths.map fun p => match (w.lane (lowest p.lanes)).run with | .granted n => n | _ => 0).sum

/-- R79, R80, R447: POOLFREE: the free lines of a bank; a block that waits for its record holds its place. -/
def Mach.freeLines (m : Mach) (c i : Nat) : Nat :=
  let k := (m.core c).bank i
  6144 - (m.blocks.map fun b =>
    if b.place = .placed ∨ b.place = .restoring then
      (b.warps.map fun w => if (b.side w.side).core = c ∧ (b.side w.side).bank = i then k.charged b w else 0).sum
    else 0).sum

/-- R6: the identity of a context and the number of the next unspecified value it draws (log entry 4). -/
def Mach.drawAt (m : Mach) (ctx : Nat) : Nat × Nat := match m.ctx? ctx with | some c => (c.born, c.draws) | none => (0, 0)

/-- R6: a context has drawn n unspecified values. -/
def Mach.drew (m : Mach) (ctx n : Nat) : Mach := m.updCtx ctx fun c => { c with draws := c.draws + n }

/-- R97: the byte offset of a PC in its code segment. -/
def PC.offset (p : PC) : Nat := 12 * p.pk + 4 * p.sl

/-- R97: the PC at a byte offset of the segment. -/
def pcAt (off : Nat) : PC := ⟨off / 12, off % 12 / 4⟩

/-- The 64-bit value as a signed integer of n bits. -/
def signed (n v : Nat) : Int := if v % 2 ^ n < 2 ^ (n - 1) then (v % 2 ^ n : Nat) else (v % 2 ^ n : Nat) - (2 ^ n : Nat)

/-- An integer's low n bits. -/
def wrap (n : Nat) (x : Int) : Nat := (x % (2 ^ n : Nat)).toNat

end Sys2Proof.Machine
end

