-- ==== Sys2Proof/Machine/Flags.lean ====
section
/-! DEFINITION. Number formats and every flag computation (R125 to R137): exact dyadic arithmetic, one rounding, and the FPFLAGS bits each operation raises. -/

namespace Sys2Proof.Machine

/-- R131: bits of FPFLAGS. -/
def fInvalid : Word := 1
def fDivZero : Word := 2
def fOverflow : Word := 4
def fUnderflow : Word := 8
def fInexact : Word := 16
def fSat : Word := 32

/-- R125: a floating format; `ieee` is false for e4m3, whose top exponent is finite but for one NaN. -/
structure Fmt where
  ebits : Nat
  fbits : Nat
  bias  : Nat
  ieee  : Bool
  deriving DecidableEq, Repr

def f64 : Fmt := ⟨11, 52, 1023, true⟩
def f32 : Fmt := ⟨8, 23, 127, true⟩
def f16 : Fmt := ⟨5, 10, 15, true⟩
def bf16 : Fmt := ⟨8, 7, 127, true⟩
def e4m3 : Fmt := ⟨4, 3, 7, false⟩
def e5m2 : Fmt := ⟨5, 2, 15, true⟩

def Fmt.width (f : Fmt) : Nat := 1 + f.ebits + f.fbits

/-- R130: the canonical NaN of a format. -/
def Fmt.nan (f : Fmt) : Nat :=
  if f.ieee then (2 ^ f.ebits - 1) * 2 ^ f.fbits + 2 ^ (f.fbits - 1) else 0x7F

/-- An infinity's encoding; a format without one gives its NaN (R129). -/
def Fmt.inf (f : Fmt) (neg : Bool) : Nat :=
  if f.ieee then (if neg then 2 ^ (f.width - 1) else 0) + (2 ^ f.ebits - 1) * 2 ^ f.fbits else f.nan

/-- The largest finite magnitude's encoding, with a sign. -/
def Fmt.maxFinite (f : Fmt) (neg : Bool) : Nat :=
  (if neg then 2 ^ (f.width - 1) else 0) +
    (if f.ieee then (2 ^ f.ebits - 1) * 2 ^ f.fbits - 1 else 0x7E)

def Fmt.zero (f : Fmt) (neg : Bool) : Nat := if neg then 2 ^ (f.width - 1) else 0

/-- A value: NaN (signalling or not), an infinity, or (-1)^neg * m * 2^e exactly. -/
inductive FV where
  | nan (sig : Bool)
  | inf (neg : Bool)
  | fin (neg : Bool) (m : Nat) (e : Int)
  deriving DecidableEq, Repr

/-- R125: the value of an encoding. -/
def Fmt.value (f : Fmt) (bits : Nat) : FV :=
  let neg := bits.testBit (f.width - 1)
  let ex := bits / 2 ^ f.fbits % 2 ^ f.ebits
  let fr := bits % 2 ^ f.fbits
  let top := 2 ^ f.ebits - 1
  if f.ieee && ex = top then (if fr = 0 then .inf neg else .nan (!fr.testBit (f.fbits - 1)))
  else if !f.ieee && ex = top && fr = 2 ^ f.fbits - 1 then .nan false
  else if ex = 0 then .fin neg fr (1 - (f.bias : Int) - f.fbits)
  else .fin neg (fr + 2 ^ f.fbits) ((ex : Int) - f.bias - f.fbits)

/-- Is an encoding subnormal. -/
def Fmt.subnormal (f : Fmt) (bits : Nat) : Bool := bits / 2 ^ f.fbits % 2 ^ f.ebits == 0 && bits % 2 ^ f.fbits != 0

/-- R129: an input with FTZ: a subnormal becomes a zero of its sign. -/
def Fmt.input (f : Fmt) (ftz : Bool) (bits : Nat) : Nat :=
  if ftz && f.subnormal bits then f.zero (bits.testBit (f.width - 1)) else bits

/-- R127: rounding modes: 0 RNE, 1 RZ, 2 RP, 3 RM. -/
def roundUp (mode : Nat) (neg : Bool) (quo rem den : Nat) : Bool :=
  if mode = 0 then decide (den < 2 * rem) || (2 * rem == den && quo % 2 == 1)
  else if mode = 1 then false
  else if mode = 2 then !neg && rem != 0
  else neg && rem != 0

/-- m * 2^e to an integer multiple of 2^q: the multiple and whether it is inexact. -/
def roundAt (mode : Nat) (neg : Bool) (m : Nat) (e q : Int) : Nat × Bool :=
  if q ≤ e then (m * 2 ^ (e - q).toNat, false)
  else
    let den := 2 ^ (q - e).toNat
    let quo := m / den
    let rem := m % den
    ((if roundUp mode neg quo rem den then quo + 1 else quo), rem != 0)

/-- The bit length of a positive number. -/
def bitLen (n : Nat) : Nat := if n = 0 then 0 else Nat.log2 n + 1

/-- R129: Round of the exact nonzero value (-1)^neg * m * 2^e into f, with range limits second; the encoding and its flags. -/
def Fmt.roundFin (f : Fmt) (mode : Nat) (ftz neg : Bool) (m : Nat) (e : Int) : Nat × Word :=
  if m = 0 then (f.zero neg, 0)
  else
    let q1 : Int := e + bitLen m - 1 - f.fbits
    let y := roundAt mode neg m e q1
    let lead : Int := q1 + bitLen y.1 - 1
    let emin : Int := 1 - f.bias
    let huge : Bool :=
      if f.ieee then decide ((f.bias : Int) < lead)
      else decide (8 < lead) || (lead == 8 && decide (14 * 2 ^ (bitLen y.1 - 4) < y.1))
    if huge then
      let toInf := mode = 0 || (mode = 2 && !neg) || (mode = 3 && neg)
      ((if toInf then f.inf neg else f.maxFinite neg), fOverflow ||| fInexact)
    else
      let tiny := decide (lead < emin)
      if tiny && ftz then (f.zero neg, fUnderflow ||| fInexact)
      else
        let q := max q1 (emin - f.fbits)
        let r := roundAt mode neg m e q
        let n := if r.1 = 2 ^ (f.fbits + 1) then 2 ^ f.fbits else r.1
        let q' := if r.1 = 2 ^ (f.fbits + 1) then q + 1 else q
        let mag := if n < 2 ^ f.fbits then n else (q' + f.fbits + f.bias).toNat * 2 ^ f.fbits + (n - 2 ^ f.fbits)
        (f.zero neg + mag, (if r.2 then fInexact else 0) ||| (if tiny && r.2 then fUnderflow else 0))

/-- Round a value into a format: NaN canonical, infinities kept (R129, R130). -/
def Fmt.round (f : Fmt) (mode : Nat) (ftz : Bool) (v : FV) : Nat × Word :=
  match v with
  | .nan sig => (f.nan, if sig then fInvalid else 0)
  | .inf neg => (f.inf neg, 0)
  | .fin neg m e => f.roundFin mode ftz neg m e

def FV.isNan : FV → Bool
  | .nan _ => true
  | _ => false

def FV.isSig : FV → Bool
  | .nan s => s
  | _ => false

def FV.negate : FV → FV
  | .nan s => .nan s
  | .inf n => .inf !n
  | .fin n m e => .fin (!n) m e

/-- The NaN an operation gives: INVALID when an operand signals (R130). -/
def nanOf (vs : List FV) : FV × Word := (.nan false, if vs.any FV.isSig then fInvalid else 0)

/-- R130: exact product with 0 times infinity invalid. -/
def FV.mul (a b : FV) : FV × Word :=
  if a.isNan || b.isNan then nanOf [a, b]
  else
    match a, b with
    | .inf n, .inf k => (.inf (n != k), 0)
    | .inf n, .fin k m _ => if m = 0 then (.nan false, fInvalid) else (.inf (n != k), 0)
    | .fin k m _, .inf n => if m = 0 then (.nan false, fInvalid) else (.inf (n != k), 0)
    | .fin n m e, .fin k m' e' => (.fin (n != k) (m * m') (e + e'), 0)
    | a, _ => (a, 0)

/-- A signed exact value as magnitude over a common exponent. -/
def signedMag (neg : Bool) (m : Nat) : Int := if neg then -(m : Int) else m

/-- R129, R130: exact sum; opposite infinities are invalid; an exact zero sum of opposite signs is +0, or -0 under RM. -/
def FV.add (mode : Nat) (a b : FV) : FV × Word :=
  if a.isNan || b.isNan then nanOf [a, b]
  else
    match a, b with
    | .inf n, .inf k => if n = k then (.inf n, 0) else (.nan false, fInvalid)
    | .inf n, .fin _ _ _ => (.inf n, 0)
    | .fin _ _ _, .inf n => (.inf n, 0)
    | .fin n m e, .fin k m' e' =>
      let ee := min e e'
      let s := signedMag n (m * 2 ^ (e - ee).toNat) + signedMag k (m' * 2 ^ (e' - ee).toNat)
      if s = 0 then (.fin (if m = 0 && m' = 0 && n = k then n else mode == 3) 0 0, 0)
      else (.fin (decide (s < 0)) s.natAbs ee, 0)
    | a, _ => (a, 0)

/-- One binary operation, rounded once. -/
def Fmt.op2 (f : Fmt) (mode : Nat) (ftz : Bool) (op : FV → FV → FV × Word) (x y : Nat) : Nat × Word :=
  let r := op (f.value (f.input ftz x)) (f.value (f.input ftz y))
  let q := f.round mode ftz r.1
  (q.1, q.2 ||| r.2)

def Fmt.addF (f : Fmt) (mode : Nat) (ftz : Bool) (x y : Nat) : Nat × Word := f.op2 mode ftz (FV.add mode) x y
def Fmt.subF (f : Fmt) (mode : Nat) (ftz : Bool) (x y : Nat) : Nat × Word := f.op2 mode ftz (fun a b => FV.add mode a b.negate) x y
def Fmt.mulF (f : Fmt) (mode : Nat) (ftz : Bool) (x y : Nat) : Nat × Word := f.op2 mode ftz FV.mul x y

/-- R359: exact product and sum, one rounding; 0 times infinity is invalid whatever the addend. -/
def Fmt.fmaF (f : Fmt) (mode : Nat) (ftz : Bool) (x y z : Nat) : Nat × Word :=
  let c := f.value (f.input ftz z)
  let p := FV.mul (f.value (f.input ftz x)) (f.value (f.input ftz y))
  let r := FV.add mode p.1 c
  let q := f.round mode ftz r.1
  (q.1, q.2 ||| r.2 ||| p.2)

/-- Total order of non-NaN values with -0 below +0: is a below b. -/
def FV.below (a b : FV) : Bool :=
  match a, b with
  | .inf n, .inf k => n && !k
  | .inf n, .fin _ _ _ => n
  | .fin _ _ _, .inf k => !k
  | .fin n m e, .fin k m' e' =>
    let ee := min e e'
    let x := signedMag n (m * 2 ^ (e - ee).toNat)
    let y := signedMag k (m' * 2 ^ (e' - ee).toNat)
    decide (x < y) || (x == y && m == 0 && n && !k)
  | _, _ => false

/-- R133: minimumNumber (max false) or maximumNumber on encodings. -/
def Fmt.minmax (f : Fmt) (ftz max : Bool) (x y : Nat) : Nat × Word :=
  let x := f.input ftz x
  let y := f.input ftz y
  let a := f.value x
  let b := f.value y
  let fl : Word := if a.isSig || b.isSig then fInvalid else 0
  if a.isNan && b.isNan then (f.nan, fl)
  else if a.isNan then (y, fl)
  else if b.isNan then (x, fl)
  else if max then ((if a.below b then y else x), fl)
  else ((if b.below a then y else x), fl)

/-- R114, R133: a floating compare by CMP code; equality ignores the sign of zero. -/
def Fmt.compare (f : Fmt) (ftz : Bool) (cmp x y : Nat) : Bool × Word :=
  let a := f.value (f.input ftz x)
  let b := f.value (f.input ftz y)
  if a.isNan || b.isNan then
    let ordered := 2 ≤ cmp && cmp ≤ 5
    (cmp = 1 || cmp = 6, if ordered || a.isSig || b.isSig then fInvalid else 0)
  else
    let zeroes := (match a, b with | .fin _ 0 _, .fin _ 0 _ => true | _, _ => false)
    let lt := a.below b && !zeroes
    let gt := b.below a && !zeroes
    let eq := !lt && !gt
    ((match cmp with
      | 0 => eq
      | 1 => !eq
      | 2 => lt
      | 3 => lt || eq
      | 4 => gt
      | 5 => gt || eq
      | 6 => false
      | _ => true), 0)

/-- Integer compare by CMP code (R114, R376). -/
def intCompare (cmp : Nat) (x y : Int) : Bool :=
  match cmp with
  | 0 => x == y
  | 1 => x != y
  | 2 => decide (x < y)
  | 3 => decide (x ≤ y)
  | 4 => decide (y < x)
  | _ => decide (y ≤ x)

/-- R134. -/
def satI32 (x : Int) : Nat := wrap 32 (if x < -2147483648 then -2147483648 else if 2147483647 < x then 2147483647 else x)

/-- R134. -/
def satN32 (x : Int) : Nat := wrap 32 (if x < 0 then 0 else if 4294967295 < x then 4294967295 else x)

/-- Floor square root, bit by bit from bit k down. -/
def isqrtFrom (n r : Nat) : Nat → Nat
  | 0 => r
  | k + 1 => isqrtFrom n (let t := r + 2 ^ k; if t * t ≤ n then t else r) k

def isqrt (n : Nat) : Nat := isqrtFrom n 0 (bitLen n / 2 + 1)

/-- R135: the square root of m * 2^e with a sticky bit below the result. -/
def sqrtSticky (m : Nat) (e : Int) : Nat × Int :=
  let odd := e % 2 != 0
  let m1 := if odd then 2 * m else m
  let e1 := if odd then e - 1 else e
  let m2 := m1 * 2 ^ 128
  let r := isqrt m2
  (2 * r + (if r * r = m2 then 0 else 1), (e1 - 128) / 2 - 1)

/-- The quotient a * 2^ea / (b * 2^eb) with a sticky bit below it. -/
def divSticky (a : Nat) (ea : Int) (b : Nat) (eb : Int) : Nat × Int :=
  let s := 2100 + bitLen b
  let n := a * 2 ^ s
  (2 * (n / b) + (if n % b = 0 then 0 else 1), ea - eb - s - 1)

/-- Is a positive number a power of two; its exponent. -/
def pow2? (m : Nat) : Option Nat := if m = 0 then none else if 2 ^ Nat.log2 m = m then some (Nat.log2 m) else none

/-- R135: pi and the natural logarithm of 2, in units of 2^-200, rounded down. -/
def piFix : Int := 5048344754617993871973410141242436836214643421488662971535368

def ln2Fix : Int := 1113844574712631719546256151097547306333272293549090750737802

/-- A sum of n terms in units of 2^-200, each the one before times z / d i. -/
def termSum (z : Int) (d : Nat → Nat) : Nat → Nat → Int → Int
  | 0, _, _ => 0
  | n + 1, i, t => t + termSum z d n (i + 1) (t * z / (2 ^ 200 * (d i : Int)))

/-- e^t, sin t and cos t, and the inverse hyperbolic tangent of t, in units of 2^-200 for t between -1 and 1. -/
def expFix (t : Int) : Int := termSum t (fun i => i) 60 1 (2 ^ 200)

def sinFix (t : Int) : Int := termSum (-(t * t / 2 ^ 200)) (fun i => 2 * i * (2 * i + 1)) 40 1 t

def cosFix (t : Int) : Int := termSum (-(t * t / 2 ^ 200)) (fun i => (2 * i - 1) * (2 * i)) 40 1 (2 ^ 200)

def atanhFix (t : Int) : Int := ((List.range 60).foldl (fun (p : Int × Int) (k : Nat) => (p.1 + p.2 / (2 * (k : Int) + 1), p.2 * t / 2 ^ 200 * t / 2 ^ 200)) (0, t)).1

/-- An approximate real: (-1)^neg * m * 2^e, with an error below two units of 2^e. -/
structure Approx where
  neg : Bool
  m   : Nat
  e   : Int
  deriving DecidableEq, Repr

/-- A value in units of 2^-200, without its last 40 bits. -/
def ofFix (v : Int) : Approx := { neg := decide (v < 0), m := v.natAbs / 2 ^ 40, e := -160 }

/-- (-1)^neg * m * 2^e in units of 2^-200, cut off below. -/
def toFix (neg : Bool) (m : Nat) (e : Int) : Int := signedMag neg (if -200 ≤ e then m * 2 ^ (e + 200).toNat else m / 2 ^ (-200 - e).toNat)

/-- R135: 2^x for x = (-1)^neg * m * 2^e. -/
def exp2Near (neg : Bool) (m : Nat) (e : Int) : Approx :=
  let x := toFix neg m e
  let n := x / 2 ^ 200
  let r := ofFix (expFix ((x - n * 2 ^ 200) * ln2Fix / 2 ^ 200))
  { r with e := r.e + n }

/-- R135: log2 of m * 2^e, m not 0. -/
def log2Near (m : Nat) (e : Int) : Approx :=
  let k := bitLen m
  let up : Bool := decide (3 * 2 ^ (k - 1) ≤ 2 * m)
  let one : Int := 2 ^ (if up then k else k - 1)
  let z := ((m : Int) - one) * 2 ^ 200 / ((m : Int) + one)
  ofFix ((e + k - (if up then 0 else 1)) * 2 ^ 200 + 2 * atanhFix z * 2 ^ 200 / ln2Fix)

/-- R135: the sine (or cosine) of (-1)^neg * m * 2^e; below 2^-30 the sine is its argument less a trifle. -/
def sinNear (cosine neg : Bool) (m : Nat) (e : Int) : Approx :=
  if !cosine && decide (e + bitLen m ≤ -30) then { neg := neg, m := m * 2 ^ 40 - 1, e := e - 40 }
  else
    let h := piFix / 2
    let x := toFix false m e
    let q := (x + h / 2) / h
    let r := x - q * h
    let v := match ((q + if cosine then 1 else 0) % 4).toNat with
      | 0 => sinFix r
      | 1 => cosFix r
      | 2 => -(sinFix r)
      | _ => -(cosFix r)
    ofFix (if neg && !cosine then -v else v)

/-- R135: the exponent of one ulp of f32 at a real. -/
def Approx.ulp (y : Approx) : Int := max (y.e + bitLen y.m - 1) (-126) - 23

/-- Does a value lie within k * 2^q of a real, as far as its approximation tells. -/
def Approx.within (y : Approx) (k : Nat) (q : Int) (v : FV) : Bool :=
  match v with
  | .fin n m e =>
    let ee := min y.e (min e q)
    decide ((signedMag n (m * 2 ^ (e - ee).toNat) - signedMag y.neg (y.m * 2 ^ (y.e - ee).toNat)).natAbs ≤ k * 2 ^ (q - ee).toNat + 2 * 2 ^ (y.e - ee).toNat)
  | _ => false

/-- R129, R135: the result of special function fn on input bits x for the real y, which is no exact case: the implementation's own value where it lies within k * 2^q, else the rounded real; with the rounded real's flags. A tiny result is flushed under FTZ. -/
def sfuWithin (fn : Nat) (ftz : Bool) (x : Word) (y : Approx) (k : Nat) (q : Int) : Nat × Word :=
  let near := f32.roundFin 0 false y.neg y.m y.e
  let free := (Config.sfu fn ftz x).toNat
  let r := if y.within k q (f32.value free) then free else near.1
  let tiny := near.2 &&& fUnderflow != 0
  if ftz && (tiny || f32.subnormal r) then (f32.zero (r.testBit 31), fUnderflow ||| fInexact)
  else (r, near.2 ||| fInexact)

/-- R135, R366: the SFU group on f32 bits: 0 FRCP, 1 FRSQ, 2 FSQRT, 3 FEXP2, 4 FLOG2, 5 FSIN, 6 FCOS. A result the table does not fix is the implementation's choice within its bound (log entry 4). -/
def sfuOp (fn rm : Nat) (ftz : Bool) (raw : Nat) : Nat × Word :=
  let x := f32.input ftz raw
  let key : Word := BitVec.ofNat 32 x
  let one : Nat := 0x3F800000
  let within (y : Approx) (k : Nat) (q : Int) : Nat × Word := sfuWithin fn ftz key y k q
  match f32.value x with
  | .nan sig => (f32.nan, if sig then fInvalid else 0)
  | .inf neg =>
    (match fn with
     | 0 => (f32.zero neg, 0)
     | 1 => if neg then (f32.nan, fInvalid) else (f32.zero false, 0)
     | 2 => if neg then (f32.nan, fInvalid) else (f32.inf false, 0)
     | 3 => if neg then (f32.zero false, 0) else (f32.inf false, 0)
     | 4 => if neg then (f32.nan, fInvalid) else (f32.inf false, 0)
     | _ => (f32.nan, fInvalid))
  | .fin neg 0 _ =>
    (match fn with
     | 0 => (f32.inf neg, fDivZero)
     | 1 => (f32.inf neg, fDivZero)
     | 2 => (f32.zero neg, 0)
     | 3 => (one, 0)
     | 4 => (f32.inf true, fDivZero)
     | 5 => (f32.zero neg, 0)
     | _ => (one, 0))
  | .fin neg m e =>
    (match fn with
     | 0 =>
       (match pow2? m with
        | some k => f32.roundFin 0 ftz neg 1 (-(e + k))
        | none =>
          let q := divSticky 1 0 m e
          let near := f32.roundFin 0 ftz neg q.1 q.2
          let y : Approx := { neg := neg, m := q.1, e := q.2 }
          if near.2 &&& fOverflow != 0 then near else within y 1 y.ulp)
     | 1 =>
       if neg then (f32.nan, fInvalid)
       else
         let sq : Nat × Int := (match pow2? m with | some k => (1, -(e + k)) | none => divSticky 1 0 m e)
         let r := sqrtSticky sq.1 sq.2
         let y : Approx := { neg := false, m := r.1, e := r.2 }
         (match pow2? m with
          | some k => if (e + k) % 2 = 0 then f32.roundFin 0 ftz false 1 (-((e + k) / 2)) else within y 1 y.ulp
          | none => within y 1 y.ulp)
     | 2 =>
       if neg then (f32.nan, fInvalid)
       else let r := sqrtSticky m e; f32.roundFin rm ftz false r.1 r.2
     | 3 =>
       let ip := roundAt 1 neg m e 0
       if ip.2 = false && (neg = false || ip.1 ≤ 149) && (neg || ip.1 < 128) then
         f32.roundFin 0 ftz false 1 (signedMag neg ip.1)
       else if !neg && 128 ≤ ip.1 then (f32.inf false, fOverflow ||| fInexact)
       else
         let y : Approx := if neg && 200 ≤ ip.1 then { neg := false, m := 1, e := -200 } else exp2Near neg m e
         within y 2 y.ulp
     | 4 =>
       if neg then (f32.nan, fInvalid)
       else
         (match pow2? m with
          | some k => f32.roundFin 0 ftz (decide (e + k < 0)) (e + k).natAbs 0
          | none => let y := log2Near m e; within y 2 y.ulp)
     | n =>
       if 2 ^ 20 < (roundAt 2 false m e 0).1 then
         let free := (Config.sfu n ftz key).toNat
         (if free % 2 ^ 31 ≤ one then (if ftz && f32.subnormal free then f32.zero (free.testBit 31) else free) else one, fInexact)
       else
         let y := sinNear (n == 6) neg m e
         -- 0x40490FDA is the greatest f32 value that is at most pi
         if x % 2 ^ 31 ≤ 0x40490FDA then within y 1 (-22) else within y y.m (y.e - 22))

/-- R368: round to an integral value of the same format: mode by FRND's B field; no flag but INVALID. -/
def Fmt.integral (f : Fmt) (mode : Nat) (ftz : Bool) (raw : Nat) : Nat × Word :=
  let x := f.input ftz raw
  match f.value x with
  | .nan sig => (f.nan, if sig then fInvalid else 0)
  | .inf _ => (x, 0)
  | .fin neg m e =>
    if m = 0 then (x, 0) else ((f.roundFin 0 false neg (roundAt mode neg m e 0).1 0).1, 0)

/-- R118: the floating format of a CVT type code; none for i32 and n32. -/
def cvtFmt (t : Nat) : Option Fmt :=
  match t with
  | 0 => some f64
  | 1 => some f32
  | 2 => some f16
  | 3 => some bf16
  | 4 => some e4m3
  | 5 => some e5m2
  | _ => none

/-- R128: FTZ applies to f32 and f16 only. -/
def ftzOf (t : Nat) (ftz : Bool) : Bool := ftz && (t == 1 || t == 2)

/-- R136: the floating pairs that widen, where SAT has no effect: f16 and bf16 to f32 and f64, f32 to f64, the 8-bit formats to every longer one. -/
def cvtWiders (st dt : Nat) : Bool :=
  match st with
  | 1 => dt == 0
  | 2 | 3 => decide (dt < 2)
  | 4 | 5 => decide (dt < 4)
  | _ => false

/-- Is m * 2^e above the integer k. -/
def aboveNat (m : Nat) (e : Int) (k : Nat) : Bool := if 0 ≤ e then decide (k < m * 2 ^ e.toNat) else decide (k * 2 ^ (-e).toNat < m)

/-- R136: under RZ a finite value above the largest of e4m3 or e5m2 is an overflow, although its rounded value is that largest. -/
def cvtOverZ (dt mode : Nat) (m : Nat) (e : Int) : Bool :=
  mode == 1 && ((dt == 4 && aboveNat m e 448) || (dt == 5 && aboveNat m e 57344))

/-- R136: a value into a floating destination. -/
def cvtToFloat (dt : Nat) (f : Fmt) (mode : Nat) (ftz sat : Bool) (v : FV) : Nat × Word :=
  match v with
  | .nan sig => (f.nan, if sig then fInvalid else 0)
  | .inf neg =>
    if sat then (f.maxFinite neg, fSat ||| fInexact)
    else if f.ieee then (f.inf neg, 0)
    else (f.nan, fInvalid)
  | .fin neg m e =>
    let r := f.roundFin mode (ftzOf dt ftz) neg m e
    if r.2 &&& fOverflow != 0 || cvtOverZ dt mode m e then
      (if sat then (f.maxFinite neg, fSat ||| fInexact) else (r.1, fOverflow ||| fInexact))
    else r

/-- R136: a value into i32 (6) or n32 (7). DESIGN CHOICE (log entry 97): a result out of range raises INVALID alone, also where rounding changes the value; R136 does not say whether INEXACT joins it. -/
def cvtToInt (dt mode : Nat) (v : FV) : Nat × Word :=
  let lo : Int := if dt = 6 then -2147483648 else 0
  let hi : Int := if dt = 6 then 2147483647 else 4294967295
  match v with
  | .nan _ => (0, fInvalid)
  | .inf neg => (wrap 32 (if neg then lo else hi), fInvalid)
  | .fin neg m e =>
    let r := roundAt mode neg m e 0
    let x := signedMag neg r.1
    if x < lo then (wrap 32 lo, fInvalid)
    else if hi < x then (wrap 32 hi, fInvalid)
    else (wrap 32 x, if r.2 then fInexact else 0)

/-- R136: convert raw bits of type st to type dt; M selects RNE (0) or RZ (1). DESIGN CHOICE (log entry 73): SAT applies to an integer source too, so that with SAT a finite overflow gives the largest finite value; the rule's row for such a source says only Round, its opening that SAT applies to floating destinations. -/
def cvtOp (dt st mode : Nat) (ftz sat : Bool) (raw : Nat) : Nat × Word :=
  match cvtFmt st with
  | some f =>
    let v := f.value (f.input (ftzOf st ftz) raw)
    (match cvtFmt dt with
     | some g => cvtToFloat dt g mode ftz (sat && !cvtWiders st dt) v
     | none => cvtToInt dt mode v)
  | none =>
    let x : Int := if st = 6 then signed 32 raw else (raw % 2 ^ 32 : Nat)
    (match cvtFmt dt with
     | some g => cvtToFloat dt g mode ftz sat (.fin (decide (x < 0)) x.natAbs 0)
     | none => if sat then ((if dt = 7 then satN32 x else satI32 x), 0) else (raw % 2 ^ 32, 0))

/-- An integer immediate as an encoding (R113: exact). -/
def Fmt.ofNat (f : Fmt) (n : Nat) : Nat := (f.roundFin 0 false false n 0).1

/-- R338: the new value of an atomic by RATOM operation code; old and operands as values of the form's width. -/
def atomNew (op old a b : Nat) : Nat :=
  match op with
  | 0 => (old + a) % 2 ^ 32
  | 1 => (old + a) % 2 ^ 64
  | 2 => (f32.addF 0 false old a).1
  | 3 => (f64.addF 0 false old a).1
  | 4 => if signed 32 a < signed 32 old then a else old
  | 5 => if signed 32 old < signed 32 a then a else old
  | 6 => if a < old then a else old
  | 7 => if old < a then a else old
  | 8 => (BitVec.ofNat 32 old &&& BitVec.ofNat 32 a).toNat
  | 9 => (BitVec.ofNat 32 old ||| BitVec.ofNat 32 a).toNat
  | 10 => (BitVec.ofNat 32 old ^^^ BitVec.ofNat 32 a).toNat
  | 11 => a
  | _ => if old = a then b else old

/-- Does an operation write nothing: a failed compare. -/
def atomFails (op old a : Nat) : Bool := 12 ≤ op && old != a

end Sys2Proof.Machine
end

