-- ==== Sys2Proof/Machine/Crypto.lean ====
section
/-! DEFINITION. The cryptographic operations of R332 to R334, after the standards the spec names (log entry 96): SHA-384, AES-256 with the XTS mode and the key unwrap of RFC 3394, and the 384-bit brainpool curve of RFC 5639 with ECDSA and ECDH. -/

namespace Sys2Proof.Machine

/-- The largest r + t, t below 2^n, whose k-th power is at most x. -/
def rootFrom (k x : Nat) : Nat → Nat → Nat
  | 0, r => r
  | n + 1, r => rootFrom k x n (if (r + 2 ^ n) ^ k ≤ x then r + 2 ^ n else r)

/-- The first 64 bits of the fraction of the k-th root of p. -/
def rootFraction (k p : Nat) : BitVec 64 := BitVec.ofNat 64 (rootFrom k (p * 2 ^ (64 * k)) 72 0)

/-- The first 80 primes. -/
def primes80 : List Nat :=
  [2, 3, 5, 7, 11, 13, 17, 19, 23, 29, 31, 37, 41, 43, 47, 53, 59, 61, 67, 71,
   73, 79, 83, 89, 97, 101, 103, 107, 109, 113, 127, 131, 137, 139, 149, 151, 157, 163, 167, 173,
   179, 181, 191, 193, 197, 199, 211, 223, 227, 229, 233, 239, 241, 251, 257, 263, 269, 271, 277, 281,
   283, 293, 307, 311, 313, 317, 331, 337, 347, 349, 353, 359, 367, 373, 379, 383, 389, 397, 401, 409]

/-- Bytes as a big-endian number. -/
def beNat (bs : List Byte) : Nat := bs.foldl (fun n b => 256 * n + b.toNat) 0

/-- A number as n big-endian bytes. -/
def beBytes (n v : Nat) : List Byte := (leBytes n v).reverse

/-- Consecutive pieces of n bytes; k bounds them. -/
def piecesOf (n : Nat) : Nat → List Byte → List (List Byte)
  | 0, _ => []
  | k + 1, bs => if bs.isEmpty then [] else bs.take n :: piecesOf n k (bs.drop n)

/-- SHA-384: the message padded to whole blocks of 128 bytes. -/
def shaPad (bs : List Byte) : List Byte := bs ++ [0x80] ++ zeros ((239 - bs.length % 128) % 128) ++ beBytes 16 (8 * bs.length)

/-- SHA-384: n more words of the message schedule, the newest first. -/
def shaExpand : Nat → List (BitVec 64) → List (BitVec 64)
  | 0, ws => ws
  | n + 1, ws =>
    let w (i : Nat) : BitVec 64 := ws.getD (i - 1) 0
    let s0 := (w 15).rotateRight 1 ^^^ (w 15).rotateRight 8 ^^^ (w 15) >>> 7
    let s1 := (w 2).rotateRight 19 ^^^ (w 2).rotateRight 61 ^^^ (w 2) >>> 6
    shaExpand n ((s1 + w 7 + s0 + w 16) :: ws)

/-- SHA-384: one round on the words a to h, with the round's constant and schedule word. -/
def shaRound (v : List (BitVec 64)) (kw : BitVec 64 × BitVec 64) : List (BitVec 64) :=
  let x (i : Nat) : BitVec 64 := v.getD i 0
  let s1 := (x 4).rotateRight 14 ^^^ (x 4).rotateRight 18 ^^^ (x 4).rotateRight 41
  let ch := (x 4 &&& x 5) ^^^ (~~~(x 4) &&& x 6)
  let t1 := x 7 + s1 + ch + kw.1 + kw.2
  let s0 := (x 0).rotateRight 28 ^^^ (x 0).rotateRight 34 ^^^ (x 0).rotateRight 39
  let maj := (x 0 &&& x 1) ^^^ (x 0 &&& x 2) ^^^ (x 1 &&& x 2)
  [t1 + (s0 + maj), x 0, x 1, x 2, x 3 + t1, x 4, x 5, x 6]

/-- SHA-384: one block. -/
def shaBlock (ks h : List (BitVec 64)) (block : List Byte) : List (BitVec 64) :=
  let first := (piecesOf 8 16 block).map fun p => BitVec.ofNat 64 (beNat p)
  let ws := (shaExpand 64 first.reverse).reverse
  ((ks.zip ws).foldl shaRound h).zipWith (· + ·) h

/-- SHA-384 of a byte string, 48 bytes. -/
def sha384 (bs : List Byte) : List Byte :=
  let h0 := ((primes80.drop 8).take 8).map (rootFraction 2)
  let ks := primes80.map (rootFraction 3)
  let h := (piecesOf 128 (bs.length / 128 + 2) (shaPad bs)).foldl (shaBlock ks) h0
  (h.flatMap fun w => beBytes 8 w.toNat).take 48

/-- AES: double a byte of the field. -/
def aesDouble (a : Byte) : Byte := (a <<< 1) ^^^ (if a.getLsbD 7 then 0x1B else 0)

/-- AES: the product of two bytes over the bits of the first from bit n - 1 down. -/
def aesMulFrom (a b : Byte) : Nat → Byte → Byte
  | 0, r => r
  | n + 1, r => aesMulFrom a b n (aesDouble r ^^^ (if a.getLsbD n then b else 0))

def aesMul (a b : Byte) : Byte := aesMulFrom a b 8 0

/-- AES: the inverse of a byte, its 254th power; 0 for 0. -/
def aesInv (a : Byte) : Byte :=
  let p (x : Byte) : Byte := aesMul x x
  let a2 := p a
  let a4 := p a2
  let a8 := p a4
  let a16 := p a8
  let a32 := p a16
  let a64 := p a32
  aesMul (aesMul (aesMul (p a64) a64) (aesMul a32 a16)) (aesMul (aesMul a8 a4) a2)

/-- AES: the substitution of a byte, and the one that takes it back. -/
def aesSub (a : Byte) : Byte :=
  let b := aesInv a
  b ^^^ b.rotateLeft 1 ^^^ b.rotateLeft 2 ^^^ b.rotateLeft 3 ^^^ b.rotateLeft 4 ^^^ 0x63

def aesSubBack (a : Byte) : Byte := aesInv (a.rotateLeft 1 ^^^ a.rotateLeft 3 ^^^ a.rotateLeft 6 ^^^ 0x05)

/-- Bytes exclusive-ored. -/
def xorBytes (a b : List Byte) : List Byte := a.zipWith (· ^^^ ·) b

/-- AES-256: n more words of the key schedule, the newest first; i numbers the next one. -/
def aesExpand : Nat → Nat → Byte → List (List Byte) → List (List Byte)
  | 0, _, _, ws => ws
  | n + 1, i, rcon, ws =>
    let last := ws.getD 0 []
    let t :=
      if i % 8 = 0 then xorBytes ((last.drop 1 ++ last.take 1).map aesSub) [rcon, 0, 0, 0]
      else if i % 8 = 4 then last.map aesSub
      else last
    aesExpand n (i + 1) (if i % 8 = 0 then aesDouble rcon else rcon) (xorBytes (ws.getD 7 []) t :: ws)

/-- AES-256: the 15 round keys. -/
def aesKeys (key : List Byte) : List (List Byte) :=
  piecesOf 16 15 (aesExpand 52 8 1 (piecesOf 4 8 key).reverse).reverse.flatten

/-- AES: the rows of a block shifted by d columns each. -/
def aesShift (d : Nat) (b : List Byte) : List Byte := (List.range 16).map fun i => b.getD (i % 4 + 4 * ((i / 4 + d * (i % 4)) % 4)) 0

/-- AES: each column times a circulant column. -/
def aesMix (c : List Byte) (b : List Byte) : List Byte :=
  (List.range 16).map fun i =>
    (List.range 4).foldl (fun x j => x ^^^ aesMul (c.getD ((j + 4 - i % 4) % 4) 0) (b.getD (i / 4 * 4 + j) 0)) 0

/-- AES-256 of a 16-byte block. -/
def aesEncrypt (key block : List Byte) : List Byte :=
  let ks := aesKeys key
  let round (b : List Byte) (k : List Byte) : List Byte := xorBytes (aesMix [2, 3, 1, 1] (aesShift 1 (b.map aesSub))) k
  let b := ((ks.drop 1).take 13).foldl round (xorBytes block (ks.getD 0 []))
  xorBytes (aesShift 1 (b.map aesSub)) (ks.getD 14 [])

/-- AES-256 taken back. -/
def aesDecrypt (key block : List Byte) : List Byte :=
  let ks := (aesKeys key).reverse
  let round (b : List Byte) (k : List Byte) : List Byte := aesMix [14, 11, 13, 9] (xorBytes ((aesShift 3 b).map aesSubBack) k)
  let b := ((ks.drop 1).take 13).foldl round (xorBytes block (ks.getD 0 []))
  xorBytes ((aesShift 3 b).map aesSubBack) (ks.getD 14 [])

/-- XTS: a tweak doubled for the next block. -/
def xtsNext (t : List Byte) : List Byte :=
  let v := 2 * leNat t
  leBytes 16 (if v < 2 ^ 128 then v else (v - 2 ^ 128) ^^^ 0x87)

/-- XTS: the blocks of a data unit, each under its tweak. -/
def xtsBlocks (f : List Byte → List Byte) : List (List Byte) → List Byte → List Byte
  | [], _ => []
  | b :: rest, t => xorBytes (f (xorBytes b t)) t ++ xtsBlocks f rest (xtsNext t)

/-- R334: AES-256-XTS of a sector under a key pair of 64 bytes; the tweak is the sector's physical address. -/
def xtsEncrypt (pair : List Byte) (pa : Nat) (bs : List Byte) : List Byte :=
  xtsBlocks (aesEncrypt (pair.take 32)) (piecesOf 16 8 bs) (aesEncrypt (pair.drop 32) (leBytes 16 pa))

/-- R334: AES-256-XTS taken back. -/
def xtsDecrypt (pair : List Byte) (pa : Nat) (bs : List Byte) : List Byte :=
  xtsBlocks (aesDecrypt (pair.take 32)) (piecesOf 16 8 bs) (aesEncrypt (pair.drop 32) (leBytes 16 pa))

/-- RFC 3394: one step of the unwrap, on the check value and the eight halves of blocks; t numbers it. -/
def unwrapStep (key : List Byte) (s : List Byte × List (List Byte)) (t : Nat) : List Byte × List (List Byte) :=
  let i := (t + 7) % 8
  let b := aesDecrypt key (xorBytes s.1 (beBytes 8 t) ++ s.2.getD i [])
  (b.take 8, s.2.set i (b.drop 8))

/-- RFC 3394: the 64 bytes wrapped in 72, if the check value comes out. -/
def aesUnwrap (key wrapped : List Byte) : Option (List Byte) :=
  let r := ((List.range 48).map fun i => 48 - i).foldl (unwrapStep key) (wrapped.take 8, piecesOf 8 8 (wrapped.drop 8))
  if r.1 = List.replicate 8 0xA6 then some r.2.flatten else none

/-- RFC 5639, brainpoolP384r1: the field's prime, the curve's coefficients, its base point and the point's order. -/
def curveP : Nat := 0x8CB91E82A3386D280F5D6F7E50E641DF152F7109ED5456B412B1DA197FB71123ACD3A729901D1A71874700133107EC53
def curveA : Nat := 0x7BC382C63D8C150C3C72080ACE05AFA0C2BEA28E4FB22787139165EFBA91F90F8AA5814A503AD4EB04A8C7DD22CE2826
def curveB : Nat := 0x04A8C7DD22CE28268B39B55416F0447C2FB77DE107DCD2A62E880EA53EEB62D57CB4390295DBC9943AB78696FA504C11
def curveG : Option (Nat × Nat) :=
  some (0x1D1C64F068CF45FFA2A63A81B7C13F6B8847A3E77EF14FE3DB7FCAFE0CBD10E8E826E03436D646AAEF87B2E247D4AF1E,
    0x8ABE1D7520F9C2A45CB1EB8E95CFD55262B70B29FEEC5864E19C054FF99129280E4646217791811142820341263C5315)
def curveQ : Nat := 0x8CB91E82A3386D280F5D6F7E50E641DF152F7109ED5456B31F166E6CAC0425A7CF3AB6AF6B7FC3103B883202E9046565

/-- A power modulo m, over the bits of e from bit n - 1 down. -/
def powMod (m b e : Nat) : Nat → Nat → Nat
  | 0, r => r
  | n + 1, r => powMod m b e n (r * r % m * (if e.testBit n then b else 1) % m)

/-- The inverse modulo a prime of 384 bits. -/
def invMod (m a : Nat) : Nat := powMod m (a % m) (m - 2) 384 1

/-- Is a pair of numbers a point of the curve. -/
def onCurve (x y : Nat) : Bool := decide (x < curveP ∧ y < curveP) && (y * y) % curveP == (x * x * x + curveA * x + curveB) % curveP

/-- The sum of two points; none is the point at infinity. -/
def curveAdd (a b : Option (Nat × Nat)) : Option (Nat × Nat) :=
  match a, b with
  | none, b => b
  | a, none => a
  | some p, some q =>
    if p.1 = q.1 ∧ (p.2 + q.2) % curveP = 0 then none
    else
      let slope :=
        if p = q then (3 * p.1 * p.1 + curveA) * invMod curveP (2 * p.2) % curveP
        else (q.2 + curveP - p.2) * invMod curveP (q.1 + curveP - p.1) % curveP
      let x := (slope * slope + 2 * curveP - p.1 - q.1) % curveP
      some (x, (slope * (p.1 + curveP - x) + curveP - p.2) % curveP)

/-- A multiple of a point, over the bits of k from bit n - 1 down. -/
def curveMulFrom (k : Nat) (a : Option (Nat × Nat)) : Nat → Option (Nat × Nat) → Option (Nat × Nat)
  | 0, r => r
  | n + 1, r => curveMulFrom k a n (curveAdd (curveAdd r r) (if k.testBit n then a else none))

def curveMul (k : Nat) (a : Option (Nat × Nat)) : Option (Nat × Nat) := curveMulFrom k a 384 none

/-- R333, R334: a point as 96 bytes, x then y, little-endian (R3). -/
def pointBytes (a : Option (Nat × Nat)) : List Byte := match a with | some p => leBytes 48 p.1 ++ leBytes 48 p.2 | none => zeros 96

/-- A point from 96 bytes, if they name one. -/
def pointOf (bs : List Byte) : Option (Nat × Nat) :=
  let x := fieldAt bs 0 48
  let y := fieldAt bs 48 48
  if bs.length = 96 ∧ onCurve x y then some (x, y) else none

/-- ECDSA with SHA-384: does a signature (r, s) of a message verify under a public key. -/
def ecdsaOk (key : Option (Nat × Nat)) (msg : List Byte) (r s : Nat) : Bool :=
  let z := beNat (sha384 msg)
  let w := invMod curveQ s
  let p := curveAdd (curveMul (z * w % curveQ) curveG) (curveMul (r * w % curveQ) key)
  key.isSome && decide (0 < r ∧ r < curveQ ∧ 0 < s ∧ s < curveQ) && (match p with | some q => q.1 % curveQ == r | none => false)

/-- ECDSA with SHA-384: the signature of a message under a private key with a nonce. -/
def ecdsaSign (d nonce : Nat) (msg : List Byte) : Nat × Nat :=
  let r := (match curveMul nonce curveG with | some q => q.1 | none => 0) % curveQ
  (r, invMod curveQ nonce * (beNat (sha384 msg) + r * d) % curveQ)

/-- A private key or nonce from a free number: one from 1 to the order less 1. -/
def scalarOf (n : Nat) : Nat := 1 + n % (curveQ - 1)

/-- R334: the wrapping key of a blob: the first 32 bytes of SHA-384 of the x coordinate of the ECDH product; none when its point is none of the curve or has no product. -/
def wrapKey (priv : Nat) (blob : List Byte) : Option (List Byte) :=
  match pointOf (blob.take 96) with
  | none => none
  | some p => (curveMul priv (some p)).map fun q => (sha384 (leBytes 48 q.1)).take 32

/-- R334: the key pair a blob of 168 bytes holds, if it unwraps. -/
def unwrapBlob (priv : Nat) (blob : List Byte) : Option (List Byte) :=
  (wrapKey priv blob).bind fun k => aesUnwrap k (blob.drop 96)

end Sys2Proof.Machine
end

