-- ==== Sys2Proof/Machine/Regs.lean ====
section
/-! DEFINITION. Registers with shape tags (R67 to R78), predicates (R70), and the commit of return-buffer entries (R105, R110). -/

namespace Sys2Proof.Machine

/-- R71: the value of lane l. -/
def RVal.get (v : RVal) (l : Nat) : Word :=
  match v with
  | .u x => x
  | .a base stride => base + BitVec.ofNat 32 l * stride
  | .g vs => vs.getD l 0

/-- R71: the SHAPE code. -/
def RVal.code (v : RVal) : Nat :=
  match v with
  | .u _ => 0
  | .a _ _ => 1
  | .g _ => 2

def RVal.isU (v : RVal) : Bool := v.code == 0

/-- R71: A with stride 0 is U. -/
def RVal.affine (base stride : Word) : RVal := if stride = 0 then .u base else .a base stride

/-- A G value of W lanes. -/
def RVal.lanes (W : Nat) (f : Nat → Word) : RVal := .g ((List.range W).map f)

/-- R73, per-lane row: U when every register source is U, else G. -/
def RVal.perLane (W : Nat) (srcs : List RVal) (f : Nat → Word) : RVal :=
  if srcs.all RVal.isU then .u (f 0) else RVal.lanes W f

/-- R67: the register a 6-bit code names, in frame fid for v registers. -/
def Warp.reg (w : Warp) (fid r : Nat) : RVal :=
  if r < 56 then
    match w.frame? fid with
    | some f => f.regs.getD r (.u 0)
    | none => .u 0
  else w.gregs.getD (r - 56) (.u 0)

/-- R41, R71: what lane l reads in a register; a vacant lane reads 0. -/
def Warp.value (w : Warp) (fid r l : Nat) : Word := if w.vacant.getLsbD l then 0 else (w.reg fid r).get l

/-- R69, R83: write a register; one the frame does not hold is not written. -/
def Warp.setReg (w : Warp) (fid r : Nat) (v : RVal) : Warp :=
  if r < 56 then w.updFrame fid fun f => { f with regs := f.regs.set r v }
  else { w with gregs := putAt (.u 0) w.gregs (r - 56) v }

/-- R72: the live set of a register. -/
def Warp.liveSet (w : Warp) (fid r : Nat) : Mask :=
  if r < 56 then
    match w.frame? fid with
    | some f => f.members &&& w.liveLanes
    | none => 0
  else w.liveLanes

/-- Every bit of a register (a write that is not narrow, R74). -/
def fullBits : Word := 0xFFFFFFFF#32

/-- R72, R74, R78: what a register holds after a write of val to the lanes of ex: full when ex contains live, narrow when `bits` leaves some out. -/
def RVal.write (W : Nat) (old : RVal) (ex live : Mask) (bits : Word) (val : RVal) : RVal :=
  let full := subset live ex
  let merged (l : Nat) : Word := (old.get l &&& ~~~bits) ||| (val.get l &&& bits)
  if bits = fullBits then
    if full then (match val with | .a b s => RVal.affine b s | v => v)
    else RVal.lanes W fun l => if ex.getLsbD l then val.get l else old.get l
  else if full && old.isU && val.isU then .u (merged 0)
  else RVal.lanes W fun l => if ex.getLsbD l then merged l else old.get l

/-- Write a register of a warp at W lanes. -/
def Warp.write (w : Warp) (W fid r : Nat) (ex live : Mask) (bits : Word) (val : RVal) : Warp :=
  w.setReg fid r (RVal.write W (w.reg fid r) ex live bits val)

/-- R70: predicate p over all lanes; p7 reads as 1. -/
def Warp.pred (w : Warp) (p : Nat) : Mask := if p = 7 then ~~~0 else w.preds.getD p 0

/-- R70: a predicate write keeps lanes outside ex; p7 ignores it. -/
def Warp.setPred (w : Warp) (p : Nat) (ex v : Mask) : Warp :=
  if p < 7 then { w with preds := putAt 0 w.preds p ((w.pred p &&& ~~~ex) ||| (v &&& ex)) } else w

/-- The lanes of the path that holds lane l. -/
def Warp.pathOf (w : Warp) (l : Nat) : Mask :=
  match w.paths.find? fun p => p.lanes.getLsbD l with
  | some p => p.lanes
  | none => 0

/-- R47: replace a path by its parts, in increasing order of their lowest lane. DESIGN CHOICE (log entry 69): each part takes the whole path's age counter, aged flag and yield mark; R47, R50 and R429 name no value for them. -/
def splitPath (p : Path) (parts : List Mask) : List Path :=
  let ps := (lanesOf p.lanes).filterMap fun l => parts.find? fun q => lowest q == l
  ps.map fun q => { p with lanes := q }

/-- Two lanes belong to one path when PC, frame and run state agree (R46). -/
def Lane.same (a b : Lane) : Bool := a.pc == b.pc && a.fid == b.fid && a.run == b.run

/-- The classes of a mask's lanes under `Lane.same`, in order of their lowest lane. -/
def Warp.classes (w : Warp) : List Nat → List Mask
  | [] => []
  | l :: ls =>
    let rest := Warp.classes w ls
    if rest.any (fun q => (w.lane (lowest q)).same (w.lane l)) then
      rest.map fun q => if (w.lane (lowest q)).same (w.lane l) then q ||| bit l else q
    else bit l :: rest

/-- R46, R47: drop exited lanes from every path and split each path whose lanes no longer agree. -/
def Warp.regroup (w : Warp) : Warp :=
  let live := w.liveLanes
  { w with paths := w.paths.flatMap fun p =>
      let lanes := p.lanes &&& live
      if lanes = 0 then [] else splitPath { p with lanes := lanes } (w.classes (lanesOf lanes)) }

/-- R78, R81, R90: a frame with no member left is freed, and results still to come for it are written nowhere. -/
def Warp.sweep (w : Warp) : Warp :=
  let dead (fid : Nat) : Bool := w.frames.any fun f => f.id == fid && f.members == 0
  { w with
    frames := w.frames.filter fun f => f.members != 0,
    rb := w.rb.map fun e => { e with dests := e.dests.map fun d =>
      match d with
      | .reg r fid bits => if r < 56 && dead fid then .reg r 256 bits else d
      | .pred _ => d } }

/-- R52: the paths that contain a lane of the mask move to the end, in their order. -/
def Warp.demote (w : Warp) (m : Mask) : Warp :=
  let hit (p : Path) : Bool := (p.lanes &&& m) != 0
  { w with paths := w.paths.filter (fun p => !hit p) ++ w.paths.filter hit }

/-- Two paths as one (R47, R429): the smaller age, aged when either was, marked only when both were. -/
def Path.merge (p q : Path) : Path :=
  { lanes := p.lanes ||| q.lanes, age := min p.age q.age, aged := p.aged || q.aged, yield := p.yield && q.yield }

/-- Merge q into the first path of the list it may merge with; else append it. `ready` holds the lanes of the ready paths. DESIGN CHOICE (log entry 88): a path whose CALL or GROW has been granted, or whose CHDRAIN or TWAIT is through, and that has not issued again, merges with none. -/
def Warp.mergeInto (w : Warp) (ready : Mask) (ps : List Path) (q : Path) : List Path :=
  let fits (p : Path) : Bool :=
    let a := w.lane (lowest p.lanes)
    let b := w.lane (lowest q.lanes)
    subset (p.lanes ||| q.lanes) ready && a.run == .ready && b.run == .ready && a.pc == b.pc && a.fid == b.fid
  match ps with
  | [] => [q]
  | p :: rest => if fits p then p.merge q :: rest else p :: Warp.mergeInto w ready rest q

/-- R51: merge ready paths that meet at one PC and frame; the merged path stands where the earlier one stood. -/
def Warp.regang (w : Warp) (ready : Mask) : Warp := { w with paths := w.paths.foldl (Warp.mergeInto w ready) [] }

/-- R307: the warp's shadow as a warp of its own: its leader with the shadow's registers, predicates and return entries. -/
def Warp.asShadow (w : Warp) (sh : Shadow) : Warp :=
  { w with
    frames := w.frames.map (fun f => match sh.regs.find? (fun p => p.1 == f.id) with | some p => { f with regs := p.2 } | none => f),
    gregs := sh.gregs, preds := sh.preds, fpmode := sh.fpmode, fpflags := sh.fpflags, vcs := sh.vcs,
    lanes := w.lanes.zipIdx.map (fun p => { p.1 with stack := sh.rstacks.getD p.2 p.1.stack }),
    shadow := none }

/-- R307: a shadow that holds the registers of a warp. -/
def Shadow.holding (sh : Shadow) (w : Warp) : Shadow :=
  { sh with
    regs := w.frames.map (fun f => (f.id, f.regs)), gregs := w.gregs, preds := w.preds, fpmode := w.fpmode,
    fpflags := w.fpflags, vcs := w.vcs, rstacks := w.lanes.map fun l => l.stack }

/-- R307: a shadow with nothing recorded. -/
def Shadow.empty : Shadow :=
  { regs := [], gregs := [], preds := [], fpmode := 0, fpflags := 0, vcs := [], rstacks := [], own := [], record := [], queue := [] }

/-- R307: a warp with a shadow that holds what it holds, or without one. -/
def Warp.checked (w : Warp) (on : Bool) : Warp := { w with shadow := if on then some (Shadow.empty.holding w) else none }

/-- R307: change the registers of a warp, and its shadow's in the same way. -/
def Warp.both (w : Warp) (f : Warp → Warp) : Warp :=
  { f w with shadow := w.shadow.map fun sh => sh.holding (f (w.asShadow sh)) }

/-- R308: the words whose long results come from outside the warp's registers: CRD of the registers marked L, LAUNCH, the loads, the atomics, CHSTAT, TFIRST, TLREAD and TGET. -/
def Entry.outside (e : Entry) : Bool :=
  [0x14, 0x3B, 0x50, 0x51, 0x52, 0x53, 0x56, 0x58, 0x5A, 0x5B, 0x5C, 0x5D, 0x60, 0x62, 0x63, 0x66, 0x6A, 0x6C, 0x70].contains (opOf e.word).toNat

/-- R308: the load-value queue takes the long results from outside that have arrived (log entry 10). -/
def Warp.queued (w : Warp) : Warp :=
  let add (q : List (Nat × List RVal)) (e : Entry) : List (Nat × List RVal) :=
    if e.done && e.outside && !q.any (fun p => p.1 == e.seq) then q ++ [(e.seq, e.vals)] else q
  { w with shadow := w.shadow.map fun sh => { sh with queue := w.rb.foldl add sh.queue } }

/-- R308: the record and the queue drop what the leader and its shadow have both committed. -/
def Warp.trim (w : Warp) : Warp :=
  let has (n : Nat) : Bool := w.rb.any fun e => e.seq == n
  { w with shadow := w.shadow.map fun sh =>
      { sh with own := sh.own.filter (fun p => has p.1), queue := sh.queue.filter (fun p => has p.1),
                record := sh.record.filter fun r => r.seqs.any has } }

/-- R308: does a leader's load-value queue hold its 256 entries. -/
def Warp.queueFull (w : Warp) : Bool := match w.shadow with | some sh => decide (256 ≤ sh.queue.length) | none => false

/-- R308: the values a shadow commits for an entry: its own result, or the queue's value. -/
def Shadow.valsOf (sh : Shadow) (e : Entry) : List RVal :=
  match (sh.own ++ sh.queue).find? fun p => p.1 == e.seq with
  | some p => p.2
  | none => e.vals

/-- R105: write one entry's results to the lanes of `part` of one warp. -/
def Entry.writeOne (e : Entry) (W : Nat) (w : Warp) (part : Mask) : Warp :=
  (e.dests.zip e.vals).foldl
    (fun w dv =>
      match dv.1 with
      | .reg r fid bits => w.write W fid r part e.live bits dv.2
      | .pred p => w.setPred p part (maskOf fun l => dv.2.get l != 0))
    w

/-- R105, R308: write one entry's results to the lanes of `part`, and in checked mode the shadow's to the shadow's registers. -/
def Entry.writeTo (e : Entry) (W : Nat) (w : Warp) (part : Mask) : Warp :=
  { e.writeOne W w part with
    shadow := w.shadow.map fun sh => sh.holding (Entry.writeOne { e with vals := sh.valsOf e } W (w.asShadow sh) part) }

/-- R53: is a poll result unchanged against the lane's record. -/
def pollSame (old : Option Poll) (new : Poll) : Bool :=
  match old with
  | none => false
  | some p => p.va == new.va && p.size == new.size && p.vals == new.vals

/-- R53, R380: the 128-byte sectors an entry's lanes read through the core's L1, which a path may watch. -/
def Entry.sectors (e : Entry) (part : Mask) : List Nat :=
  match e.pend with
  | .load _ _ _ accs _ =>
    accs.filterMap fun a =>
      if part.getLsbD a.lane && a.cached then (match a.loc with | .glob k => some (k / 128) | .shared _ => none) else none
  | _ => []

/-- R53: a path of which every polled lane saw an unchanged result watches the sectors it polled, with those another entry of the same marker already put it to watch; one changed result leaves the path ready. -/
def Lane.watch (same : Bool) (till : Nat) (sectors : List Nat) (l : Lane) : Lane :=
  match same, l.run with
  | true, .ready => { l with run := .watching till sectors false }
  | true, .watching t ss k => { l with run := .watching t (ss ++ sectors) k }
  | false, .watching _ _ _ => { l with run := .ready }
  | _, _ => l

/-- R52, R53, R105: commit an entry for the lanes of `part`: results, poll records, demotion, and the watching state when every lane polled unchanged. -/
def Entry.commit (e : Entry) (W clock : Nat) (w : Warp) (part : Mask) : Warp :=
  let w1 := e.writeTo W w part
  let mine := e.polls.filter fun p => part.getLsbD p.1
  let same := maskOf fun l => mine.any fun p => p.1 == l && pollSame (w.lane l).poll p.2
  let w2 := { w1 with lanes := w1.lanes.zipIdx.map fun q =>
      match mine.find? (fun p => p.1 == q.2) with
      | some p => { q.1 with poll := some p.2 }
      | none => q.1 }
  let failed := (e.fail &&& part) ||| same
  let w3 := if failed = 0 then w2 else w2.demote failed
  if mine.isEmpty then w3
  else w3.updLanes (w3.pathOf (lowest part))
    (Lane.watch (same == (part &&& maskOf fun l => mine.any fun p => p.1 == l)) (clock + 1024) (e.sectors part))

/-- The entries not held aside that hold a lane of the mask. -/
def Warp.pending (w : Warp) (m : Mask) : List Entry := w.rb.filter fun e => !e.held && (e.exec &&& m) != 0

/-- R105 step 1: is every entry that holds a lane of the mask filled. -/
def Warp.filled (w : Warp) (m : Mask) : Bool := (w.pending m).all fun e => e.done

/-- Take the lanes of `part` off an entry; drop it when none is left. -/
def Warp.retire (w : Warp) (seq : Nat) (part : Mask) : Warp :=
  Warp.trim { w with rb := (w.rb.map fun e => if e.seq == seq then { e with exec := e.exec &&& ~~~part } else e).filter (fun e => e.exec != 0) }

/-- R105 steps 2 to 5 and R110: commit a list of entries in issue order for the lanes of m, up to the first that faults; answers the warp and the faulting entry with its lanes. -/
def commitList (W clock : Nat) (m : Mask) : List Entry → Warp → Warp × Option (Entry × Mask)
  | [], w => (w, none)
  | e :: es, w =>
    let part := e.exec &&& m
    match e.fault with
    | some f =>
      if (f.lanes &&& part) != 0 then (w.retire e.seq part, some (e, part))
      else commitList W clock m es ((e.commit W clock w part).retire e.seq part)
    | none => commitList W clock m es ((e.commit W clock w part).retire e.seq part)

/-- Commit every pending entry of the lanes of m. -/
def Warp.commitLanes (w : Warp) (W clock : Nat) (m : Mask) : Warp × Option (Entry × Mask) :=
  commitList W clock m (w.pending m) w

/-- R6: a register that holds an unspecified value under an unspecified tag, by context and number (log entry 4). -/
def freeReg (W ctx n : Nat) : RVal :=
  match Config.freePick ctx n 3 with
  | 0 => .u (Config.freeWord ctx n)
  | 1 => RVal.affine (Config.freeWord ctx n) (Config.freeWord ctx (n + 1))
  | _ => RVal.lanes W fun l => Config.freeWord ctx (n + l)

end Sys2Proof.Machine
end

