-- ==== Sys2Proof/Machine/Trans.lean ====
section
/-! DEFINITION. Records the device writes (error logs R318 to R320, host rings R325, fault records R295), page-table walks (R169 to R174), homes (R152 to R154), and the check of an instruction's accesses over its lanes (R173). -/

namespace Sys2Proof.Machine

/-- The key of a physical address of a package. -/
def keyOf (pkg pa : Nat) : Nat := pkg * 2 ^ 48 + pa

/-- R334: a key names, above the package and the address, the identity of the encryption key it is accessed under (log entry 28). -/
def keyPkg (k : Nat) : Nat := k / 2 ^ 48 % 2 ^ 24
def keyPa (k : Nat) : Nat := k % 2 ^ 48
def keyCrypt (k : Nat) : Nat := k / 2 ^ 72

/-- The key without the encryption key's identity: where the byte stands. -/
def plainKey (k : Nat) : Nat := k % 2 ^ 72

/-- The 128-byte sector of a key. -/
def sectorOf (k : Nat) : Nat := plainKey k / 128

/-- R334: the key identity a sector was last written under. -/
def Mach.sealKey (m : Mach) (s : Nat) : Nat := match m.sealKeys.find? fun p => p.1 == s with | some p => p.2 | none => 0

/-- R334: the 64 bytes of a key identity. -/
def Mach.keyBytes (m : Mach) (ident : Nat) : List Byte :=
  match m.keyTab[ident]? with
  | some (.root n) => padTo 64 (Config.rootKey n)
  | some (.blob bs) => padTo 64 bs
  | none => zeros 64

/-- R334: the byte memory holds at a key, read under the key's own encryption key: `mem` holds the plain bytes, which the writer's key encrypted and this one decrypts. -/
def Mach.memByte (m : Mach) (key : Nat) : Byte :=
  let s := sectorOf key
  let k := m.sealKey s
  if k = keyCrypt key then Memory.get m.mem (plainKey key)
  else
    let pa := s * 128 % 2 ^ 48
    (xtsDecrypt (m.keyBytes (keyCrypt key)) pa (xtsEncrypt (m.keyBytes k) pa (m.mem.bytes (s * 128) 128))).getD (key % 128) 0

/-- n bytes of memory from a key upward. -/
def Mach.memBytes (m : Mach) (key n : Nat) : List Byte := (List.range n).map fun i => m.memByte (key + i)

/-- R334: a sector is held under an encryption key from now on, its bytes as that key reads them. -/
def Mach.rekey (m : Mach) (crypt s : Nat) : Mach :=
  if m.sealKey s = crypt then m
  else
    { m with
      mem := m.mem.setCells (cellsFrom (s * 128) (m.memBytes (crypt * 2 ^ 72 + s * 128) 128)),
      sealKeys := (if crypt = 0 then [] else [(s, crypt)]) ++ m.sealKeys.filter fun p => p.1 != s }

/-- R334: bytes are written to memory, each under its own encryption key. -/
def Mach.putCells (m : Mach) (cs : List Host.Cell) : Mach :=
  ((cs.map fun c => keyCrypt c.1).eraseDups).foldl
    (fun m k =>
      let mine := cs.filter fun c => keyCrypt c.1 == k
      let m1 := ((mine.map fun c => sectorOf c.1).eraseDups).foldl (fun m s => m.rekey k s) m
      { m1 with mem := m1.mem.setCells (mine.map fun c => (plainKey c.1, c.2)) }) m

/-- R334: the identity of an installed key. -/
def Mach.keyId (m : Mach) (k : Nat) : Option Nat := (m.keys.find? fun p => p.1 == k).map Prod.snd

/-- R334: the part of a key that names the encryption: memory of the package's dies is encrypted, host memory and registers are not (log entry 28). -/
def cryptPart (ident pa : Nat) : Nat := if pa < 2 ^ 39 then ident * 2 ^ 72 else 0

/-- R334: the key of an access no page translates: under key 0 (log entry 28). -/
def Mach.memKey (m : Mach) (pa : Nat) : Nat := keyOf m.rmap.pkg pa + cryptPart ((m.keyId 0).getD 0) pa

/-- R152: where host memory starts. -/
def hostBase : Nat := 0x800000000000

/-- R152, R331: the key of a host physical address; those above what the package's own addresses reach, which only the FE names, stand apart. -/
def Mach.hostKey (m : Mach) (a : Nat) : Nat := if a < 2 ^ 47 then keyOf m.rmap.pkg (hostBase + a) else 2 ^ 71 + a

def Mach.hostWrite (m : Mach) (a : Nat) (bs : List Byte) : Mach :=
  m.putCells (cellsFrom (m.hostKey a) bs)

def Mach.hostRead (m : Mach) (a n : Nat) : List Byte := m.memBytes (m.hostKey a) n

/-- R325: is a ring configured. -/
def Ring.ok (r : Ring) : Bool := decide (6 ≤ r.logs ∧ r.logs ≤ 16 ∧ r.base ≠ 0 ∧ r.base % 4096 = 0)

/-- R325: the record size of ring i: fault 32, log 64, notice 16. -/
def ringRec (i : Nat) : Nat := if i = 0 then 32 else if i = 1 then 64 else 16

/-- Is there room for one more record. -/
def Ring.room (r : Ring) : Bool := r.ok && decide ((r.tail + 2 ^ 32 - r.head) % 2 ^ 32 < 2 ^ r.logs)

/-- The record at the head of the held ones is written at an address: its own notices may go, and the others move up. -/
def RingNote.wrote (a : Nat) (k : RingNote) : RingNote :=
  if k.place.isSome then k else if k.after = 0 then { k with place := some a } else { k with after := k.after - 1 }

/-- R325: write held records in order while the ring has room; n bounds the records tried. -/
def Mach.ringFlush (m : Mach) (i : Nat) : Nat → Mach
  | 0 => m
  | n + 1 =>
    let r := m.rings.getD i Ring.empty
    match r.held with
    | [] => m
    | x :: xs =>
      if r.room then
        let a := r.base + (r.tail % 2 ^ r.logs) * ringRec i
        let m1 := m.hostWrite a x
        Mach.ringFlush { m1 with rings := m1.rings.set i { r with tail := (r.tail + 1) % 2 ^ 32, held := xs, notes := r.notes.map (RingNote.wrote a) } } i n
      else m

/-- R325: a full or unconfigured ring loses nothing: the record waits. -/
def Mach.ringPush (m : Mach) (i : Nat) (x : List Byte) : Mach :=
  let m1 := { m with rings := modAt m.rings i fun r => { r with held := r.held ++ [x] } }
  m1.ringFlush i ((m1.rings.getD i Ring.empty).held.length)

/-- R325: a notice. -/
def Mach.notice (m : Mach) (kind ctx arg0 arg1 : Nat) : Mach :=
  m.ringPush 2 (leBytes 1 kind ++ leBytes 1 ctx ++ zeros 2 ++ leBytes 4 arg0 ++ leBytes 8 arg1)

/-- R296, R318: post the notices whose records have been written to ring i. -/
def Mach.ringNotes (m : Mach) (i : Nat) : Mach :=
  let ns := (m.rings.getD i Ring.empty).notes
  let m1 := { m with rings := modAt m.rings i fun r => { r with notes := r.notes.filter fun k => k.place.isNone } }
  (ns.filter fun k => k.place.isSome).foldl (fun m k => m.notice k.kind k.ctx k.arg0 (k.arg1.getD (k.place.getD 0))) m1

/-- R319: the fields of an error-log record that its raiser gives; `none` means the field does not apply and holds all ones. -/
structure LogInfo where
  cause  : Nat
  sub    : Nat
  die    : Nat
  ctx    : Option Nat
  core   : Option Nat
  warp   : Option Nat
  flags  : Nat
  rolls  : Option Nat
  va     : Option Nat
  pa     : Option Nat
  pc     : Option PC
  grid   : Option Nat
  detail : Nat
  deriving DecidableEq, Repr

/-- A field of n bytes, all ones when it does not apply (R319). -/
def optBytes (n : Nat) (v : Option Nat) : List Byte :=
  match v with
  | some x => leBytes n x
  | none => List.replicate n 0xFF

/-- R319: the 64 bytes of a record. -/
def logBytes (m : Mach) (i : LogInfo) (seq lost : Nat) : List Byte :=
  leBytes 8 m.clock ++ leBytes 1 i.cause ++ leBytes 1 i.sub ++ leBytes 1 i.die ++ optBytes 1 i.ctx ++
  optBytes 1 i.core ++ optBytes 1 i.warp ++ leBytes 1 i.flags ++ optBytes 1 i.rolls ++ optBytes 8 i.va ++
  optBytes 8 i.pa ++
  (match i.pc with | some p => leBytes 4 (p.pk + p.sl * 2 ^ 21 + 2 ^ 31) | none => List.replicate 4 0xFF) ++
  leBytes 4 m.rmap.ver ++ optBytes 4 i.grid ++ leBytes 4 seq ++ leBytes 8 i.detail ++ leBytes 2 (min lost 0xFFFF) ++
  zeros 6

/-- R318: write a record to a die's ring (8: the FE's), with its continuation if it has one; a full ring drops and counts. -/
def Mach.log (m : Mach) (i : LogInfo) (cont : Option (List Byte)) : Mach :=
  let k := i.die
  match m.logs[k]? with
  | none => m
  | some lg =>
    if 256 < lg.recs.length + (if cont.isSome then 2 else 1) then
      { m with logs := m.logs.set k { lg with seq := (lg.seq + 1) % 2 ^ 32, lost := lg.lost + 1 } }
    else
      { m with logs := m.logs.set k { recs := lg.recs ++ [logBytes m i lg.seq lg.lost] ++ cont.toList, seq := (lg.seq + 1) % 2 ^ 32, lost := 0 } }

/-- R295: the 32 bytes of a fault record. -/
def faultBytes (f : FaultRec) : List Byte :=
  leBytes 8 f.va ++ leBytes 1 f.access ++ leBytes 1 f.place ++ leBytes 1 f.die ++ leBytes 1 f.ctx ++
  leBytes 2 (min f.waiters 0xFFFF) ++ zeros 2 ++ leBytes 4 f.mapver ++ leBytes 4 f.seq ++ leBytes 8 f.time

/-- R174, R295: a fault joins the pending record of its die, context and 64 KiB granule, or makes one; answers the record's name. A record the ring still holds back shows what has joined it. `more` tells whether another sub-warp waits on it (R295). -/
def Mach.addFault (m : Mach) (die ctx va access place : Nat) (more : Bool) : Mach × (Nat × Nat) :=
  let hit (f : FaultRec) : Bool := f.die == die && f.ctx == ctx && f.va / 65536 == va / 65536 && f.answer.isNone
  match m.faults.find? hit with
  | some f =>
    let g : FaultRec :=
      { f with access := (BitVec.ofNat 8 f.access ||| BitVec.ofNat 8 access).toNat, waiters := f.waiters + (if more then 1 else 0) }
    ({ m with faults := modWhere m.faults hit fun _ => g,
              rings := modAt m.rings 0 fun r => { r with held := r.held.map fun x => if x == faultBytes f then faultBytes g else x } },
      (die, f.seq))
  | none =>
    let q := m.faultSeq.getD die 0
    let ver := match m.ctx? ctx with | some c => c.mapver | none => m.rmap.ver
    let f : FaultRec := { die := die, seq := q, va := va, ctx := ctx, access := access, place := place, waiters := 1, mapver := ver, time := m.clock, answer := none }
    let m1 := { m with faults := m.faults ++ [f], faultSeq := m.faultSeq.set die ((q + 1) % 2 ^ 32) }
    (m1.ringPush 0 (faultBytes f), (die, q))

/-- What an access needs (R171): read, write, execute. -/
structure Need where
  r : Bool
  w : Bool
  x : Bool
  deriving DecidableEq, Repr

/-- R171, R172: the leaf entry a translation used: its key, and the context and address it was used for. -/
structure PteRef where
  key : Nat
  ctx : Nat
  va  : Nat
  deriving DecidableEq, Repr

/-- No entry: an access to the block-shared window. -/
def PteRef.absent : PteRef := { key := 0, ctx := 0, va := 0 }

/-- The outcome of a translation: the byte's key, the leaf entry and its NC and HB bits; a missing page; PROT with its sub-cause and the physical address where one is known (R173). -/
inductive Tr where
  | ok (key : Nat) (pte : PteRef) (nc hb : Bool)
  | page
  | prot (sub : Nat) (pa : Option Nat)
  deriving DecidableEq, Repr

/-- R169: the low bits of the VA a leaf of level k leaves to the page offset. -/
def levelShift (lvl : Nat) : Nat := if lvl = 0 then 43 else if lvl = 1 then 34 else if lvl = 2 then 25 else 16

/-- R13, R21: usable capacity of a die's stack. -/
def DieEnt.capacity (d : DieEnt) : Nat := 2 ^ 31 * (List.range 32).countP fun i => d.channels.testBit i

/-- R152, R154: may a physical address of the page's package be accessed (none) or which PROT sub-cause it meets. -/
def Mach.rangeFault (m : Mach) (pkg pa : Nat) (nc : Bool) : Option Nat :=
  if pa < 2 ^ 39 then
    if pkg ≠ m.rmap.pkg then none
    else
      match m.rmap.dies[pa / 2 ^ 36]? with
      | some d => if pa % 2 ^ 36 < d.capacity then none else some 4
      | none => some 4
  else if pkg ≠ m.rmap.pkg then some 4
  else if 0x010000000000 ≤ pa && pa ≤ 0x0100FFFFFFFF then (if nc then none else some 4)
  else if hostBase ≤ pa then none
  else some 4

/-- R170, R171: judge a leaf entry e at level lvl. -/
def Mach.leaf (m : Mach) (lvl e : Nat) (pte : PteRef) (n : Need) : Tr :=
  let sh := levelShift lvl
  let ppn := e / 2 ^ 24 % 2 ^ 32
  let pkg := e / 2 ^ 10 % 64
  let key := e / 2 ^ 16 % 128
  let nc := e.testBit 8
  let hb := e.testBit 7
  let pa := ppn * 65536 + pte.va % 2 ^ sh
  if lvl = 0 || e.testBit 23 || e.testBit 9 || ppn % 2 ^ (sh - 16) ≠ 0 then .prot 3 none
  else if (n.r && !e.testBit 1) || (n.w && !e.testBit 2) || (n.x && !e.testBit 3) then .prot 1 (some pa)
  else
    match m.keyId key with
    | none => .prot 2 (some pa)
    | some ident =>
      match m.rangeFault pkg pa nc with
      | some s => .prot s (some pa)
      | none =>
        if pkg = m.rmap.pkg && pa < 2 ^ 39 && hb != m.bias.contains (pa / 65536) then .prot 6 (some pa)
        else .ok (keyOf pkg pa + cryptPart ident pa) pte nc hb

/-- R172: the table entry a walk of a context meets at a level: a cached one, else the one in memory. -/
def Mach.entryAt (m : Mach) (ctx lvl va key : Nat) : Nat :=
  match m.tlb.find? fun t => t.ctx == ctx && t.lvl == lvl && t.tag == va / 2 ^ levelShift lvl with
  | some t => t.entry
  | none => leNat (m.memBytes key 8)

/-- R169: where the entry of a table for an address stands, as a physical address. -/
def entryPa (table lvl va : Nat) : Nat := table + 8 * (va / 2 ^ levelShift lvl % 512)

/-- R170: the table a non-leaf entry names. -/
def nextTable (e : Nat) : Nat := e / 2 ^ 12 % 2 ^ 36 * 4096

/-- R169, R171: walk from level lvl, with n levels left; an entry at an address the package does not back answers PROT (R13). An entry that is not valid below a malformed one answers PAGE, whose test comes first. -/
def Mach.walkFrom (m : Mach) (ctx table lvl va : Nat) (n : Need) : Nat → Tr
  | 0 => .prot 3 none
  | k + 1 =>
    let pa := entryPa table lvl va
    match m.rangeFault m.rmap.pkg pa false with
    | some s => .prot s (some pa)
    | none =>
      let e := m.entryAt ctx lvl va (m.memKey pa)
      if !e.testBit 0 then .page
      else if e.testBit 4 then m.leaf lvl e { key := m.memKey pa, ctx := ctx, va := va } n
      else if lvl = 3 then .prot 3 none
      else
        match Mach.walkFrom m ctx (nextTable e) (lvl + 1) va n k with
        | .page => .page
        | r => if e / 2 % 8 ≠ 0 || e / 2 ^ 5 % 128 ≠ 0 || e / 2 ^ 48 % 256 ≠ 0 then .prot 3 none else r

/-- R148, R447: the first of some addresses that lies beyond the 52-bit space. -/
def beyond (vas : List Nat) : Option Nat := vas.find? fun va => decide (2 ^ 52 ≤ va)

/-- R169: translate a virtual address of a context. -/
def Mach.translate (m : Mach) (ctx va : Nat) (n : Need) : Tr :=
  match m.ctx? ctx with
  | none => .prot 3 none
  | some c => m.walkFrom ctx c.root 0 va n 4

/-- R172: the entries a walk uses, as the device caches them; n bounds the levels. -/
def Mach.walked (m : Mach) (ctx table lvl va : Nat) : Nat → List TlbEnt
  | 0 => []
  | k + 1 =>
    let e := m.entryAt ctx lvl va (m.memKey (entryPa table lvl va))
    let t : TlbEnt := { ctx := ctx, lvl := lvl, tag := va / 2 ^ levelShift lvl, entry := e }
    if !e.testBit 0 then [] else if e.testBit 4 then [t] else t :: Mach.walked m ctx (nextTable e) (lvl + 1) va k

/-- R172: an access that performs leaves the entries of its walk cached, until the host's invalidation command drops them (log entry 85). -/
def Mach.cacheWalk (m : Mach) (ctx va : Nat) : Mach :=
  match m.ctx? ctx with
  | none => m
  | some c => { m with tlb := m.tlb ++ (m.walked ctx c.root 0 va 4).filter fun t => !m.tlb.contains t }

/-- R172: the entries of a context that translate some byte of a range are dropped, all of them for n = 0. -/
def Mach.tlbDrop (m : Mach) (ctx va n : Nat) : Mach :=
  { m with tlb := m.tlb.filter fun t =>
      !(t.ctx == ctx && (n == 0 || (decide (va < (t.tag + 1) * 2 ^ levelShift t.lvl) && decide (t.tag * 2 ^ levelShift t.lvl < va + n)))) }

/-- R171, R172: an access performs: A, and D for a write, are set in its leaf entry, and the entries of its walk are cached. -/
def Mach.touch (m : Mach) (pte : PteRef) (write : Bool) : Mach :=
  (m.cacheWalk pte.ctx pte.va).putCells [(pte.key, m.memByte pte.key ||| 0x20#8 ||| (if write then 0x40#8 else 0#8))]

/-- R153: the home of a key: (package, die), 8 standing for the FE. -/
def homeOf (k : Nat) : Nat × Nat := (keyPkg k, if keyPa k < 2 ^ 39 then keyPa k / 2 ^ 36 else 8)

/-- One lane's access as an instruction asks for it: lane, 64-bit address, size, need. -/
structure Ask where
  lane : Nat
  va   : Nat
  size : Nat
  need : Need
  deriving DecidableEq, Repr

/-- What the checks find for one lane (R148, R151, R171). -/
inductive LaneRes where
  | ok (a : Access) (pte : PteRef) (nc hb : Bool)
  | page (lane va : Nat)
  | bad (lane va cause sub : Nat) (pa : Option Nat)
  deriving DecidableEq, Repr

/-- R148, R151, R171: check one lane's global access. -/
def Mach.checkOne (m : Mach) (ctx : Nat) (q : Ask) : LaneRes :=
  if 2 ^ 52 ≤ q.va then .bad q.lane q.va 0x07 4 none
  else if q.va % q.size ≠ 0 then .bad q.lane q.va 0x04 2 none
  else
    match m.translate ctx q.va q.need with
    | .ok k pte nc hb => .ok { lane := q.lane, va := q.va, loc := .glob k, size := q.size, ops := [] } pte nc hb
    | .page => .page q.lane q.va
    | .prot s pa => .bad q.lane q.va 0x06 s pa

/-- R173: the verdict over an instruction's lanes: a trap by the lowest lane that met a fault other than PAGE, with the mask of the lanes that met that cause; or the accesses that go on and the lanes that park. -/
inductive Verdict where
  | trap (cause sub va : Nat) (pa : Option Nat) (mask : Mask)
  | go (accs : List (Access × PteRef × Bool × Bool)) (parked : List (Nat × Nat))
  deriving DecidableEq, Repr

/-- R173: the first lane in order that met a fault other than PAGE. -/
def firstBad (rs : List LaneRes) : Option (Nat × Nat × Nat × Option Nat) :=
  rs.findSome? fun r => match r with | .bad _ va c s pa => some (va, c, s, pa) | _ => none

/-- The lane of the first fault other than PAGE (R173, R289 step 3). -/
def badLane (rs : List LaneRes) : Nat := (rs.findSome? fun r => match r with | .bad l _ _ _ _ => some l | _ => none).getD 0

/-- R173 over the lanes in increasing order. -/
def verdict (rs : List LaneRes) : Verdict :=
  match firstBad rs with
  | some (va, c, s, pa) =>
    .trap c s va pa (rs.foldl (fun k r => match r with | .bad l _ c' _ _ => if c' = c then k ||| bit l else k | _ => k) 0)
  | none =>
    .go (rs.filterMap fun r => match r with | .ok a p nc hb => some (a, p, nc, hb) | _ => none)
      (rs.filterMap fun r => match r with | .page l va => some (l, va) | _ => none)

/-- R171: mark the entries of the accesses that perform. -/
def Mach.touchAll (m : Mach) (as : List (Access × PteRef × Bool × Bool)) (write : Bool) : Mach :=
  as.foldl (fun m a => m.touch a.2.1 write) m

/-- R171: the fetch of the words at some PCs of a code segment marks the entries it used. -/
def Mach.touchPcs (m : Mach) (ctx entry : Nat) (pcs : List PC) : Mach :=
  pcs.foldl
    (fun m pc =>
      match m.translate ctx (entry + pc.offset) { r := false, w := false, x := true } with
      | .ok _ pte _ _ => m.touch pte false
      | _ => m) m

end Sys2Proof.Machine
end

