-- ==== Sys2Proof/Machine/Window.lean ====
section
/-! DEFINITION. The FE register window as its readers see it: BOOTSTAT (R324), the resource-map image (R19 to R26), the host rings (R325), the queue state blocks (R326) and the bias table (R323). -/

namespace Sys2Proof.Machine

/-- R324: BOOTSTAT. -/
def Mach.bootStat (m : Mach) : Nat := m.bootState * 2 ^ 30 + m.bootStep * 2 ^ 24 + m.bootReason * 2 ^ 16

/-- R21: the KIND of a die id. -/
def dieKind (d : Nat) : Nat := if d < 8 then 0 else if d = 8 then 1 else 2

/-- R21: one die entry. -/
def dieBytes (d : Nat) (e : DieEnt) : List Byte :=
  let cd := d < 8
  padTo 64 (leBytes 1 d ++ leBytes 1 (dieKind d) ++ leBytes 1 e.state ++ zeros 1 ++
    (if cd then leBytes 4 e.cores ++ leBytes 2 e.slices ++ zeros 2 ++ leBytes 4 e.channels ++ leBytes 8 e.capacity ++ leBytes 4 1000
     else zeros 24) ++
    leBytes 2 e.hwver ++ zeros 2 ++ leBytes 8 e.serial ++ leBytes 8 (if cd then d * 2 ^ 36 else 0))

/-- R14: a link's endpoints. -/
def linkEnds (i : Nat) : Nat × Nat :=
  if i < 8 then (i, 9) else if i < 16 then (i - 8, 10) else if i < 24 then (i - 16, 8) else if i = 24 then (8, 9) else (8, 10)

/-- R14: a link's plane; none for a CD-FE link. -/
def linkPlane (i : Nat) : Option Nat :=
  if i < 8 then some 0 else if i < 16 then some 1 else if i = 24 then some 0 else if i = 25 then some 1 else none

/-- R14: the modules a link is built with. -/
def linkBuilt (i : Nat) : Nat := if i < 16 then 8 else 2

/-- R22: a link's bandwidth in GB/s. -/
def LinkEnt.bw (e : LinkEnt) : Nat := (List.range 8).countP (fun k => e.modmask.testBit k) * e.width * 32 / 8

/-- R22: one link entry. -/
def linkBytes (i : Nat) (e : LinkEnt) : List Byte :=
  padTo 32 (leBytes 1 i ++ leBytes 1 (linkEnds i).1 ++ leBytes 1 (linkEnds i).2 ++ leBytes 1 e.state ++ leBytes 1 (linkBuilt i) ++
    leBytes 1 e.modmask ++ leBytes 1 e.width ++ leBytes 1 ((linkPlane i).getD 0xFF) ++ leBytes 2 32 ++ leBytes 2 e.bdp ++
    leBytes 4 e.bw ++ leBytes 4 e.replays)

/-- The state of a link; 0 (lost) for one the map does not hold. -/
def ResMap.linkState (r : ResMap) (i : Nat) : Nat := match r.links[i]? with | some e => e.state | none => 0

/-- R15: the plane of a port. -/
def portPlane (p : Nat) : Nat := if p < 18 then 0 else if p < 36 then 1 else if p < 40 then 0 else 1

/-- R23: the compute dies with a live link to a plane. -/
def ResMap.cdMask (r : ResMap) (p : Nat) : Nat := ((List.range 8).filter fun d => r.linkState (8 * p + d) != 0).foldl (fun k d => k + 2 ^ d) 0

/-- R23: one plane entry. -/
def ResMap.planeBytes (r : ResMap) (p : Nat) (e : Nat × Nat) : List Byte :=
  padTo 32 (leBytes 1 p ++ leBytes 1 e.1 ++ leBytes 1 (r.cdMask p) ++ leBytes 1 (if r.linkState (24 + p) = 0 then 0 else 1) ++
    leBytes 2 e.2 ++ leBytes 2 ((r.ports.zipIdx.filter fun q => portPlane q.2 == p && q.1.state == 1).length))

/-- R24: one port entry. -/
def portBytes (p : Nat) (e : PortEnt) : List Byte :=
  padTo 32 (leBytes 1 p ++ leBytes 1 (if p < 36 then 0 else 1) ++ leBytes 1 (portPlane p) ++ leBytes 1 e.state ++ leBytes 2 800 ++
    leBytes 2 e.ver ++ leBytes 1 e.peerPkg ++ leBytes 1 e.peerPort)

/-- R26: one event-history record. -/
def eventBytes (e : MapEvent) : List Byte := leBytes 4 e.ver ++ leBytes 1 e.kind ++ leBytes 1 e.obj ++ leBytes 2 e.idx ++ leBytes 8 e.time

/-- R20: the header. -/
def ResMap.header (r : ResMap) : List Byte :=
  let tab (off n sz : Nat) : List Byte := leBytes 4 off ++ leBytes 2 n ++ leBytes 2 sz
  padTo 64 (leBytes 4 0x4D525A53 ++ leBytes 2 0 ++ leBytes 2 1 ++ leBytes 4 r.ver ++ leBytes 4 3456 ++ tab 0x40 11 64 ++
    tab 0x300 26 32 ++ tab 0x640 2 32 ++ tab 0x680 44 32 ++ leBytes 4 0xC00 ++ leBytes 2 64 ++ zeros 2 ++ leBytes 1 r.pkg ++
    leBytes 1 r.dom ++ leBytes 2 r.hist.length)

/-- R25: the power section. -/
def ResMap.power (r : ResMap) : List Byte :=
  padTo 64 (leBytes 4 r.limit ++ leBytes 4 r.rate ++ leBytes 2 r.templim ++ leBytes 2 r.cause ++ leBytes 4 r.ratemax)

def DieEnt.absent : DieEnt := { state := 0, cores := 0, slices := 0, channels := 0, hwver := 0, serial := 0 }
def LinkEnt.none_ : LinkEnt := { state := 0, modmask := 0, width := 0, replays := 0, bdp := 0 }
def PortEnt.none_ : PortEnt := { state := 0, ver := 0, peerPkg := 0xFF, peerPort := 0xFF }

/-- R19: the resource-map image, 3,456 bytes; all zero before version 1. -/
def ResMap.image (r : ResMap) : List Byte :=
  if r.ver = 0 then zeros 3456
  else
    r.header ++ (List.range 11).flatMap (fun d => dieBytes d (r.dies.getD d DieEnt.absent)) ++
      (List.range 26).flatMap (fun i => linkBytes i (r.links.getD i LinkEnt.none_)) ++
      (List.range 2).flatMap (fun p => r.planeBytes p (r.planes.getD p (0, 0))) ++
      (List.range 44).flatMap (fun p => portBytes p (r.ports.getD p PortEnt.none_)) ++ r.power ++
      padTo 256 (r.hist.flatMap eventBytes) ++ padTo 64 (leBytes 4 r.ver)

/-- R325: the 32 bytes of a ring. -/
def Ring.bytes (r : Ring) : List Byte := padTo 32 (leBytes 8 r.base ++ leBytes 4 r.logs ++ leBytes 4 r.head ++ leBytes 4 r.tail)

/-- R326: the 64 bytes of a queue state block; DOORBELL is write-only and reads 0. -/
def Queue.bytes (q : Queue) : List Byte :=
  padTo 64 (leBytes 8 q.cmdbase ++ leBytes 8 q.cplbase ++ leBytes 1 q.logs ++ leBytes 1 q.ctx ++ leBytes 1 (if q.enable then 1 else 0) ++
    leBytes 1 q.ver ++ zeros 4 ++ leBytes 4 q.nextexp ++ leBytes 4 q.lastacc ++ leBytes 4 q.lastcomp ++ leBytes 4 q.lasterr ++
    leBytes 2 q.errstat ++ zeros 2 ++ leBytes 4 q.cplhead)

/-- R323: a byte of the bias table. -/
def Mach.biasByte (m : Mach) (i : Nat) : Byte :=
  BitVec.ofNat 8 (((List.range 8).filter fun k => m.bias.contains (8 * i + k)).foldl (fun s k => s + 2 ^ k) 0)

/-- R27: the map image as a reader sees it: the trailer copy of MAPVER changes first, then the body, then the header MAPVER. -/
def Mach.imageByte (m : Mach) (i : Nat) : Byte :=
  if m.rmap.ver = 0 then 0
  else if 8 ≤ i ∧ i < 12 then (leBytes 4 m.pubVer).getD (i - 8) 0
  else if 3392 ≤ i ∧ i < 3396 then (leBytes 4 m.rmap.ver).getD (i - 3392) 0
  else m.pubBody.image.getD i 0

/-- R322: the byte the host reads at an offset of the window. -/
def Mach.windowByte (m : Mach) (off : Nat) : Byte :=
  if off < 4 then (leBytes 4 m.bootStat).getD off 0
  else if 0x1000 ≤ off ∧ off < 0x2000 then m.imageByte (off - 0x1000)
  else if 0x2000 ≤ off ∧ off < 0x2060 then (m.rings.getD ((off - 0x2000) / 32) Ring.empty).bytes.getD (off % 32) 0
  else if 0x10000 ≤ off ∧ off < 0x14000 then (m.queues.getD ((off - 0x10000) / 64) Queue.empty).bytes.getD (off % 64) 0
  else if 0x100000 ≤ off ∧ off < 0x200000 then m.biasByte (off - 0x100000)
  else 0

/-- R152: where the register window stands in a package's physical addresses. -/
def mmioBase : Nat := 0x010000000000

/-- R152: is a key of a package in the register window. -/
def isMmio (key : Nat) : Bool := decide (mmioBase ≤ keyPa key ∧ keyPa key < mmioBase + 2 ^ 32)

/-- R152, R156, R323: the byte the home of a key holds. A program cannot address the bias table and reads 0 there. -/
def Mach.homeByte (m : Mach) (key : Nat) : Byte :=
  if isMmio key then
    (let off := keyPa key - mmioBase
     if 0x100000 ≤ off ∧ off < 0x200000 then 0 else m.windowByte off)
  else m.memByte key

end Sys2Proof.Machine
end

