-- ==== Sys2Proof/Machine/Mem.lean ====
section
/-! DEFINITION. The block store buffer (R178 to R183), what lands in memory and how poison answers it (R315), the operations a block puts on its channels (R200 to R204, R446), and how an outstanding access performs (R177, R184, R380). -/

namespace Sys2Proof.Machine

/-- Does a list of bytes cover a whole sector. -/
def coversSector (s : Nat) (cs : List Host.Cell) : Bool := (List.range 128).all fun i => cs.any fun c => plainKey c.1 == s * 128 + i

/-- R53, R231: a store to, or an invalidation of, sectors is seen by the paths that watch one, and drops poisoned L1 copies of them. -/
def Mach.observeIf (m : Mach) (p : Nat → Bool) : Mach :=
  let hit (l : Lane) : Lane :=
    match l.run with
    | .watching t ss w => { l with run := .watching t ss (w || ss.any p) }
    | _ => l
  { m with blocks := m.blocks.map (fun b => { b with warps := b.warps.map fun w => { w with lanes := w.lanes.map hit } }),
           l1Bad := m.l1Bad.filter fun q => !p q.2 }

/-- R53: a store to, or an invalidation of, a sector is seen by the paths that watch it. -/
def Mach.observe (m : Mach) (s : Nat) : Mach := m.observeIf fun x => x == s

/-- R53: a store that enters a block's buffer is seen by the cores of the block: the paths on them that watch its sector. -/
def Mach.observeOn (m : Mach) (b : Block) (s : Nat) : Mach :=
  let cores := b.sides.map fun x => x.core
  let hit (l : Lane) : Lane :=
    match l.run with
    | .watching t ss w => { l with run := .watching t ss (w || ss.contains s) }
    | _ => l
  { m with blocks := m.blocks.map fun x =>
      { x with warps := x.warps.map fun w => if cores.contains (x.side w.side).core then { w with lanes := w.lanes.map hit } else w } }

/-- R162: an invalidation writes back the dirty stash sectors it meets: their home bytes are no longer kept. -/
def Mach.dropUndoIf (m : Mach) (p : Nat → Bool) : Mach :=
  { m with blocks := m.blocks.map fun b => { b with maps := b.maps.map fun q => { q with undo := q.undo.filter fun c => !p (sectorOf c.1) } } }

/-- R162: an invalidation of a sector's line. -/
def Mach.dropUndo (m : Mach) (s : Nat) : Mach := m.dropUndoIf fun x => x / 8 == s / 8

/-- R87: the place the Cellar slot at a virtual address is mapped to now. -/
def Mach.slotKey (m : Mach) (ctx va : Nat) : Option Nat :=
  match m.translate ctx va { r := false, w := true, x := false } with
  | .ok k _ _ _ => some k
  | _ => none

/-- R87: does a byte lie in the 512-byte slot at a key. -/
def inSlot (slot key : Nat) : Bool := plainKey slot ≤ plainKey key && decide (plainKey key < plainKey slot + 512)

/-- R87: bytes that land in the Cellar slot of a spilled frame leave the lane's registers unspecified after the fill. -/
def Mach.clobber (m : Mach) (cs : List Host.Cell) : Mach :=
  let hit (ctx : Nat) (f : Frame) : Mask :=
    f.slots.foldl (fun k p => if (m.slotKey ctx p.2).any (fun s => cs.any fun c => inSlot s c.1) then k ||| bit p.1 else k) 0
  { m with blocks := m.blocks.map fun b => { b with warps := b.warps.map fun w =>
      { w with frames := w.frames.map fun f => { f with clob := f.clob ||| hit b.ctx f } } } }

/-- R315: bytes of one sector land in memory. A whole sector clears poison; a partial write into a poisoned sector is discarded; answers whether it was. -/
def Mach.land (m : Mach) (s : Nat) (cs : List Host.Cell) : Mach × Bool :=
  if m.poison.contains s && !coversSector s cs then (m, true)
  else
    let m1 := { m.putCells cs with poison := m.poison.filter fun x => x != s }
    (((m1.dropUndo s).clobber cs).observe s, false)

/-- Mark a sector poisoned (R315). -/
def Mach.addPoison (m : Mach) (s : Nat) : Mach :=
  if m.poison.contains s then m else { m with poison := s :: m.poison }

/-- Is a sector homed on the block's own die (R153). -/
def Mach.onDie (m : Mach) (b : Block) (key : Nat) : Bool := homeOf key == (m.rmap.pkg, b.die)

/-- R178: put bytes of one sector into the buffer: merge with the unreleased entry of the sector, or a new entry. -/
def Block.sbPut (b : Block) (s va : Nat) (cs : List Host.Cell) : Block :=
  let hit (e : SbEnt) : Bool := e.sector == s && !e.released && !e.tst
  if b.sb.any hit then
    { b with sb := modWhere b.sb hit fun e => { e with cells := e.cells.filter (fun c => !cs.any fun d => d.1 == c.1) ++ cs } }
  else { b with sb := b.sb ++ [{ seq := b.sbSeq, sector := s, va := va, cells := cs, released := false, tst := false, own := none }], sbSeq := b.sbSeq + 1 }

/-- R178: the buffer's occupancy in bytes. -/
def Block.occupancy (b : Block) : Nat := 128 * (b.sb.filter fun e => !e.tst).length

/-- R169: the pieces of a range that lie in one 64 KiB page each, as (va, length); n bounds the pieces. -/
def pagePieces (va len : Nat) : Nat → List (Nat × Nat)
  | 0 => []
  | n + 1 =>
    if len = 0 then []
    else
      let k := min len (65536 - va % 65536)
      (va, k) :: pagePieces (va + k) (len - k) n

/-- R205: the destinations a queued entry names: those of the segments a bulk copy has still to send, as its pages are mapped now. -/
def Mach.entDests (m : Mach) (b : Block) (x : ChEnt) : List (Nat × Nat) :=
  match x.op with
  | .cpyr _ dst len done _ _ =>
    ((pagePieces (dst + done) (len - done) (len / 65536 + 2)).filterMap fun p =>
      match m.translate b.ctx p.1 { r := false, w := true, x := false } with | .ok k _ _ _ => some (homeOf k) | _ => none).eraseDups
  | .join _ _ => []
  | _ => [(x.dpkg, x.ddie)]

/-- R205: does a queued entry name a destination. -/
def Mach.names (m : Mach) (b : Block) (x : ChEnt) (d : Nat × Nat) : Bool := (m.entDests b x).contains d

/-- R205, R207: the destination of the packet an entry sends next. -/
def Mach.nextDest (m : Mach) (b : Block) (x : ChEnt) : Nat × Nat := (m.entDests b x).headD (x.dpkg, x.ddie)

/-- R210: how many operations the block has enqueued on all its channels. -/
def Block.issueOrd (b : Block) : Nat := (b.chans.map fun c => c.issued).sum

/-- R203: append an entry to a channel's queue; `src` names the store-buffer entry it was released from. -/
def Block.enqueueFrom (b : Block) (ch : Nat) (dest : Nat × Nat) (op : ChOp) (hold : Option Nat) (waits : List Nat) (src : Option Nat) (rel : Bool := false) : Block :=
  b.updChan ch fun c =>
    { c with
      queue := c.queue ++ [{ ord := b.issueOrd, first := c.issued + 1, last := c.issued + 1, dpkg := dest.1, ddie := dest.2, op := op, hold := hold, waits := waits, src := src, rel := rel }],
      issued := c.issued + 1 }

/-- R203: append an entry to a channel's queue. -/
def Block.enqueue (b : Block) (ch : Nat) (dest : Nat × Nat) (op : ChOp) (hold : Option Nat) (waits : List Nat) : Block :=
  b.enqueueFrom ch dest op hold waits none

/-- R204, R406: the index of the entry a store to a sector and destination merges into, scanning from the newest entry: the newest store entry or none; `names` tells which entries name the destination. -/
def mergeIdx (names : ChEnt → Bool) (s : Nat) (dest : Nat × Nat) : List (ChEnt × Nat) → Option Nat
  | [] => none
  | (e, i) :: rest =>
    match e.op with
    | .join _ _ => none
    | .store s' _ _ => if (e.dpkg, e.ddie) = dest ∧ s' = s then some i else none
    | _ => if names e then none else mergeIdx names s dest rest

/-- R322: the bytes a store of one lane writes: none where the register window takes no access of that size. -/
def storeCells (key : Nat) (bs : List Byte) : List Host.Cell :=
  if isMmio key && bs.length != 4 && bs.length != 8 then [] else cellsFrom key bs

/-- R204, R406: enqueue a channel store, merging where it may. -/
def Block.enqueueStore (b : Block) (names : ChEnt → Nat × Nat → Bool) (ch clock key va : Nat) (bs : List Byte) : Block :=
  let s := sectorOf key
  let dest := homeOf key
  let cs := storeCells key bs
  match mergeIdx (names · dest) s dest (b.chan ch).queue.zipIdx.reverse with
  | some i =>
    b.updChan ch fun c =>
      { c with
        queue := modAt c.queue i fun e =>
          { e with last := c.issued + 1,
                   op := match e.op with
                     | .store s va old => .store s va (old.filter (fun x => !cs.any fun d => d.1 == x.1) ++ cs)
                     | o => o },
        issued := c.issued + 1 }
  | none => b.enqueue ch dest (.store s (va - key % 128) cs) (some (clock + 32)) []

/-- R446: released entries homed off the die, off-die sectors of a TST and the off-die operations of an ST.rel or ATOM move to ch0 in entry order while it has room; n bounds the entries tried. -/
def Block.ch0Flush (b : Block) (pkg clock : Nat) : Nat → Block
  | 0 => b
  | n + 1 =>
    let off (e : SbEnt) : Bool := (e.released || e.tst) && homeOf (e.sector * 128) != (pkg, b.die)
    match b.sb.find? off with
    | none => b
    | some e =>
      if (b.chan 0).queue.length < 64 then
        let b1 : Block := { b with sb := b.sb.filter fun x => x.seq != e.seq }
        let op := (e.own.map Prod.fst).getD (.store e.sector e.va e.cells)
        let hold := match op with | .store .. => some (clock + 32) | _ => none
        Block.ch0Flush (b1.enqueueFrom 0 (homeOf (e.sector * 128)) op hold ((e.own.map Prod.snd).getD []) (some e.seq) (e.released && !e.tst)) pkg clock n
      else b

/-- R180, R181, R311: release the whole buffer; a buffer that holds an entry seals the block. -/
def Block.release (b : Block) (pkg clock : Nat) : Block :=
  if b.sb.all fun e => e.released || e.tst then b
  else
    let b1 : Block := { b with sb := b.sb.map fun e => { e with released := true }, sealed := true }
    b1.ch0Flush pkg clock b1.sb.length

/-- R180: release one entry (before an ATOM or TST to its sector). -/
def Block.releaseOne (b : Block) (pkg clock s : Nat) : Block :=
  if b.sb.any fun e => e.sector == s && !e.released && !e.tst then
    let b1 : Block := { b with sb := b.sb.map fun e => if e.sector == s then { e with released := true } else e, sealed := true }
    b1.ch0Flush pkg clock b1.sb.length
  else b

/-- The released entries of the block's own die that are not yet visible (R181). -/
def Mach.unseen (m : Mach) (b : Block) : List Nat :=
  (b.sb.filter fun e => e.released && !e.tst && m.onDie b (e.sector * 128)).map fun e => e.seq

/-- R181, R185: what a release still has to wait for on the block's die: released entries to become visible, and earlier ST.rel stores to perform. -/
def Mach.unperformed (m : Mach) (b : Block) : List Nat := m.unseen b ++ b.rels.map fun r => r.seq

/-- Do released entries or ST.rel stores named in a wait list still wait. -/
def Block.waitsOn (b : Block) (ws : List Nat) : Bool := (b.sb.any fun e => ws.contains e.seq) || b.rels.any fun r => ws.contains r.seq

/-- R185: lanes at a fence go on once the entries it released are visible. -/
def Block.fenceWake (b : Block) : Block :=
  let go (l : Lane) : Lane := match l.run with | .fence ws => if b.waitsOn ws then l else { l with run := .ready } | _ => l
  { b with warps := b.warps.map fun w => { w with lanes := w.lanes.map go } }

/-- R162: the mapping of the block that holds a virtual address. -/
def Block.mapAt (b : Block) (va : Nat) : Option StashMap := b.maps.find? fun p => p.base ≤ va && va < p.base + p.len

/-- R319, R320: an error record for a block. -/
def Mach.blockLog (b : Block) (cause sub flags : Nat) (warp : Option Nat) (va pa : Option Nat) (pc : Option PC) (detail : Nat) : LogInfo :=
  { cause := cause, sub := sub, die := b.die, ctx := some b.ctx, core := some ((b.side (match warp.bind b.warp? with | some w => w.side | none => 0)).core % 20), warp := warp,
    flags := flags + (if b.sealed then 16 else 0), rolls := some b.rolls, va := va, pa := pa, pc := pc, grid := some b.grid, detail := detail }

/-- R162, R315: bytes of one sector of a block land: a partial write into a poisoned sector is discarded and logged, and bytes of a stash mapping keep their home's value for a kill. -/
def Mach.landFor (m : Mach) (b : Block) (s va : Nat) (cs : List Host.Cell) : Mach :=
  let old := cs.map fun c => (c.1, m.memByte c.1)
  let kept := match ((m.block? b.id).getD b).mapAt va with | some p => p.undo | none => []
  let r := m.land s cs
  if r.2 then r.1.log (Mach.blockLog b 0x0F 3 0 none (some va) (some (keyPa (s * 128))) none 0) none
  else
    match b.mapAt va with
    | none => r.1
    | some p =>
      r.1.updBlock b.id fun b =>
        { b with maps := b.maps.map fun q =>
            if q.base == p.base then { q with undo := kept ++ old.filter fun c => !kept.any fun d => d.1 == c.1 } else q }

/-- R181: a released on-die entry becomes visible at die scope, after older stores of the block to its sector (R177); a partial write into a poisoned sector is discarded and logged (R315), and bytes of a stash mapping keep their home's value for a kill (R162). -/
def Mach.makeVisible (m : Mach) (id seq : Nat) : Mach :=
  match m.block? id with
  | none => m
  | some b =>
    let first (e : SbEnt) : Bool :=
      !(b.sb.any fun x => x.sector == e.sector && x.seq < e.seq) &&
        !(b.rels.any fun r => r.seq < e.seq && r.cells.any fun c => sectorOf c.1 == e.sector)
    match b.sb.find? fun e => e.seq == seq && e.released && !e.tst && m.onDie b (e.sector * 128) && first e with
    | none => m
    | some e =>
      let m0 := m.updBlock id fun b => Block.fenceWake { b with sb := b.sb.filter fun x => x.seq != seq }
      m0.landFor b e.sector e.va e.cells

/-- R181: perform the ST.rel stores of a block whose released entries are all visible. -/
def Mach.runRels (m : Mach) (id : Nat) : Mach :=
  match m.block? id with
  | none => m
  | some b =>
    let go := b.rels.filter fun r => !b.waitsOn r.waits
    let one (m : Mach) (r : RelStore) : Mach :=
      match r.cells with
      | [] => m
      | c :: _ => m.landFor b (sectorOf c.1) r.va r.cells
    let m1 := go.foldl one m
    m1.updBlock id fun b => Block.fenceWake { b with rels := b.rels.filter fun r => b.waitsOn r.waits, sealed := b.sealed || !go.isEmpty }

/-- R181: the released entries of a block's die become visible and its ST.rel stores perform, round by round; n bounds the rounds. -/
def Mach.settleDie (m : Mach) (id : Nat) : Nat → Mach
  | 0 => m
  | n + 1 =>
    match m.block? id with
    | none => m
    | some b => Mach.settleDie (((m.unseen b).foldl (fun m s => m.makeVisible id s) m).runRels id) id n

/-- R181: everything a block has released on its die is visible now. -/
def Mach.allVisible (m : Mach) (id : Nat) : Mach := m.settleDie id (match m.block? id with | some b => b.rels.length + 1 | none => 0)

/-- R182: a store that would pass the quota first releases the block; its on-die entries then become visible. -/
def Mach.makeRoom (m : Mach) (id : Nat) : Mach :=
  match m.block? id with
  | none => m
  | some b =>
    if b.occupancy + 128 ≤ b.quota * 1024 then m
    else
      Mach.allVisible (m.updBlock id fun b => b.release m.rmap.pkg m.clock) id

/-- R87: a software write into the Cellar slot of a spilled frame leaves its registers unspecified after the fill. -/
def Mach.markClob (m : Mach) (b : Block) (va n : Nat) : Mach :=
  match m.ctx? b.ctx with
  | none => m
  | some c =>
    let per := 2048 * c.lsize
    if c.lsize = 0 || va < c.locbase + b.lslot * per || c.locbase + (b.lslot + 1) * per ≤ va then m
    else
      let off := va - (c.locbase + b.lslot * per)
      let t := off / c.lsize
      let o := off % c.lsize
      if o + n ≤ 0x400 || 0x8600 ≤ o then m
      else
        let lvl := (o - 0x400) / 512
        m.updWarp b.id (t / b.width) fun w =>
          { w with frames := modWhere w.frames (fun f => f.level == lvl && f.slots.any fun p => p.1 == t % b.width) fun f => { f with clob := f.clob ||| bit (t % b.width) } }

/-- R182: does a sector of a block's store have its entry, or the quota room for one. -/
def Mach.roomFor (m : Mach) (id s : Nat) : Bool :=
  match m.block? id with
  | none => false
  | some b => (b.sb.any fun e => e.sector == s && !e.released && !e.tst) || decide (b.occupancy + 128 ≤ b.quota * 1024)

/-- R178, R182: bytes of a store enter the issuing block's buffer, sector by sector (an aligned access lies in one). -/
def Mach.bufferStore (m : Mach) (id va key : Nat) (bs : List Byte) : Mach :=
  let s := sectorOf key
  match m.block? id with
  | none => m
  | some b =>
    let m1 := if b.sb.any fun e => e.sector == s && !e.released && !e.tst then m else m.makeRoom id
    ((m1.updBlock id fun b => b.sbPut s (va - key % 128) (storeCells key bs)).observeOn b s).markClob b va bs.length

/-- The byte a list of cells holds for a key. -/
def cellAt (key : Nat) (cs : List Host.Cell) : Option Byte := (cs.find? fun c => c.1 == key).map Prod.snd

/-- R179: the newest byte the block's buffer, or a ST.rel of it still to perform, holds for a key. -/
def Block.held (b : Block) (key : Nat) : Option Byte :=
  let es := (b.sb.filterMap fun e => (cellAt key e.cells).map fun v => (e.seq, v)) ++
    b.rels.filterMap fun r => (cellAt key r.cells).map fun v => (r.seq, v)
  (bestBy (fun p => p.1) es.reverse).map Prod.snd

/-- R177, R179: the newest byte the block's own buffer, or its ch0 queue, holds for a key; a load waits for what ch0 has sent (`Mach.inFlight`). -/
def Mach.forward (_m : Mach) (b : Block) (key : Nat) : Option Byte :=
  let inOp (o : ChOp) : Option Byte :=
    match o with
    | .store _ _ cs => cellAt key cs
    | _ => none
  (b.held key).orElse fun _ => (b.chan 0).queue.reverse.findSome? fun e => inOp e.op

/-- Does a channel operation, a store or an atomic, write a byte of the n bytes at a key. -/
def ChOp.storesIn (key n : Nat) (o : ChOp) : Bool :=
  match o with
  | .store _ _ cs => cs.any fun c => key ≤ c.1 && decide (c.1 < key + n)
  | .atom op k _ _ _ _ _ => decide (key < k + (if op = 1 ∨ op = 3 ∨ op = 13 then 8 else 4) ∧ k < key + n)
  | _ => false

/-- R177, R181: what a store-buffer entry will write, as it goes on ch0 or home. -/
def SbEnt.op (e : SbEnt) : ChOp := (e.own.map Prod.fst).getD (.store e.sector e.va e.cells)

/-- R177, R181, R187: is a store that another block of the die released to a byte of another die, or an atomic of it, still on its way, or one the block's own ch0 has sent. -/
def Mach.inFlight (m : Mach) (b : Block) (key n : Nat) : Bool :=
  if m.onDie b key then false
  else
    (m.blocks.any fun x => x.id != b.id && x.die == b.die &&
      (x.sb.any (fun e => (e.released || e.tst) && e.op.storesIn key n) ||
        (x.chan 0).queue.any fun e => e.op.storesIn key n)) ||
      m.retain.any fun p => (p.blk == b.id || p.strm.die == b.die) && p.strm.ch == 0 && p.op.storesIn key n

/-- R187: does an access read a byte of such a store. -/
def Mach.accInFlight (m : Mach) (b : Block) (a : Access) : Bool :=
  match a.loc with
  | .glob k => m.inFlight b k a.size
  | .shared _ => false

/-- R380: the byte a load of the block reads at a key. -/
def Mach.readByte (m : Mach) (b : Block) (key : Nat) : Byte :=
  match m.forward b key with
  | some v => v
  | none => m.homeByte key

/-- R210: the newest unsent channel store, in the block's issue order, that holds a byte: its channel, first number and the byte. -/
def Block.unsent (b : Block) (key : Nat) : Option (Nat × Nat × Byte) :=
  let es := b.chans.zipIdx.flatMap fun c => c.1.queue.filterMap fun e =>
    match e.op with
    | .store _ _ cs => (cellAt key cs).map fun v => (e.ord, c.2, e.first, v)
    | _ => none
  (bestBy (fun p => p.1) es).map Prod.snd

/-- R210: the byte an RLD reads once no unsent channel store concerns it: the block's buffer over the home. -/
def Mach.rldByte (m : Mach) (b : Block) (key : Nat) : Byte :=
  match b.held key with
  | some v => v
  | none => m.homeByte key

/-- R378: the registers a load of size code z writes from its bytes. -/
def placeBytes (z : Nat) (bs : List Byte) : List Word :=
  let v := leNat bs
  if z = 5 then [BitVec.ofNat 32 (wrap 32 (signed 8 v))]
  else if z = 6 then [BitVec.ofNat 32 (wrap 32 (signed 16 v))]
  else if z = 3 then [BitVec.ofNat 32 v, BitVec.ofNat 32 (v / 2 ^ 32)]
  else if z = 4 then (List.range 4).map fun i => BitVec.ofNat 32 (v / 2 ^ (32 * i))
  else [BitVec.ofNat 32 v]

/-- R377: the size in bytes of a size code. -/
def sizeOf (z : Nat) : Nat := if z = 5 then 1 else if z = 6 then 2 else 2 ^ min z 4

/-- R210, R322, R380: the bytes of an access as the block reads them; `direct` is an RLD. -/
def Mach.readAccess (m : Mach) (b : Block) (direct : Bool) (a : Access) : List Byte :=
  match a.loc with
  | .glob k =>
    if !a.ops.isEmpty then a.ops.map fun w => w.setWidth 8
    else if isMmio k && a.size != 4 && a.size != 8 then (List.range a.size).map fun i => Config.errByte m.clock (k + i)
    else (List.range a.size).map fun i => if direct then m.rldByte b (k + i) else m.readByte b (k + i)
  | .shared o => b.shared.bytes o a.size

/-- R231, R315: is a sector poisoned as a block reads it: in memory, or in an L1 of its cores. -/
def Mach.badFor (m : Mach) (b : Block) (s : Nat) : Bool := m.poison.contains s || b.sides.any fun x => m.l1Bad.contains (x.core, s)

/-- R315, R403: does an access meet poison that its block's own buffer does not cover; an RLD (`direct`) passes the L1 by, and ch0 hides nothing of the home from it. -/
def Mach.poisonedAt (m : Mach) (b : Block) (direct : Bool) (a : Access) : Bool :=
  match a.loc with
  | .glob k =>
    if !a.ops.isEmpty then false
    else if direct then m.poison.contains (sectorOf k) && (List.range a.size).any fun i => (b.held (k + i)).isNone
    else m.badFor b (sectorOf k) && (List.range a.size).any fun i => (m.forward b (k + i)).isNone
  | .shared _ => false

/-- One result per destination register from per-lane words; U when one access served every lane (LD.u). -/
def resVals (W n : Nat) (uni : Bool) (rs : List (Nat × List Word)) : List RVal :=
  (List.range n).map fun i =>
    if uni then .u ((match rs with | r :: _ => r.2.getD i 0 | [] => 0))
    else RVal.lanes W fun l => match rs.find? (fun r => r.1 == l) with | some r => r.2.getD i 0 | none => 0

end Sys2Proof.Machine
end

