-- ==== Sys2Proof/Machine/Perform.lean ====
section
/-! DEFINITION. How the result of a long word arrives (R105): loads and atomics perform (R177, R339, R380), sampled registers are read (R352), and the order a thread's own accesses keep (R177, R185). -/

namespace Sys2Proof.Machine

/-- Fill an entry: its values, and a fault found with them. -/
def Mach.fillWith (m : Mach) (id w seq : Nat) (f : Entry → Entry) : Mach :=
  m.updWarp id w fun x => Warp.queued { x with rb := modWhere x.rb (fun e => e.seq == seq) fun e => { f e with done := true } }

/-- R110, R315: the fault of an entry whose lanes read poison. -/
def poisonFault (lanes : Mask) (a : Access) : CFault :=
  { lanes := lanes, cause := 0x0F, sub := 1, va := some a.va, pa := (match a.loc with | .glob k => some (keyPa k) | .shared _ => none), detail := 0 }

/-- R53, R379: the raw bytes of a load as words, for its poll record. -/
def rawWords (bs : List Byte) : List Word := (List.range ((bs.length + 3) / 4)).map fun i => BitVec.ofNat 32 (leNat bs / 2 ^ (32 * i))

/-- R379, R381, R403: a load performs: each lane reads its bytes now, those of another package as an RLD's (R154). -/
def Mach.fillLoad (m : Mach) (b : Block) (w : Nat) (e : Entry) (ext : Nat) (uni poll : Bool) (accs : List Access) : Mach :=
  let direct (a : Access) : Bool := opOf e.word == 0x60 || match a.loc with | .glob k => keyPkg k != m.rmap.pkg | .shared _ => false
  let rs := accs.map fun a => (a.lane, placeBytes ext (m.readAccess b (direct a) a))
  let bad := accs.filter fun a => m.poisonedAt b (direct a) a
  let lanes : Mask := if uni then e.exec else bad.foldl (fun k a => k ||| bit a.lane) 0
  m.fillWith b.id w e.seq fun e =>
    { e with
      vals := resVals b.width e.dests.length uni rs,
      polls := if poll then accs.map fun a => (a.lane, { va := a.va, size := a.size, vals := rawWords (m.readAccess b (direct a) a) }) else [],
      fault := match bad with | [] => none | a :: _ => some (poisonFault lanes a) }

/-- R338: an atomic's operands as values of its width: first operand and, for a compare, the new value. -/
def atomOperands (op : Nat) (ops : List Word) : Nat × Nat :=
  let w (i : Nat) : Nat := (ops.getD i 0).toNat
  if op = 1 || op = 3 then (w 0 + 2 ^ 32 * w 1, 0)
  else if op = 13 then (w 0 + 2 ^ 32 * w 1, w 2 + 2 ^ 32 * w 3)
  else (w 0, w 1)

/-- R339: one lane's step at a key. DESIGN CHOICE (log entry 99): an on-die ATOM to a range its block has stash-mapped performs at the home, and so writes the sector back (R162 does not say where it performs): the old value and the memory after it; none when the sector is poisoned. -/
def Mach.atomStep (m : Mach) (op size key : Nat) (ops : List Word) : Option (Nat × Mach) :=
  if m.poison.contains (sectorOf key) then none
  else
    let old := leNat (m.memBytes key size)
    let p := atomOperands op ops
    if atomFails op old p.1 then some (old, m)
    else some (old, (m.land (sectorOf key) (cellsFrom key (leBytes size (atomNew op old p.1 p.2)))).1)

/-- The words of an old value. -/
def oldWords (size old : Nat) : List Word :=
  if size = 8 then [BitVec.ofNat 32 old, BitVec.ofNat 32 (old / 2 ^ 32)] else [BitVec.ofNat 32 old]

/-- R339 over the lanes in increasing order; the state threads the memory, the results and the failed compares. -/
def Mach.atomLanes (op : Nat) : List Access → Mach → List (Nat × List Word) → Mask → List Access → Mach × List (Nat × List Word) × Mask × List Access
  | [], m, rs, failed, bad => (m, rs, failed, bad)
  | a :: as, m, rs, failed, bad =>
    match a.loc with
    | .shared _ => Mach.atomLanes op as m rs failed bad
    | .glob k =>
      match m.atomStep op a.size k a.ops with
      | none => Mach.atomLanes op as m rs failed (bad ++ [a])
      | some (old, m') =>
        let fl := if atomFails op old (atomOperands op a.ops).1 then failed ||| bit a.lane else failed
        Mach.atomLanes op as m' (rs ++ [(a.lane, oldWords a.size old)]) fl bad

/-- R183, R339: an ATOM of the issuing die performs; a released entry of its sector lands first; performing seals the block (R311). -/
def Mach.fillAtom (m : Mach) (b : Block) (w : Nat) (e : Entry) (op : Nat) (accs : List Access) : Mach :=
  let secs := accs.filterMap fun a => match a.loc with | .glob k => some (sectorOf k) | .shared _ => none
  let first := (b.sb.filter fun x => x.released && secs.contains x.sector).map fun x => x.seq
  let m1 := (first.foldl (fun m s => m.makeVisible b.id s) m).runRels b.id
  let r := Mach.atomLanes op accs m1 [] 0 []
  let m2 := r.1.updBlock b.id fun b => { b with sealed := true }
  m2.fillWith b.id w e.seq fun e =>
    { e with
      vals := resVals b.width e.dests.length false r.2.1,
      fail := r.2.2.1,
      fault := match r.2.2.2 with
        | [] => none
        | a :: _ => some (poisonFault (r.2.2.2.foldl (fun k a => k ||| bit a.lane) 0) a) }

/-- The bytes an entry's lane accesses, as key ranges. -/
def Entry.accs (e : Entry) : List Access :=
  match e.pend with
  | .load _ _ _ as _ => as
  | .atom _ as => as
  | .chan _ as => as
  | _ => []

/-- Do two accesses share a byte. -/
def Access.overlaps (a b : Access) : Bool :=
  match a.loc, b.loc with
  | .glob x, .glob y => decide (x < y + b.size ∧ y < x + a.size)
  | .shared x, .shared y => decide (x < y + b.size ∧ y < x + a.size)
  | _, _ => false

/-- R177, R185: must an older entry perform before accesses of the lanes of a later one. -/
def Entry.before (x : Entry) (lanes : Mask) (as : List Access) : Bool :=
  !x.done && ((x.acq && (x.exec &&& lanes) != 0) || x.accs.any fun a => as.any fun b => a.lane == b.lane && a.overlaps b)

/-- The unfilled entries that must perform before a given set, oldest first; `rest` is listed newest first. -/
def chainOf (rest : List Entry) (got : List Entry) : List Entry :=
  match rest with
  | [] => got
  | x :: xs => if got.any fun g => x.before g.exec g.accs then chainOf xs (x :: got) else chainOf xs got

/-- R203, R215: is the operation with a number acknowledged: neither queued nor sent and outstanding. -/
def Chan.ackedOp (c : Chan) (n : Nat) : Bool :=
  !(c.queue.any fun q => q.first ≤ n && n ≤ q.last) && !(c.sent.any fun s => s.first == n)

/-- R208: are all operations numbered `upto` or below acknowledged. -/
def Chan.ackedUpto (c : Chan) (upto : Nat) : Bool :=
  !(c.queue.any fun q => q.first ≤ upto) && !(c.sent.any fun s => s.first ≤ upto)

/-- R189: is a lane of an entry waiting at BAR; the accesses before the BAR have performed, so the entry's come after it. -/
def Warp.atBar (w : Warp) (e : Entry) : Bool := (lanesOf e.exec).any fun l => (w.lane l).run == .bar

/-- Can an entry perform now by itself; a load waits for what other blocks of the die released to its bytes on other dies (R187), and what comes after a BAR waits for it (R189). -/
def Entry.performable (m : Mach) (e : Entry) (b : Block) (w : Warp) : Bool :=
  !w.atBar e &&
  match e.pend with
  | .load _ _ _ accs waits => (waits.all fun p => (b.chan p.1).ackedOp p.2) && !accs.any (m.accInFlight b)
  | .atom _ accs =>
    !b.waitsOn e.waits && !(b.rels.any fun r => r.cells.any fun c => accs.any fun a =>
      match a.loc with | .glob k => sectorOf k == sectorOf c.1 | .shared _ => false)
  | .tfirst _ => true
  | _ => false

/-- R167, R418: TFIRST's answer: the lowest ready tag of the mask, or -1; a latched copy error is delivered at its commit (R168). -/
def tfirstOf (b : Block) (mask : Nat) : Word × Option (Nat × Nat) :=
  match (List.range 64).find? fun i => mask.testBit i && b.ready.getLsbD i with
  | some i => (BitVec.ofNat 32 i, b.tagErr.find? fun e => e.1 == i)
  | none => (fullBits, none)

/-- R167, R168: a TFIRST samples the tags; it takes the error it will deliver. -/
def Mach.fillTfirst (m : Mach) (b : Block) (w : Nat) (e : Entry) (mask : Nat) : Mach :=
  let r := tfirstOf b mask
  let m1 := m.updBlock b.id fun b => { b with tagErr := match r.2 with | some q => b.tagErr.filter (fun t => t != q) | none => b.tagErr }
  m1.fillWith b.id w e.seq fun e =>
    { e with vals := [.u r.1], fault := r.2.map fun q => { lanes := e.exec, cause := 0x0F, sub := 2, va := none, pa := some q.2, detail := 0 } }

/-- Perform one load, atomic or TFIRST. -/
def Mach.performOne (m : Mach) (id w : Nat) (e : Entry) : Mach :=
  match m.block? id with
  | none => m
  | some b =>
    match e.pend with
    | .load ext uni poll accs _ => m.fillLoad b w e ext uni poll accs
    | .atom op accs => m.fillAtom b w e op accs
    | .tfirst mask => m.fillTfirst b w e mask
    | _ => m

/-- R177, R184: perform an entry, after the older ones of its lanes that must come first; nothing happens while one of them cannot. -/
def Mach.performSeq (m : Mach) (id w seq : Nat) : Mach :=
  match m.block? id, m.warp? id w with
  | some b, some x =>
    (match x.rb.find? fun e => e.seq == seq && !e.done with
     | none => m
     | some e =>
       let ch := chainOf ((x.rb.filter fun y => y.seq < seq).reverse) [e]
       if ch.all fun y => y.performable m b x then ch.foldl (fun m y => m.performOne id w y) m else m)
  | _, _ => m

/-- Does an entry wait for the answers of channel operations. -/
def Entry.onChan (e : Entry) : Bool := match e.pend with | .chan _ _ => true | _ => false

/-- R177, R185: before a later access of some lanes issues, perform what of the warp must come first; answers false when something cannot yet. Channel operations of the group at hand, numbered `start` or above, are only enqueued as the group issues, and nothing of the group waits for their answers. -/
def Mach.settle (m : Mach) (id w start : Nat) (lanes : Mask) (as : List Access) : Mach × Bool :=
  match m.warp? id w with
  | none => (m, true)
  | some x =>
    let first (e : Entry) : Bool := e.before lanes as && !(e.onChan && decide (start ≤ e.seq))
    let m1 := (x.rb.filter first).foldl (fun m e => m.performSeq id w e.seq) m
    (m1, match m1.warp? id w with | some y => !(y.rb.any first) | none => true)

/-- R105: is an entry a load, an on-die atomic or a TFIRST that has not performed. -/
def Entry.unperformed (e : Entry) : Bool :=
  !e.done && (match e.pend with | .load .. => true | .atom .. => true | .tfirst _ => true | _ => false)

/-- R185, R189, R191: perform every earlier access of the lanes that can perform, TFIRSTs among them (ST.rel, release atomics, fences, BAR, EXIT); false when one cannot yet. Channel operations are not waited for (R202, R367). -/
def Mach.settleAll (m : Mach) (id w : Nat) (lanes : Mask) : Mach × Bool :=
  match m.warp? id w with
  | none => (m, true)
  | some x =>
    let open_ (e : Entry) : Bool := e.unperformed && (e.exec &&& lanes) != 0
    let m1 := (x.rb.filter open_).foldl (fun m e => m.performSeq id w e.seq) m
    (m1, match m1.warp? id w with | some y => !(y.rb.any open_) | none => true)

/-- R33: MAPPEND of a context. -/
def Mach.mapPend (m : Mach) (c : Ctx) : Nat :=
  match c.events with
  | [] => 0
  | (_, _, t) :: _ =>
    let kinds := c.events.foldl (fun k e => (BitVec.ofNat 9 k ||| BitVec.ofNat 9 (2 ^ (e.2.1 - 1))).toNat) 0
    2 ^ 31 + kinds * 2 ^ 16 + min 2000 ((t + 2000000 - m.clock) / 1000)

/-- Is a queue entry an operation rather than a join entry. -/
def ChEnt.isOp (x : ChEnt) : Bool := match x.op with | .join _ _ => false | _ => true

/-- Is a queue entry an RRED, which has no stream. -/
def ChEnt.isRred (x : ChEnt) : Bool := match x.op with | .rred .. => true | _ => false

/-- R207: does a join condition hold an entry back: a covered operation not yet sent, or one sent to another destination, or any covered operation for an RRED, or a covered RRED, not yet acknowledged. -/
def Block.joinHeld (b : Block) (c : Chan) (x : ChEnt) (dest : Nat × Nat) : Bool :=
  c.conds.any fun j => j.after < x.first &&
    ((b.chan j.chB).queue.any (fun y => y.isOp && y.first ≤ j.upto) ||
      (b.chan j.chB).sent.any fun s => s.first ≤ j.upto && (s.rred || x.isRred || (s.dpkg, s.ddie) != dest))

/-- R207: join entries at the head of a queue leave it and become join conditions; n bounds them. -/
def popJoins : Nat → Chan → Chan
  | 0, c => c
  | n + 1, c =>
    match c.queue with
    | [] => c
    | x :: rest =>
      match x.op with
      | .join chB upto => popJoins n { c with queue := rest, conds := c.conds ++ [{ chB := chB, upto := upto, after := x.first }] }
      | _ => c

/-- R207: bring the joins of a block up to date: heads popped, and conditions whose covered operations are all acknowledged dropped. -/
def Block.settleJoins (b : Block) : Block :=
  let b1 : Block := { b with chans := b.chans.map fun c => popJoins c.queue.length c }
  { b1 with chans := b1.chans.map fun c => { c with conds := c.conds.filter fun j => !(b1.chan j.chB).ackedUpto j.upto } }

/-- R313: the block with only the queue entries that are kept, and its joins brought up to date. -/
def Block.settleJoinsAfter (b : Block) (keep : ChEnt → Bool) : Block :=
  Block.settleJoins { b with chans := b.chans.map fun c => { c with queue := c.queue.filter keep } }

/-- R205: a drained entry: every packet acknowledged, and no queued entry names it. -/
def Mach.drainedEnt (m : Mach) (b : Block) (c : Chan) (d : DestEnt) : Bool :=
  d.ack == d.next && !(c.queue.any fun x => x.isOp && !x.isRred && m.names b x (d.pkg, d.die)) &&
    !(c.sent.any fun s => !s.rred && (s.dpkg, s.ddie) == (d.pkg, d.die))

/-- R212: the CHSTAT word of a channel. -/
def Mach.chStat (m : Mach) (b : Block) (ch : Nat) : Nat :=
  let c := b.chan ch
  let head := c.queue.head?
  let covered (x : ChEnt) : Bool := b.joinHeld c x (m.nextDest b x)
  let ninth (x : ChEnt) : Bool :=
    x.isOp && !x.isRred &&
    !(c.dests.any fun d => d.valid && (d.pkg, d.die) == m.nextDest b x) &&
    c.dests.all fun d => d.valid && !m.drainedEnt b c d
  let f (p : Option Bool) (n : Nat) : Nat := if p.getD false then 2 ^ n else 0
  (if c.err.isSome then 2 ^ 31 else 0) + f (head.map covered) 30 + f (head.map ninth) 29 +
    (c.dests.filter fun d => d.valid).length * 2 ^ 19 + min 64 c.queue.length * 2 ^ 12 + min 4095 c.sent.length

/-- The value a long CRD, CHSTAT or TLREAD samples: its words. -/
def Mach.sampleVal (m : Mach) (b : Block) (w : Warp) (what : Nat) : List Word :=
  let s := b.side w.side
  let c := m.ctx? b.ctx
  let nat (n : Nat) : List Word := [BitVec.ofNat 32 n]
  if 0x3000 ≤ what then
    let v := match c with | some c => ((c.tls[what - 0x3000]?).map fun t => t.count).getD 0 | none => 0
    [BitVec.ofNat 32 v, BitVec.ofNat 32 (v / 2 ^ 32)]
  else if 0x2000 ≤ what then nat (m.chStat b (what - 0x2000))
  else if what = 0x013 then nat (match c with | some c => c.mapver | none => 0)
  else if what = 0x014 then nat (match c with | some c => m.mapPend c | none => 0)
  else if what = 0x01A then nat (m.freeLines s.core s.bank)
  else if what = 0x020 then [lo32 b.ready]
  else if what = 0x021 then [hi32 b.ready]
  else if what = 0x063 then [s.eng.mitstat]
  else if what = 0x064 then [lo32 s.eng.mitres]
  else if what = 0x065 then [hi32 s.eng.mitres]
  else nat 0

/-- R105: the result of a long word arrives. Nothing happens while it cannot have arrived. -/
def Mach.arrive (m : Mach) (id w seq : Nat) : Mach :=
  match m.block? id, m.warp? id w with
  | some b, some x =>
    (match x.rb.find? fun e => e.seq == seq && !e.done with
     | none => m
     | some e =>
       match e.pend with
       | .value => m.fillWith id w seq fun e => e
       | .load _ _ _ _ _ => m.performSeq id w seq
       | .atom _ _ => m.performSeq id w seq
       | .sample what =>
         if what = 0x019 then m
         else
           let v := m.sampleVal b x what
           m.fillWith id w seq fun e => { e with vals := v.map RVal.u }
       | .tfirst _ => m.performSeq id w seq
       | .chan _ _ => m
       | .mx => m)
  | _, _ => m

end Sys2Proof.Machine
end

