-- ==== Sys2Proof/Machine/Alloc.lean ====
section
/-! DEFINITION. What leaves a warp, a block or a core: frames and the allocation queue (R81, R84, R90), reconvergence sites and barriers (R55, R341), exit (R362, R363), kill (R297 to R299), and the consumption of errors (R312 to R314). -/

namespace Sys2Proof.Machine

/-- R84, R91: grant requests from the head of a bank's queue, in order, while each fits; the Cellar stops as its head is granted; n bounds the requests tried. -/
def Mach.grantPass (m : Mach) (c i : Nat) : Nat → Mach
  | 0 => m
  | n + 1 =>
    match ((m.core c).bank i).queue with
    | [] => m
    | q :: rest =>
      if q.lines ≤ m.freeLines c i then
        let m1 := m.updBank c i fun k =>
          { k with queue := rest, cellar := false, spill := none,
                   fills := if q.kind = 0 then k.fills ++ [q] else k.fills }
        let m2 :=
          if q.kind = 0 then m1
          else m1.updLanes q.blk q.warp q.lanes fun l => if l.run == .alloc then { l with run := .granted q.lines } else l
        Mach.grantPass m2 c i n
      else m

/-- R84: a grant pass on a bank. -/
def Mach.grants (m : Mach) (c i : Nat) : Mach := m.grantPass c i ((m.core c).bank i).queue.length

/-- R84: a grant pass on the bank of a warp. -/
def Mach.grantsFor (m : Mach) (b : Block) (w : Warp) : Mach := m.grants (b.side w.side).core (b.side w.side).bank

/-- R84: a request joins its bank's queue: fills before calls and grows, each class oldest first. -/
def AllocReq.insert (q : AllocReq) (qs : List AllocReq) : List AllocReq :=
  if q.kind = 0 then (qs.filter fun x => x.kind == 0) ++ [q] ++ qs.filter fun x => x.kind != 0
  else qs ++ [q]

/-- R81, R90: lanes leave a frame; a frame with no member left is freed. -/
def Warp.leave (w : Warp) (mask : Mask) (fid : Nat) : Warp :=
  Warp.sweep { w with frames := modWhere w.frames (fun f => f.id == fid) fun f => { f with members := f.members &&& ~~~mask } }

/-- R92, R93: lanes whose current frame is spilled wait in the fill state; each spilled frame has one request, which later waiters join. -/
def Mach.awaitFill (m : Mach) (b : Block) (w : Nat) (mask : Mask) : Mach :=
  match m.warp? b.id w with
  | none => m
  | some x =>
    let s := b.side x.side
    let out (f : Frame) : Mask := mask &&& maskOf fun l => (x.lane l).fid == f.id
    let fs := x.frames.filter fun f => !f.resident && out f != 0
    let m1 := fs.foldl
      (fun m f =>
        let m0 := m.updLanes b.id w (out f) fun l => { l with run := .fill }
        let m1 := m0.updWarp b.id w fun x => { x with blocked := m.clock }
        let k := (m1.core s.core).bank s.bank
        let mine (q : AllocReq) : Bool := q.kind == 0 && q.names b.id w f.id
        if k.fills.any fun q => q.names b.id w f.id then m1
        else if k.queue.any mine then
          m1.updBank s.core s.bank fun k => { k with queue := modWhere k.queue mine fun q => { q with lanes := q.lanes ||| out f } }
        else m1.updBank s.core s.bank fun k =>
          { k with queue := AllocReq.insert { kind := 0, blk := b.id, warp := w, lanes := out f, fid := f.id, lines := b.lines f.size, age := m.clock } k.queue })
      m
    if fs.isEmpty then m1 else m1.grants s.core s.bank

/-- R55: is a site complete: each expected lane arrived, exited or unwound past it. -/
def Warp.siteDone (w : Warp) (s : Site) : Bool :=
  (lanesOf s.expected).all fun l =>
    s.arrived.getLsbD l || (w.lane l).exited ||
      (match s.depth.find? fun p => p.1 == l with | some p => decide ((w.lane l).depth < p.2) | none => false)

/-- R55: release the lanes waiting at site k. -/
def Warp.releaseSite (w : Warp) (k : Nat) (mask : Mask) : Warp :=
  w.updLanes mask fun l => if l.run == .reconv k then { l with run := .ready } else l

/-- R55: evaluate site k; a complete site releases its waiting lanes and closes. -/
def Warp.siteCheck (w : Warp) (k : Nat) : Warp :=
  match w.sites[k]? with
  | none => w
  | some s =>
    if s.expected != 0 && w.siteDone s then
      let w1 := w.releaseSite k s.waiting
      { w1 with sites := w1.sites.set k { s with expected := 0, waiting := 0 } }
    else w

/-- R55: evaluate every site of a warp. -/
def Warp.sitesCheck (w : Warp) : Warp := (List.range 16).foldl Warp.siteCheck w

/-- R341: release the barrier of a block when every thread that has not exited waits at it. -/
def Block.evalBar (b : Block) : Block :=
  let waits (w : Warp) : Bool := (lanesOf w.liveLanes).all fun l => (w.lane l).run == .bar
  if b.warps.all waits then
    { b with warps := b.warps.map fun w => { w with lanes := w.lanes.map fun l => if l.run == .bar then { l with run := .ready } else l } }
  else b

/-- Drop exited lanes from the paths. -/
def Warp.dropDead (w : Warp) : Warp :=
  let live := w.liveLanes
  { w with paths := (w.paths.map fun p => { p with lanes := p.lanes &&& live }).filter fun p => p.lanes != 0 }

/-- R276, R299: take a block off its cores: its warps leave the sets, its requests and transfers are dropped, and a bank left without a block holds no context. -/
def Mach.leaveCores (m : Mach) (b : Block) : Mach :=
  b.sides.foldl
    (fun m s =>
      let others := m.blocks.any fun x => x.id != b.id && (x.place == .placed || x.place == .restoring) && x.sides.any fun t => t.core == s.core && t.bank == s.bank
      m.updCore s.core fun k =>
        { k with
          actSet := k.actSet.filter fun p => p.1 != b.id,
          last := if k.last.any fun p => p.1 == b.id then none else k.last,
          idle := if others then k.idle else none,
          banks := modAt k.banks s.bank fun q =>
            { q with
              queue := q.queue.filter fun r => r.blk != b.id,
              fills := q.fills.filter fun r => r.blk != b.id,
              claims := q.claims.filter fun r => r.2.blk != b.id,
              spill := if q.spill.any fun r => r.1 == b.id then none else q.spill,
              ctx := if others then q.ctx else none,
              cellar := others && q.cellar,
              since := if others then q.since else none } })
    m

/-- R299: what remains of a block whose resources are freed: its identity, released entries and channels. -/
def Block.strip (b : Block) (place : Where) : Block :=
  { b with
    place := place, warps := [], copies := [], shared := [], maps := [], tagErr := [], ready := 0, stopped := false,
    sides := b.sides.map fun s =>
      { s with tiles := [], tctl := [], locks := [] } }

/-- R90, R276, R299: free a block's place; queued requests of the banks it leaves are granted from the freed lines. -/
def Mach.vacate (m : Mach) (id : Nat) (place : Where) : Mach :=
  match m.block? id with
  | none => m
  | some b =>
    let m1 := (m.leaveCores b).updBlock id fun b => b.strip place
    b.sides.foldl (fun m s => m.grants s.core s.bank) m1

/-- R299, R363: a block whose warps are all freed exits once no copy into it is outstanding; what its last copies into the stash left in the store buffer is released. -/
def Mach.blockExit (m : Mach) (id : Nat) : Mach :=
  match m.block? id with
  | none => m
  | some b =>
    if b.place == .placed && b.warps.all (fun w => w.liveLanes == 0) && b.copies.isEmpty then
      ((m.updBlock id fun b => b.release m.rmap.pkg m.clock).vacate id .gone).updGrid b.grid fun g => { g with left := g.left - 1 }
    else m

/-- R362: lanes exit: held entries are discarded, every frame is left, and sites, barrier, warp and block are evaluated again. -/
def Mach.exitLanes (m : Mach) (id w : Nat) (mask : Mask) : Mach :=
  match m.block? id, m.warp? id w with
  | some b, some x =>
    let x1 := x.updLanes mask fun l => { l with exited := true, run := .ready, depth := 0, stack := [], poll := none, handler := false, first := [] }
    let x2 : Warp :=
      { x1 with
        rb := (x1.rb.map fun e => { e with exec := e.exec &&& ~~~mask }).filter fun e => e.exec != 0,
        frames := x1.frames.map fun f => { f with members := f.members &&& ~~~mask } }
    let x3 := x2.sweep.trim.sitesCheck.dropDead
    let m1 := (m.updWarp id w fun _ => x3).updBlock id Block.evalBar
    let s := b.side x.side
    let m2 := if x3.liveLanes = 0 then m1.updCore s.core fun k => { k with actSet := k.actSet.filter fun p => p != (id, w) } else m1
    (m2.grants s.core s.bank).blockExit id
  | _, _ => m

/-- R351: does a bulk copy at the head of a channel of the block wait on a record's page. -/
def Block.copyAsks (b : Block) (f : FaultRec) : Bool :=
  b.ctx == f.ctx && b.die == f.die && b.chans.any fun c =>
    match (c.queue.head?.map fun (x : ChEnt) => x.op : Option ChOp) with
    | some (ChOp.cpyr src dst _ done _ _) => [src + done, src + done + 1023, dst + done].any fun va => va / 65536 == f.va / 65536
    | _ => false

/-- R299, R313: the pending fault records that only this block's lanes wait on are dropped; a rollback (`ring`) takes back what the fault queue still holds. -/
def Mach.dropFaults (m : Mach) (b : Block) (ring : Bool) : Mach :=
  let names (b : Block) (f : FaultRec) : Bool := b.warps.any fun w => w.lanes.any fun l =>
    match l.run with | .parked _ recs => recs.any fun r => r.die == f.die && r.seq == f.seq | _ => false
  let mine (f : FaultRec) : Bool :=
    names b f && !(m.blocks.any fun x => (x.id != b.id && names x f) || ((!ring || x.id != b.id) && x.copyAsks f)) &&
      !(m.cmds.any fun c => c.wait.contains (f.die, f.seq))
  { m with faults := m.faults.filter fun f => !mine f,
           rings := if ring then modAt m.rings 0 fun r => { r with held := r.held.filter fun x => !(m.faults.any fun f => mine f && faultBytes f == x) } else m.rings }

/-- R297, R299: kill a block: unreleased stores and dirty stash data are discarded, copies cancelled, its pending fault records dropped, which stay in the queue; released entries and enqueued channel operations go on. -/
def Mach.killBlock (m : Mach) (id : Nat) : Mach :=
  match m.block? id with
  | none => m
  | some b =>
    if b.place == .gone then m
    else
      let m1 := b.maps.foldl (fun (m : Mach) (p : StashMap) => m.putCells p.undo) (m.dropFaults b false)
      let m2 := m1.updBlock id fun b => { b with sb := b.sb.filter fun e => e.released || e.tst, rels := [] }
      let m3 := b.sides.foldl
        (fun m s => m.updCore s.core fun k =>
          { k with mx := match k.mx with | some r => (if r.blk == id && r.miter then none else some r) | none => none }) m2
      if b.place == .placed || b.place == .restoring then m3.vacate id .gone else m3.updBlock id fun b => b.strip .gone

/-- R297: kill a grid: no further block is placed, every resident or saved block is killed, and one error record is written. -/
def Mach.killGrid (m : Mach) (n : Nat) (rec_ : LogInfo) (cont : Option (List Byte)) : Mach :=
  match m.grid? n with
  | none => m
  | some g =>
    if g.killed then m
    else
      let m1 := m.updGrid n fun g => { g with killed := true, chunks := [], left := 0 }
      let ids := (m1.blocks.filter fun b => b.grid == n && b.place != .gone).map fun b => b.id
      (ids.foldl Mach.killBlock m1).log rec_ cont

/-- R193: an operation numbered on a timeline completes; the counter follows in TIMELINE_ADVANCE. -/
def Mach.tlFinish (m : Mach) (ctx tl n : Nat) : Mach :=
  if n = 0 then m
  else m.updCtx ctx fun c => { c with tls := modAt c.tls tl fun t => if t.fin.contains n || decide (n ≤ t.count) then t else { t with fin := n :: t.fin } }

/-- R193, R351: the timeline operation of a bulk copy completes once its entry has left the queue and every segment sent is acknowledged. -/
def Mach.copyDone (m : Mach) (id ch tl n : Nat) : Mach :=
  match m.block? id with
  | none => m
  | some b =>
    let c := b.chan ch
    let queued := c.queue.any fun x => match x.op with | .cpyr _ _ _ _ t k => t == tl && k == n | _ => false
    if queued || c.sent.any (fun s => s.tl == some (tl, n)) then m else m.tlFinish b.ctx tl n

/-- R312, R313: an error drops the block's unsent channel operations and its TST sectors still to go; its released entries go on. DESIGN CHOICE (log entry 83): a dropped bulk copy's timeline number completes. -/
def Mach.dropUnsent (m : Mach) (id : Nat) : Mach :=
  match m.block? id with
  | none => m
  | some b =>
    let copies := b.chans.zipIdx.flatMap fun c => c.1.queue.filterMap fun x => match x.op with | .cpyr _ _ _ _ tl n => some (c.2, tl, n) | _ => none
    let m1 := m.updBlock id fun b => Block.settleJoinsAfter { b with sb := b.sb.filter fun e => !e.tst } fun x => x.rel
    copies.foldl (fun m q => m.copyDone id q.1 q.2.1 q.2.2) m1

/-- R312, R314: a sealed block, or one due a fourth rollback, escalates: nothing further of it is sent, one record with ESCALATE, the grid killed, a notice of kind 6. -/
def Mach.escalate (m : Mach) (b : Block) (r : LogInfo) : Mach :=
  let q := match m.logs[b.die]? with | some l => l.seq | none => 0
  ((m.dropUnsent b.id).killGrid b.grid { r with flags := r.flags + 8 } none).notice 6 b.ctx b.grid (b.die + 2 ^ 32 * q)

/-- R313: an unsealed block is rolled back: nothing it did stays, its local slot is kept, and it waits for a new placement. -/
def Mach.rollback (m : Mach) (b : Block) (r : LogInfo) : Mach :=
  let m0 := (m.dropFaults b true).updBlock b.id fun b => { b with sb := [] }
  let m1 := ((m0.dropUnsent b.id).vacate b.id .rolled).updBlock b.id fun b =>
    { b with sb := [], rels := [], chans := [], rolls := b.rolls + 1, sealed := false }
  let m2 := b.sides.foldl
    (fun m s => m.updCore s.core fun k =>
      { k with mx := match k.mx with | some r => (if r.blk == b.id then none else some r) | none => none }) m1
  m2.log { r with flags := r.flags + 4 } none

/-- R312 to R314: a block consumes an error. -/
def Mach.consume (m : Mach) (id : Nat) (warp : Option Nat) (cause sub : Nat) (va pa : Option Nat) (pc : Option PC) (detail : Nat) : Mach :=
  match m.block? id with
  | none => m
  | some b =>
    if b.place == .gone || b.place == .rolled then m
    else if b.sealed then m.escalate b (Mach.blockLog b cause sub 2 warp va pa pc detail)
    else if 3 ≤ b.rolls then m.escalate b (Mach.blockLog b 0x10 6 2 warp va pa pc (cause + 256 * sub))
    else m.rollback b (Mach.blockLog b cause sub 2 warp va pa pc detail)

end Sys2Proof.Machine
end

