-- ==== Sys2Proof/Machine/Capacity.lean ====
section
/-! DEFINITION. What a block needs and what a core can take (R40 to R43, R59 to R61, R155, R164, R178, R243, R276, R307), and the block a placement makes. -/

namespace Sys2Proof.Machine

/-- R41: the warps of a block. -/
def Desc.nwarps (d : Desc) : Nat := (d.threads + d.width - 1) / d.width

/-- R59: the roles in order, as (warps, base frame). -/
def Desc.roleList (d : Desc) : List (Nat × Nat) := if d.roles.isEmpty then [(d.nwarps, d.frame)] else d.roles

/-- R59, R60: every warp of a block, role by role: role, base frame, and side. -/
def Desc.plan (d : Desc) : List (Nat × Nat × Nat) :=
  d.roleList.zipIdx.flatMap fun r =>
    (List.range r.1.1).map fun i => (r.2, r.1.2, if d.paired && r.1.1 / 2 ≤ i then 1 else 0)

/-- R307: in checked mode warps and base frames count twice. -/
def Desc.twice (d : Desc) : Nat := if d.checked then 2 else 1

/-- The warp slots a block needs on a side. -/
def Desc.sideWarps (d : Desc) (side : Nat) : Nat := (d.plan.filter fun p => p.2.2 == side).length * d.twice

/-- R61: the base-frame lines a block needs on a side. -/
def Desc.sideLines (d : Desc) (side : Nat) : Nat :=
  ((d.plan.filter fun p => p.2.2 == side).map fun p => p.2.1 * (d.width / 16)).sum * d.twice

/-- R149: a window size rounded up to 1,024 bytes. -/
def round1024 (n : Nat) : Nat := (n + 1023) / 1024 * 1024

/-- R39: is a die live or degraded. -/
def Mach.dieLive (m : Mach) (d : Nat) : Bool := match m.rmap.dies[d]? with | some e => e.state == 1 || e.state == 2 | none => false

/-- R276, R447: does a block hold a place on its cores. -/
def Block.onCores (b : Block) : Bool := b.place == .placed || b.place == .restoring

/-- Blocks that hold a place on a core, in either bank. -/
def Mach.onCore (m : Mach) (c : Nat) : List Block :=
  m.blocks.filter fun b => b.onCores && b.sides.any fun s => s.core == c

/-- Blocks that hold a place in a bank. -/
def Mach.inBank (m : Mach) (c i : Nat) : List Block :=
  m.blocks.filter fun b => b.onCores && b.sides.any fun s => s.core == c && s.bank == i

/-- The warp slots a placed block takes on a core. -/
def Block.warpSlots (b : Block) (c : Nat) : Nat :=
  (b.warps.filter fun w => w.liveLanes != 0 && (b.side w.side).core == c).length * (if b.checked then 2 else 1)

/-- R276: a core's resident warps, in both banks. -/
def Mach.coreLoad (m : Mach) (c : Nat) : Nat := ((m.onCore c).map fun b => b.warpSlots c).sum

/-- R276: the bank of a core that may receive a block of a context: the one that holds it, else a bank that holds none, the active one first. -/
def Mach.bankFor (m : Mach) (c ctx : Nat) : Option Nat :=
  let k := m.core c
  let order := [k.active, 1 - k.active]
  match order.find? fun i => (k.bank i).ctx == some ctx with
  | some i => some i
  | none => order.find? fun i => (k.bank i).ctx == none

/-- What one side of a block asks of a core: warps, lines, window bytes, quota, tiles, tags. -/
structure Ask1 where
  warps : Nat
  lines : Nat
  window : Nat
  quota : Nat
  tiles : Nat
  tags  : Nat
  deriving DecidableEq, Repr

def Desc.ask (d : Desc) (side : Nat) : Ask1 :=
  { warps := d.sideWarps side, lines := d.sideLines side, window := round1024 d.shared + round1024 d.stash,
    quota := d.quota, tiles := d.tiles, tags := d.tags }

def Desc.asks (d : Desc) : Ask1 × Ask1 := (d.ask 0, d.ask 1)

/-- R276: the capacity tests of a core and bank. -/
def Mach.fits (m : Mach) (c i : Nat) (q : Ask1) : Bool :=
  let k := m.core c
  let all := m.onCore c
  let bank := m.inBank c i
  k.live &&
    decide ((bank.map fun b => b.warpSlots c).sum + q.warps ≤ 64) && decide (bank.length + 1 ≤ 32) &&
    decide (q.lines ≤ m.freeLines c i) &&
    decide ((all.map fun b => b.shsize + b.stsize).sum + q.window + 65536 ≤ 786432) &&
    decide ((all.map fun b => b.quota).sum + q.quota ≤ 256) &&
    decide ((all.map fun b => b.ntiles).sum + q.tiles ≤ 16) &&
    decide ((all.map fun b => b.ntags).sum + q.tags ≤ 64)

/-- R150: the lowest free local slot of a context. -/
def Mach.freeSlot (m : Mach) (ctx : Nat) : Option Nat :=
  match m.ctx? ctx with
  | none => none
  | some c => (List.range c.lslots).find? fun s => !(m.blocks.any fun b => b.ctx == ctx && b.place != .gone && b.lslot == s)

/-- R164: the lowest run of n free completion tags of a core. -/
def Mach.freeTags (m : Mach) (c n : Nat) : Option Nat :=
  let used (t : Nat) : Bool := (m.onCore c).any fun b => b.sides.any fun s => s.core == c && s.tagFirst ≤ t && t < s.tagFirst + b.ntags
  (List.range (65 - n)).find? fun f => (List.range n).all fun i => !used (f + i)

/-- R205: is every stream of a block drained. -/
def Block.drained (b : Block) : Bool := b.chans.all fun c => c.dests.all fun d => !d.valid || d.ack == d.next

/-- Does a block hold its block slot's stream identities: while placed, while its channels still drain, or while it is saved with streams not drained. -/
def Block.holdsSlot (b : Block) : Bool :=
  match b.place with
  | .placed => true
  | .restoring => true
  | .gone => b.chans.any fun h => !h.queue.isEmpty || !h.sent.isEmpty
  | .saved => !b.drained
  | .rolled => false

/-- The lowest free block slot of a bank; slots of the two banks carry different numbers (log entry 11). -/
def Mach.freeBlockSlot (m : Mach) (c i : Nat) : Nat :=
  let used (s : Nat) : Bool := m.blocks.any fun b => b.holdsSlot && b.sides.any fun x => x.core == c && x.slot == s
  match (List.range 32).find? fun j => !used (32 * i + j) with
  | some j => 32 * i + j
  | none => 32 * i

/-- A place found for each side of a block: core, bank, first tag. -/
abbrev Spot := List (Nat × Nat × Nat)

/-- R276: one core as a place for a side. -/
def Mach.spotOn (m : Mach) (ctx c : Nat) (q : Ask1) : Option (Nat × Nat × Nat) :=
  match m.bankFor c ctx with
  | none => none
  | some i => if m.fits c i q then (m.freeTags c q.tags).map fun f => (c, i, f) else none

/-- R276: a core, or the core pair that starts at an even core, as a place for a block. -/
def Mach.spotAt (m : Mach) (ctx c : Nat) (paired : Bool) (asks : Ask1 × Ask1) : Option Spot :=
  if paired then
    match m.spotOn ctx c asks.1, m.spotOn ctx (c + 1) asks.2 with
    | some a, some b => some [a, b]
    | _, _ => none
  else (m.spotOn ctx c asks.1).map fun a => [a]

/-- R276: insert into a list ordered by a key, after equal keys. -/
def insertBy (f : Nat → Nat) (x : Nat) : List Nat → List Nat
  | [] => [x]
  | y :: ys => if f y ≤ f x then y :: insertBy f x ys else x :: y :: ys

/-- Order a list by a key, keeping the order of equal keys. -/
def sortBy (f : Nat → Nat) (l : List Nat) : List Nat := l.foldl (fun acc x => insertBy f x acc) []

/-- R276: the places of a die in the distributor's order: clusters by resident warps, then the cluster's cores by resident warps; a pair counts as its leader. `skip` holds back clusters or cores. -/
def Mach.spots (m : Mach) (die ctx : Nat) (paired : Bool) (asks : Ask1 × Ask1) (skip : Nat → Bool) : List Spot :=
  let clusterLoad (k : Nat) : Nat := ((List.range 4).map fun j => m.coreLoad (20 * die + 4 * k + j)).sum
  (sortBy clusterLoad (List.range 5)).flatMap fun k =>
    let cs := ((List.range 4).map fun j => 20 * die + 4 * k + j).filter fun c => !paired || c % 2 == 0
    (sortBy m.coreLoad cs).filterMap fun c => if skip c then none else m.spotAt ctx c paired asks

/-- R59, R62, R70: a warp at its start. -/
def newWarp (width threads num role side frame : Nat) : Warp :=
  let vac : Mask := maskOf fun l => decide (threads ≤ num * width + l) && decide (l < width)
  { num := num, role := role, side := side, vacant := vac,
    lanes := (List.range width).map fun l =>
      { exited := vac.getLsbD l, pc := ⟨0, 0⟩, fid := 0, run := .ready, depth := 0, stack := [], poll := none, handler := false, first := [] },
    paths := [{ lanes := allLanes width &&& ~~~vac, age := 0, aged := false, yield := false }],
    frames := [{ id := 0, level := 0, size := frame, members := allLanes width &&& ~~~vac, regs := List.replicate frame (.u 0), resident := true, slots := [], clob := 0, order := 0 }],
    nextOrd := 1, gregs := List.replicate 8 (.u 0), preds := List.replicate 7 0, fpmode := 0, fpflags := 0,
    vcs := List.replicate 4 64, clkHi := 0,
    sites := List.replicate 16 { expected := 0, arrived := 0, waiting := 0, depth := [] },
    rb := [], nextSeq := 0, waitCnt := 0, blocked := 0, shadow := none }

/-- R219: an empty destination-table entry. -/
def DestEnt.empty : DestEnt :=
  { valid := false, start := false, pkg := 0, die := 0, next := 0, ack := 0, lastUse := 0, mark := 0, retryAt := none }

def Chan.empty : Chan := { queue := [], dests := List.replicate 8 DestEnt.empty, conds := [], sent := [], err := none, issued := 0 }

/-- R164, R243, R245: a block's side as placed. -/
def newSide (core bank slot tagFirst ntiles : Nat) : Side :=
  { core := core, bank := bank, slot := slot, tagFirst := tagFirst,
    tiles := List.replicate ntiles { bytes := [], poison := false }, tctl := List.replicate 16 0, eng := newMitRegs, locks := [] }

/-- R276: a block as placed: position from its linear index (R275), registers, windows, tiles, tags and channels at their start. -/
def newBlock (id : Nat) (g : Grid) (lin die lslot rolls : Nat) (sides : List Side) : Block :=
  let d := g.desc
  { id := id, epoch := id, grid := g.num, ctx := g.ctx, bx := lin % d.nx, bY := lin / d.nx % d.ny, bz := lin / d.nx / d.ny, die := die,
    place := .placed, width := d.width, threads := d.threads, entry := d.entry, shsize := round1024 d.shared,
    stsize := round1024 d.stash, nchan := d.channels, quota := d.quota, ntags := d.tags, ntiles := d.tiles,
    checked := d.checked, sides := sides, lslot := lslot, sealed := false, rolls := rolls, stopped := false,
    trapbase := 0, ready := allLanes d.tags, tagErr := [], copies := [], shared := [], maps := [], sb := [], sbSeq := 0,
    rels := [], chans := List.replicate d.channels Chan.empty,
    warps := d.plan.zipIdx.map (fun p => (newWarp d.width d.threads p.2 p.1.1 p.1.2.2 p.1.2.1).checked d.checked), reqs := [], cellar := false, spoilt := [] }

/-- The linear index of a block (R275). -/
def Block.linear (b : Block) (d : Desc) : Nat := b.bx + d.nx * (b.bY + d.ny * b.bz)

/-- R276: put a block at a place: its banks hold its context from now on. -/
def Mach.settleBlock (m : Mach) (g : Grid) (lin die lslot rolls : Nat) (spot : Spot) : Mach :=
  let sides := spot.map fun p => newSide p.1 p.2.1 (m.freeBlockSlot p.1 p.2.1) p.2.2 g.desc.tiles
  let m1 := { m with blocks := m.blocks ++ [newBlock m.nextBlk g lin die lslot rolls sides], nextBlk := m.nextBlk + 1 }
  spot.foldl (fun m p => m.updBank p.1 p.2.1 fun k => { k with ctx := some g.ctx }) m1

end Sys2Proof.Machine
end

