-- ==== Sys2Proof/Machine/Ops.lean ====
section
/-! DEFINITION. Taking a trap (R287 to R290), returning from one (R291), breakpoint stops (R296), parking (R173, R293), and the shared frame of every encoded word: Exec, the register check, result writes and traps (R69, R101, R102, R105). -/

namespace Sys2Proof.Machine

/-- R150: a context's slice size; 0 without a context. -/
def Mach.sliceSize (m : Mach) (b : Block) : Nat := match m.ctx? b.ctx with | some c => c.lsize | none => 0

/-- R150: the virtual address of thread-local offset off of lane l. -/
def Mach.localVa (m : Mach) (b : Block) (w : Warp) (l off : Nat) : Nat :=
  match m.ctx? b.ctx with
  | some c => c.locbase + (b.lslot * 2048 + w.num * b.width + l) * c.lsize + off
  | none => off

/-- R97: the last packet of a code segment. -/
def lastPacket : Nat := 1398100

/-- R97: the PC of a virtual address in the segment at base; or the trap it raises. -/
def codePc (base va : Nat) : Except (Nat × Nat) PC :=
  if va < base || base + 2 ^ 24 ≤ va then .error (0x07, 1)
  else if (va - base) % 4 ≠ 0 || 16777212 ≤ va - base then .error (0x04, 1)
  else .ok (pcAt (va - base))

/-- R290: a lane's 64-byte trap frame. -/
def frameBytes (t : Trap) (warp : Nat) (g7 : Word) (g7u : Bool) : List Byte :=
  leBytes 1 t.cause ++ leBytes 1 t.sub ++
  leBytes 1 ((if t.commit then 1 else 0) + (if t.second then 2 else 0) + (if g7u then 4 else 0)) ++
  leBytes 1 (t.pc.sl + 4 * t.rpc.sl) ++ leBytes 4 t.pc.pk ++ leBytes 4 t.rpc.pk ++ wordBytes t.word ++
  leBytes 8 t.addr ++ leBytes 8 t.mask.toNat ++ leBytes 8 t.detail ++ leBytes 4 t.mapver ++ leBytes 2 t.pathid ++
  leBytes 1 warp ++ zeros 1 ++ wordBytes g7 ++ wordBytes t.pfx ++ leBytes 8 t.time

/-- R289 step 2: the lanes of a mask form a path at their old path's position, the rest behind it. -/
def Warp.splitFront (w : Warp) (mask : Mask) : Warp :=
  { w with paths := w.paths.flatMap fun p =>
      let a := p.lanes &&& mask
      let b := p.lanes &&& ~~~mask
      (if a = 0 then [] else [{ p with lanes := a }]) ++ (if b = 0 then [] else [{ p with lanes := b }]) }

/-- The position of the path that holds a lane (PATHID, R290). -/
def Warp.pathIdx (w : Warp) (l : Nat) : Nat := (w.paths.findIdx? fun p => p.lanes.getLsbD l).getD 0

/-- R173: park lanes on their missing pages: each page joins or makes a fault record, a stash fill under its own kind (R162, R295); answers what each lane waits for. A sub-warp counts once among a record's waiters; `waited` are the records it waits for already. -/
def Mach.missAll (m : Mach) (b : Block) (waited : List PageWait) (misses : List (Nat × Nat)) (access place : Nat) : Mach × List PageWait :=
  misses.foldl
    (fun (s : Mach × List PageWait) p =>
      let kind := if (access = 1 || access = 2 || access = 8) && b.mapAt p.2 != none then 16 else access
      let again := (waited ++ s.2).any fun w => s.1.faults.any fun f => f.answer.isNone && f.die == w.die && f.seq == w.seq && f.ctx == b.ctx && f.va / 65536 == p.2 / 65536
      let r := s.1.addFault b.die b.ctx p.2 kind place !again
      (r.1, s.2 ++ [{ lane := p.1, die := r.2.1, seq := r.2.2, va := p.2 }]))
    (m, [])

/-- R297, R320: the record of a kill by a trap. -/
def killRec (b : Block) (w : Nat) (t : Trap) (cause sub flags detail : Nat) : LogInfo :=
  let hasAddr := [0x04, 0x06, 0x0A].contains t.cause || (t.cause == 0x07 && t.sub != 8) || (t.cause == 0x0B && t.sub == 5) ||
    (t.cause == 0x0C && t.sub == 2) || (t.cause == 0x0D && t.sub != 1)
  Mach.blockLog b cause sub flags (some w) (if hasAddr then some t.addr else none) none (some t.pc) detail

/-- R182: the lanes, in order, whose 64-byte frames the store buffer takes at once, each sector after those before it; the rest wait. -/
def Mach.framesFit (id : Nat) (bytes : Nat → List Byte) : List (Access × PteRef × Bool × Bool) → Mach → Mask → Mach × Mask
  | [], m, done => (m, done)
  | a :: rest, m, done =>
    match a.1.loc with
    | .shared _ => Mach.framesFit id bytes rest m done
    | .glob k =>
      let m1 := if m.roomFor id (sectorOf k) then m else m.makeRoom id
      if m1.roomFor id (sectorOf k) then
        Mach.framesFit id bytes rest ((m1.touch a.2.1 true).bufferStore id a.1.va k (bytes a.1.lane)) (done ||| bit a.1.lane)
      else Mach.framesFit id bytes rest m1 done

/-- R289 steps 3 to 5, R296: write the trap frames of the lanes; those whose page is missing park, and those the store buffer's quota has no room for wait (R182); the others enter the handler at `t.go` or, for a stop, stop. -/
def Mach.deliver (m : Mach) (id w : Nat) (lanes : Mask) (t : Trap) (stop : Option Nat) : Mach :=
  match m.block? id, m.warp? id w with
  | some b, some x =>
    let off := m.sliceSize b - 64
    let rs := (lanesOf lanes).map fun l => m.checkOne b.ctx { lane := l, va := m.localVa b x l off, size := 64, need := { r := false, w := true, x := false } }
    let bytes (l : Nat) : List Byte := frameBytes t w (x.value 0 63 l) t.g7u
    (match verdict rs with
     | .trap _ sub va _ _ =>
       m.killGrid b.grid { killRec b w t 0x06 sub 1 t.mask.toNat with va := some va } (some (bytes (badLane rs)))
     | .go accs misses =>
       let q := Mach.framesFit id bytes accs m 0
       let r := q.1.missAll b [] misses 64 b.die
       let done := q.2
       let act : ParkAct := match stop with | some i => .stopFrame i t | none => .frame t
       let m2 := r.1.updLanes id w (lanes &&& ~~~done) fun l => { l with run := .parked act r.2, pc := t.rpc }
       match stop with
       | some i => m2.updLanes id w done fun l => { l with run := .stopped i, pc := t.rpc }
       | none =>
         m2.updWarp id w fun x =>
           let x1 := x.both fun x => x.write b.width 0 63 done x.liveLanes fullBits (.u (BitVec.ofNat 32 off))
           x1.mapLanes done fun i l =>
             { l with run := .ready, handler := true, first := bytes i, pc := t.go })
  | _, _ => m

/-- R296: a breakpoint with no handler: a stop id is taken, the record and its frame are logged, and the lanes stop. -/
def Mach.stopAt (m : Mach) (b : Block) (x : Warp) (lanes : Mask) (t : Trap) : Mach :=
  let sid := match m.ctx? b.ctx with | some c => c.stops | none => 0
  let m1 := m.updCtx b.ctx fun c => { c with stops := (c.stops + 1) % 2 ^ 32 }
  let m2 := m1.log (Mach.blockLog b 0x12 t.sub 3 (some x.num) none none (some t.pc) sid)
    (some (frameBytes t x.num (x.value 0 63 (lowest lanes)) t.g7u))
  m2.deliver b.id x.num lanes t (some sid)

/-- R288, R289 steps 2 to 5, R290, R292, R297: take a trap whose lanes hold no earlier result: TRAPBASE and g7's tag are read now; a double trap or a missing handler kills the grid. -/
def Mach.takeTrap (m : Mach) (id w : Nat) (lanes : Mask) (t : Trap) : Mach :=
  match m.block? id, m.warp? id w with
  | some b, some x =>
    let m1 := m.updWarp id w fun x => (x.splitFront lanes).updLanes lanes fun l => { l with run := .ready }
    let t : Trap := { t with g7u := (x.reg 0 63).isU }
    let inHandler := lanes &&& maskOf fun l => (x.lane l).handler
    if inHandler != 0 then
      m1.killGrid b.grid (killRec b w t t.cause t.sub 1 t.mask.toNat) (some (x.lane (lowest inHandler)).first)
    else if b.trapbase = 0 then
      if t.cause = 0x12 then m1.stopAt b x lanes t
      else m1.killGrid b.grid (killRec b w t t.cause t.sub 0 t.mask.toNat) none
    else
      match codePc b.entry b.trapbase.toNat with
      | .error _ => m1.killGrid b.grid (killRec b w t t.cause t.sub 32 b.trapbase.toNat) none
      | .ok p => m1.deliver id w lanes { t with go := p } none
  | _, _ => m

/-- R289 step 1: later entries of the lanes are held aside, or put back (R291). -/
def Warp.setHeld (w : Warp) (after : Nat) (mask : Mask) (held : Bool) : Warp :=
  { w with rb := w.rb.flatMap fun y =>
      if after ≤ y.seq && y.held != held && (y.exec &&& mask) != 0 then
        let out := y.exec &&& ~~~mask
        (if out = 0 then [] else [{ y with exec := out }]) ++ [{ y with exec := y.exec &&& mask, held := held }]
      else [y] }

/-- R110, R287: a fault found at commit: POISON and MCHK are consumed; MDIV and CHAN trap with the marker as PC and resume point; `second` tells that the marker's path was the second to issue (R290). -/
def Mach.commitFault (m : Mach) (id w : Nat) (e : Entry) (part : Mask) (marker : PC) (second : Bool) : Mach :=
  match e.fault, m.block? id, m.warp? id w with
  | some f, some b, some x =>
    if f.cause = 0x0F || f.cause = 0x10 then m.consume id (some w) f.cause f.sub f.va f.pa (some marker) 0
    else
      let t : Trap :=
        { cause := f.cause, sub := f.sub, commit := true, second := second, pc := marker, rpc := marker, group := marker,
          word := e.word, pfx := e.pfx, addr := f.va.getD 0, mask := part, detail := f.detail, pathid := x.pathIdx (lowest part),
          mapver := (match m.ctx? b.ctx with | some c => c.mapver | none => 0), time := m.clock }
      (m.updWarp id w fun x => x.setHeld (e.seq + 1) part true).takeTrap id w part t
  | _, _, _ => m

/-- R289 step 1: the lanes' earlier long results commit before a trap is entered; while one is missing the trap waits; a fault among them is delivered in its place. -/
def Mach.trapEntry (m : Mach) (id w : Nat) (lanes : Mask) (t : Trap) : Mach :=
  match m.block? id, m.warp? id w with
  | some b, some x =>
    if !x.filled lanes then m.updWarp id w fun x => (x.splitFront lanes).updLanes lanes fun l => { l with run := .trapping t }
    else
      let r := x.commitLanes b.width m.clock lanes
      let m1 := m.updWarp id w fun _ => r.1
      match r.2 with
      | none => m1.takeTrap id w lanes t
      | some (e, part) => (m1.updLanes id w lanes fun l => { l with run := .ready }).commitFault id w e part t.group t.second
  | _, _ => m

/-- What every encoded word works on: the state, the issue record, the block and warp as the group's words read them (R103), Exec and the current frame. -/
structure Cx where
  s   : State
  is  : Issue
  b   : Block
  w   : Warp
  ex  : Mask
  fid : Nat

/-- The lane width of the block. -/
def Cx.W (c : Cx) : Nat := c.b.width

/-- R103, R106: a register as committed when the group issued. -/
def Cx.reg (c : Cx) (r : Nat) : RVal := c.w.reg c.fid r

/-- What a lane of Exec reads in a register; no lane of Exec is vacant (R41). -/
def Cx.val (c : Cx) (r l : Nat) : Word := (c.reg r).get l

/-- R68: the 64-bit value of the pair at r. -/
def Cx.pair (c : Cx) (r l : Nat) : BitVec 64 := pair64 (c.val r l) (c.val (r + 1) l)

/-- The lowest lane of Exec. -/
def Cx.low (c : Cx) : Nat := lowest c.ex

/-- The lanes of Exec in increasing order. -/
def Cx.lanes (c : Cx) : List Nat := lanesOf c.ex

/-- Change the machine a word acts on. -/
def Cx.upd (c : Cx) (f : Mach → Mach) : Cx := { c with s := { c.s with m := f c.s.m } }

/-- Change the issuing warp. -/
def Cx.updW (c : Cx) (f : Warp → Warp) : Cx := c.upd fun m => m.updWarp c.is.blk c.is.warp f

/-- Change the issuing block. -/
def Cx.updB (c : Cx) (f : Block → Block) : Cx := c.upd fun m => m.updBlock c.is.blk f

/-- The context of the block. -/
def Cx.ctx? (c : Cx) : Option Ctx := c.is.base.ctx? c.b.ctx

/-- The block as the group's earlier words have left it. -/
def Cx.now (c : Cx) : Block := (c.s.m.block? c.is.blk).getD c.b

/-- R290: the trap a word raises at issue. -/
def Cx.mkTrap (c : Cx) (cause sub addr detail : Nat) (rpc : PC) : Trap :=
  { cause := cause, sub := sub, commit := false, second := c.is.second, pc := c.is.here, rpc := rpc, group := c.is.group,
    word := c.is.word, pfx := c.is.pfx, addr := addr, mask := c.ex, detail := detail, pathid := c.is.pathid,
    mapver := (match c.ctx? with | some k => k.mapver | none => 0), time := c.is.base.clock }

/-- R50: a path of the warp has issued a word in this cycle. -/
def Mach.markIssued (m : Mach) (lanes : Mask) : Mach :=
  { m with front := m.front.map fun f => { f with issued := lanes :: f.issued } }

/-- R429: the warp whose issue is under way has executed a YIELD. -/
def Mach.markYield (m : Mach) : Mach := { m with front := m.front.map fun f => { f with yields := true } }

/-- R101: the chain group has no effect: the machine as it was when the group issued, with a change. -/
def Cx.undo (c : Cx) (f : Mach → Mach) : State := { c.s with m := f c.is.base, iss := none }

/-- R173, R290: ALIGN, PROT, BOUNDS and TILE: the causes whose trap leaves no mark of its translations and whose frame's DETAIL holds the lanes that met the cause. -/
def laneDetail (cause : Nat) : Bool := [0x04, 0x06, 0x07, 0x08].contains cause

/-- R101, R171, R287, R289: raise a trap for the lanes of Exec; the group's fetch has been made unless R173 says otherwise. -/
def Cx.raise (c : Cx) (t : Trap) : State :=
  c.undo fun m =>
    let m1 := if laneDetail t.cause then m else m.touchPcs c.b.ctx c.b.entry c.is.code
    ((m1.markIssued c.is.lanes).trapEntry c.is.blk c.is.warp c.ex t).grantsFor c.b c.w

/-- A trap whose resume point is the first word of the group. -/
def Cx.trap (c : Cx) (cause sub addr detail : Nat) : State := c.raise (c.mkTrap cause sub addr detail c.is.group)

/-- R203, R284: the group finds no room: nothing happens, and the path tries again after any event. -/
def Cx.stall (c : Cx) : State :=
  c.undo fun m => m.updLanes c.is.blk c.is.warp c.is.lanes fun l => if l.run == .ready then { l with run := .stall } else l

/-- R101: the group waits and has no effect but f, the wait itself; its later words are still looked at, and one that traps comes first. -/
def Cx.waitAs (c : Cx) (f : Mach → Mach) : State :=
  { c.s with iss := c.s.iss.map fun i => { i with wait := some (f (i.wait.getD i.base)) } }

/-- The path waits in a run state and issues its group again when it is ready. -/
def Cx.waitIn (c : Cx) (f : Mach → Mach) (r : Run) : State :=
  c.waitAs fun m => (f m).updLanes c.is.blk c.is.warp c.is.lanes fun l => { l with run := r }

/-- A stall that leaves a change of its own: a release or the end of a merge hold that the wait needs to end. -/
def Cx.stallWith (c : Cx) (f : Mach → Mach) : State :=
  c.waitAs fun m => (f m).updLanes c.is.blk c.is.warp c.is.lanes fun l => if l.run == .ready then { l with run := .stall } else l

/-- R312: the word consumes an error at issue. -/
def Cx.consume (c : Cx) (cause sub : Nat) (pa : Option Nat) : State :=
  c.undo fun m => m.consume c.is.blk (some c.is.warp) cause sub none pa (some c.is.here) 0

/-- R104: a short register result. -/
def Cx.short (c : Cx) (r : Nat) (v : RVal) : Cx :=
  c.updW fun w => w.write c.W c.fid r c.ex (c.w.liveSet c.fid r) fullBits v

/-- R104: a short predicate result. -/
def Cx.shortPred (c : Cx) (p : Nat) (v : Mask) : Cx := c.updW fun w => w.setPred p c.ex v

/-- R132: flags ORed into FPFLAGS in issue order. -/
def Cx.flags (c : Cx) (f : Word) : Cx := c.updW fun w => { w with fpflags := w.fpflags ||| f }

/-- R105: allocate a return-buffer entry; `vals` are results already known. -/
def Cx.enter (c : Cx) (dests : List Dest) (pend : Pend) (vals : List RVal) (acq : Bool) (waits : List Nat) : Cx :=
  let live := match dests with | .reg r f _ :: _ => c.w.liveSet f r | _ => c.w.liveLanes
  c.updW fun w =>
    { w with
      rb := w.rb ++ [{ seq := w.nextSeq, word := c.is.word, pfx := c.is.pfx, pc := c.is.here, exec := c.ex, live := live,
                       dests := dests, pend := pend, acq := acq, waits := waits, done := false, vals := vals, fail := 0,
                       polls := [], fault := none, held := false }],
      nextSeq := w.nextSeq + 1 }

/-- The number the next return-buffer entry of the warp takes. -/
def Cx.nextSeq (c : Cx) : Nat := match c.s.m.warp? c.is.blk c.is.warp with | some w => w.nextSeq | none => 0

/-- R104, R105: a long result known at issue, into whole registers from d up. -/
def Cx.long (c : Cx) (d : Nat) (vs : List RVal) : Cx :=
  c.enter ((List.range vs.length).map fun i => .reg (d + i) c.fid fullBits) .value vs false []

/-- The PC a replay of this instruction starts at: its prefix when it has one. -/
def Issue.replayPc (i : Issue) : PC := if i.pfx = 0 then i.here else ⟨i.here.pk, i.here.sl - 1⟩

/-- R173 step 2: the lanes that missed a page park at the word; the others go on. -/
def Cx.park (c : Cx) (misses : List (Nat × Nat)) (access place : Nat) : Cx :=
  if misses.isEmpty then c
  else
    let mask : Mask := misses.foldl (fun k p => k ||| bit p.1) 0
    let r := c.s.m.missAll c.b [] misses access place
    let m1 := r.1.updLanes c.is.blk c.is.warp mask fun l => { l with run := .parked .replay r.2, pc := c.is.replayPc }
    { c with ex := c.ex &&& ~~~mask,
             s := { c.s with m := m1, iss := c.s.iss.map fun i => { i with parked := i.parked ||| mask } } }

/-- R295: lanes already parked at the word wait for further pages, under another kind of access. -/
def Cx.parkMore (c : Cx) (misses : List (Nat × Nat)) (access place : Nat) : Cx :=
  if misses.isEmpty then c
  else
    let mask : Mask := misses.foldl (fun k p => k ||| bit p.1) 0
    c.upd fun m =>
      let had := match m.warp? c.is.blk c.is.warp with
        | some w => (lanesOf mask).flatMap fun l => match (w.lane l).run with | .parked _ recs => recs | _ => []
        | none => []
      let r := m.missAll c.b had misses access place
      r.1.updLanes c.is.blk c.is.warp mask fun l => match l.run with | .parked a recs => { l with run := .parked a (recs ++ r.2) } | _ => l

/-- R173: PROT is logged with its addresses before it traps. -/
def Cx.protTrap (c : Cx) (sub va : Nat) (pa : Option Nat) (mask : Mask) : State :=
  let base := c.is.base.log (Mach.blockLog c.b 0x06 sub 0 (some c.is.warp) (some va) pa (some c.is.here) 0) none
  Cx.trap { c with is := { c.is with base := base } } 0x06 sub va mask.toNat

/-- R287: trap a verdict's cause. -/
def Cx.badTrap (c : Cx) (cause sub va : Nat) (pa : Option Nat) (mask : Mask) : State :=
  if cause = 0x06 then c.protTrap sub va pa mask else c.trap cause sub va mask.toNat

/-- R173: check lanes, trap or park, and go on with the accesses of the lanes that remain. -/
def Cx.checked (c : Cx) (rs : List LaneRes) (access place : Nat) (k : Cx → List (Access × PteRef × Bool × Bool) → State) : State :=
  match verdict rs with
  | .trap cause sub va pa mask => c.badTrap cause sub va pa mask
  | .go accs misses =>
    let c1 := c.park misses access place
    if accs.isEmpty then c1.s else k c1 accs

/-- R173: check lanes and trap or park; what a word does beside its accesses it does even when every lane has parked. -/
def Cx.checkedAll (c : Cx) (rs : List LaneRes) (access place : Nat) (k : Cx → List (Access × PteRef × Bool × Bool) → State) : State :=
  match verdict rs with
  | .trap cause sub va pa mask => c.badTrap cause sub va pa mask
  | .go accs misses => k (c.park misses access place) accs

/-- R75: do the named registers all carry tag U. -/
def Cx.allU (c : Cx) (rs : List Nat) : Bool := rs.all fun r => (c.reg r).isU

/-- R102: Exec of a word under its guard. -/
def Issue.exec (i : Issue) (w : Warp) (h : Hdr) : Mask :=
  let p := w.pred h.gp.toNat
  (if h.gn then ~~~p else p) &&& i.lanes &&& ~~~i.parked &&& w.liveLanes

/-- The frame of every encoded word: no effect with an empty Exec (R102, R336); FRAME, sub-cause 0x01, for a named register outside the frame (R69); else the word's own meaning. -/
def State.word (s : State) (h : Hdr) (regs : List Nat) (k : Cx → State) : Host.Outcome State Fault Refusal :=
  match s.iss with
  | none => .next s
  | some i =>
    match i.base.block? i.blk, i.base.warp? i.blk i.warp with
    | some b, some w =>
      let ex := i.exec w h
      if ex = 0 then .next s
      else
        let fid := (w.lane (lowest ex)).fid
        let c : Cx := { s := s, is := i, b := b, w := w, ex := ex, fid := fid }
        let size := match w.frame? fid with | some f => f.size | none => 0
        if regs.any fun r => r < 56 && size ≤ r then .next (c.trap 0x0B 1 0 0)
        else .next (k c)
    | _, _ => .fault .badIssue

/-- An event acts on the machine alone. -/
def State.event (s : State) (f : Mach → Mach) : Host.Outcome State Fault Refusal := .next { s with m := f s.m }

end Sys2Proof.Machine
end

