-- ==== Sys2Proof/Machine/Operands.lean ====
section
/-! DEFINITION. Operand forms (R68, R113, R116), the tag arithmetic of R73, and the shapes of short and long register results. -/

namespace Sys2Proof.Machine

/-- R113: the second operand of an integer word: register b, or the immediate b when M = 1 (an immediate counts as U, R73). -/
def Cx.opB (c : Cx) (b : BitVec 6) (m : Bool) : RVal := if m then .u (b.setWidth 32) else c.reg b.toNat

/-- The registers the second operand names. -/
def regsB (b : BitVec 6) (m : Bool) : List Nat := if m then [] else [b.toNat]

/-- The registers a pair second operand names. -/
def pairB (b : BitVec 6) (m : Bool) : List Nat := if m then [] else [b.toNat, b.toNat + 1]

/-- The two registers of a pair. -/
def pairRegs (r : BitVec 6) : List Nat := [r.toNat, r.toNat + 1]

/-- R116: a bit of the payload; 0 without a PFX. -/
def pfBit (pf : Option (BitVec 23)) (i : Nat) : Bool := match pf with | some p => p.getLsbD i | none => false

/-- R116: a field of the payload; 0 without a PFX. -/
def pfField (pf : Option (BitVec 23)) (lo n : Nat) : Nat := match pf with | some p => p.toNat / 2 ^ lo % 2 ^ n | none => 0

/-- R116, R358: the third source: payload bits 13..8 with CE = 1, else d. -/
def thirdReg (pf : Option (BitVec 23)) (d : BitVec 6) : Nat := if pfBit pf 14 then pfField pf 8 6 else d.toNat

/-- R71: base and stride of a U or A value; a G value has none. -/
def RVal.line (v : RVal) : Option (Word × Word) :=
  match v with
  | .u x => some (x, 0)
  | .a b s => some (b, s)
  | .g _ => none

/-- R73: IADD, IADDI and ISUB: U and A stay affine, any G gives G. -/
def RVal.addLike (W : Nat) (f : Word → Word → Word) (x y : RVal) : RVal :=
  match x.line, y.line with
  | some (b, s), some (b', s') => RVal.affine (f b b') (f s s')
  | _, _ => RVal.lanes W fun l => f (x.get l) (y.get l)

/-- R73: IMUL: U by U is U, A by U scales base and stride, anything else is G. -/
def RVal.mulLike (W : Nat) (x y : RVal) : RVal :=
  match x, y with
  | .u p, .u q => .u (p * q)
  | .a b s, .u v => RVal.affine (b * v) (s * v)
  | .u v, .a b s => RVal.affine (b * v) (s * v)
  | _, _ => RVal.lanes W fun l => x.get l * y.get l

/-- R408: the shift-left rule: a count of 32 or more gives 0. -/
def shlWord (x n : Word) : Word := if 32 ≤ n.toNat then 0 else x <<< n.toNat

/-- R73: SHL: U by U is U, A by U shifts base and stride, anything else is G. -/
def RVal.shlLike (W : Nat) (x y : RVal) : RVal :=
  match x, y with
  | .u p, .u n => .u (shlWord p n)
  | .a b s, .u n => RVal.affine (shlWord b n) (shlWord s n)
  | _, _ => RVal.lanes W fun l => shlWord (x.get l) (y.get l)

/-- R73, per-lane row: a short result each lane computes from its own sources. -/
def Cx.map2 (c : Cx) (d : BitVec 6) (x y : RVal) (f : Word → Word → Word) : Cx :=
  c.short d.toNat (RVal.perLane c.W [x, y] fun l => f (x.get l) (y.get l))

def Cx.map1 (c : Cx) (d : BitVec 6) (x : RVal) (f : Word → Word) : Cx :=
  c.short d.toNat (RVal.perLane c.W [x] fun l => f (x.get l))

/-- R73: the two registers of a 64-bit result: both U when every source register is U, else both G. -/
def pairVals (W : Nat) (srcs : List RVal) (f : Nat → BitVec 64) : List RVal :=
  [RVal.perLane W srcs fun l => lo32 (f l), RVal.perLane W srcs fun l => hi32 (f l)]

/-- A short 64-bit result into the pair d. -/
def Cx.short64 (c : Cx) (d : BitVec 6) (srcs : List RVal) (f : Nat → BitVec 64) : Cx :=
  match pairVals c.W srcs f with
  | [x, y] => (c.short d.toNat x).short (d.toNat + 1) y
  | _ => c

/-- The two register values of a pair. -/
def Cx.pairSrc (c : Cx) (r : BitVec 6) : List RVal := [c.reg r.toNat, c.reg (r.toNat + 1)]

/-- R373, R376: the second operand of a 64-bit word as 64 bits: the pair b, or the immediate. -/
def Cx.pairOpB (c : Cx) (b : BitVec 6) (m : Bool) (l : Nat) : BitVec 64 := if m then b.setWidth 64 else c.pair b.toNat l

def Cx.pairSrcB (c : Cx) (b : BitVec 6) (m : Bool) : List RVal := if m then [] else c.pairSrc b

/-- R127: the rounding mode and FTZ bit of FPMODE. -/
def Cx.rm (c : Cx) : Nat := (c.is.fpmode.extractLsb' 0 2).toNat
def Cx.ftz (c : Cx) : Bool := c.is.fpmode.getLsbD 2

/-- R132: the OR of a flag word over the lanes of Exec. -/
def Cx.orFlags (c : Cx) (f : Nat → Word) : Word := c.lanes.foldl (fun k l => k ||| f l) 0

/-- R113: an f32 second operand: register bits, or the immediate converted exactly. -/
def Cx.f32B (c : Cx) (b : BitVec 6) (m : Bool) : RVal := if m then .u (BitVec.ofNat 32 (f32.ofNat b.toNat)) else c.reg b.toNat

/-- R113: an f64 second operand. -/
def Cx.f64B (c : Cx) (b : BitVec 6) (m : Bool) (l : Nat) : BitVec 64 :=
  if m then BitVec.ofNat 64 (f64.ofNat b.toNat) else c.pair b.toNat l

/-- R126, R371: one binary operation on both halves of two words, with the flags of both. -/
def halves (f : Nat → Nat → Nat → Nat × Word) (x y z : Word) : Word × Word :=
  let e (w : Word) (i : Nat) : Nat := (w.extractLsb' (16 * i) 16).toNat
  let r0 := f (e x 0) (e y 0) (e z 0)
  let r1 := f (e x 1) (e y 1) (e z 1)
  (BitVec.ofNat 32 (r0.1 % 65536 + 65536 * (r1.1 % 65536)), r0.2 ||| r1.2)

end Sys2Proof.Machine
end

