-- ==== Sys2Proof/Machine/Stores.lean ====
section
/-! DEFINITION. Stores of a word into the block's store buffer with its quota (R178, R182), and the accesses a thread makes to its own local memory (R86, R150). -/

namespace Sys2Proof.Machine

/-- R178, R182: the stores of a word in order, each a virtual address, a key and bytes; false when the quota leaves one of them no room. -/
def Mach.storeAll (id : Nat) : List (Nat × Nat × List Byte) → Mach → Mach × Bool
  | [], m => (m, true)
  | (va, key, bs) :: rest, m =>
    let m1 := m.bufferStore id va key bs
    match m1.block? id with
    | some b => if b.occupancy ≤ b.quota * 1024 then Mach.storeAll id rest m1 else (m1, false)
    | none => (m1, true)

/-- R182: the word waits for the occupancy to fall; what the overflow released stays released. -/
def Cx.waitRoom (c : Cx) : State := c.stallWith fun m => m.makeRoom c.is.blk

/-- R182: put a word's stores into the buffer, then go on. -/
def Cx.stores (c : Cx) (items : List (Nat × Nat × List Byte)) (k : Cx → State) : State :=
  let r := Mach.storeAll c.is.blk items c.s.m
  if r.2 then k (c.upd fun _ => r.1) else c.waitRoom

/-- R150: the check of an access to a lane's own local memory. -/
def Cx.localAccess (c : Cx) (l off size : Nat) (need : Need) : LaneRes :=
  c.is.base.checkOne c.b.ctx { lane := l, va := c.is.base.localVa c.b c.w l off, size := size, need := need }

/-- R86, R402: accesses to the return stack: PROT or BOUNDS traps RSTACK, sub-cause 0x02; PAGE parks the lane. -/
def Cx.stackChecked (c : Cx) (rs : List LaneRes) (k : Cx → List (Access × PteRef × Bool × Bool) → State) : State :=
  match verdict rs with
  | .trap _ _ va _ _ => c.trap 0x0C 2 va 0
  | .go accs misses =>
    let c1 := c.park misses 32 c.b.die
    if c1.ex = 0 then c1.s else k c1 accs

/-- R86: the 16 bytes of a spilled return entry. -/
def RetEnt.bytes (e : RetEnt) : List Byte := leBytes 8 e.addr ++ leBytes 1 e.fid ++ zeros 7

/-- R86: a return entry as its slot holds it. -/
def RetEnt.ofBytes (bs : List Byte) : RetEnt := { addr := fieldAt bs 0 8, fid := fieldAt bs 8 1 }

end Sys2Proof.Machine
end

