-- ==== Sys2Proof/Machine/Access.lean ====
section
/-! DEFINITION. Addresses and checks of the memory words (R148 to R151, R377 to R381, R414, R415): global, block-shared and thread-local accesses, the stash (R162), home-die hints (R174), and the return-buffer entry of a load. -/

namespace Sys2Proof.Machine

/-- R116, R377: the offset of a memory word in access-size units; `hint` marks the global loads, whose payload bit 22 is H. -/
def memOff (hint : Bool) (pf : Option (BitVec 23)) (o : BitVec 4) : Nat :=
  match pf with
  | none => o.toNat
  | some p => if hint && p.getLsbD 22 then p.toNat % 2 ^ 19 * 16 + o.toNat else p.toNat * 16 + o.toNat

/-- R174: the placement die of a load's PAGE record: the hint when it names a live die, else the issuing die. -/
def Cx.place (c : Cx) (pf : Option (BitVec 23)) : Nat :=
  match pf with
  | none => c.b.die
  | some p => if p.getLsbD 22 && c.is.base.dieLive (p.toNat / 2 ^ 19 % 8) then p.toNat / 2 ^ 19 % 8 else c.b.die

/-- R378: the effective address of a global form in lane l. -/
def Cx.ea (c : Cx) (a : BitVec 6) (off size l : Nat) : Nat := ((c.pair a.toNat l).toNat + off * size) % 2 ^ 64

/-- R156, R162: is a page excluded from the L1: another package's, NC, host bias, or MMIO. -/
def Cx.excluded (c : Cx) (key : Nat) (nc hb : Bool) : Bool := nc || hb || isMmio key || keyPkg key != c.is.base.rmap.pkg

/-- R148, R151, R162, R171: check one lane's global access; a stash-mapped address needs a page the stash can fill. -/
def Cx.checkGlob (c : Cx) (l va size : Nat) (need : Need) : LaneRes :=
  match c.b.mapAt va with
  | none => c.is.base.checkOne c.b.ctx { lane := l, va := va, size := size, need := need }
  | some _ =>
    match c.is.base.checkOne c.b.ctx { lane := l, va := va, size := size, need := { need with r := true } } with
    | .ok x pte nc hb =>
      (match x.loc with
       | .glob k => if c.excluded k nc hb then .bad l va 0x06 5 (some (keyPa k)) else .ok x pte nc hb
       | .shared _ => .ok x pte nc hb)
    | r => r

/-- R149: the bytes of the shared window, on both cores of a paired block. -/
def Block.shTotal (b : Block) : Nat := b.shsize * b.sides.length

/-- R149, R161: the virtual address a stash-window offset is mapped to. -/
def Block.stashVa (b : Block) (o : Nat) : Option Nat :=
  if o < b.shTotal ∨ b.shTotal + b.stsize * b.sides.length ≤ o then none
  else
    let side := (o - b.shTotal) / b.stsize
    let off := (o - b.shTotal) % b.stsize
    (b.maps.find? fun p => p.side == side && p.off ≤ off && off < p.off + p.len).map fun p => p.base + (off - p.off)

/-- R149, R151, R381: check one lane's access to the block-shared space: ALIGN before BOUNDS, in the order R381 lists them (log entry 30). -/
def Cx.checkShared (c : Cx) (l o size : Nat) (need : Need) : LaneRes :=
  if o % size ≠ 0 then .bad l o 0x04 2 none
  else if o + size ≤ c.b.shTotal then .ok { lane := l, va := o, loc := .shared o, size := size, ops := [] } PteRef.absent false false
  else
    match c.b.stashVa o with
    | some va => c.checkGlob l va size need
    | none => .bad l o 0x07 2 none

/-- R150, R151, R381: check one lane's thread-local access. -/
def Cx.checkLocal (c : Cx) (l o size : Nat) (need : Need) : LaneRes :=
  if o % size ≠ 0 then .bad l o 0x04 2 none
  else if c.is.base.sliceSize c.b < o + size then .bad l o 0x07 3 none
  else c.checkGlob l (c.is.base.localVa c.b c.w l o) size need

/-- R171: mark the page entries of accesses that perform; a shared-window access has none. -/
def Cx.touched (c : Cx) (accs : List (Access × PteRef × Bool × Bool)) (write : Bool) : Cx :=
  c.upd fun m => m.touchAll (accs.filter fun a => match a.1.loc with | .glob _ => true | .shared _ => false) write

/-- R377: the registers a size code names from d up. -/
def sizeRegs (d : BitVec 6) (z : Nat) : List Nat := (List.range (if z = 3 then 2 else if z = 4 then 4 else 1)).map fun i => d.toNat + i

/-- R210: for a load served as an RLD: the access with its bytes when unsent channel stores and the block's buffer hold them all; else the unsent operations that must first be sent and acknowledged. -/
def Block.direct (b : Block) (a : Access) : Access × List (Nat × Nat) :=
  match a.loc with
  | .shared _ => (a, [])
  | .glob k =>
    let bytes := (List.range a.size).map fun i => (b.held (k + i), b.unsent (k + i))
    let qs := bytes.filterMap fun p => if p.1.isNone then p.2 else none
    if qs.isEmpty then (a, [])
    else if bytes.all fun p => p.1.isSome || p.2.isSome then
      ({ a with ops := bytes.map fun p => (p.1.getD ((p.2.map fun q => q.2.2).getD 0)).setWidth 32 }, [])
    else (a, (b.chans.zipIdx.flatMap fun c => c.1.queue.filterMap fun e =>
      match e.op with
      | .store _ _ cs => if cs.any fun x => k ≤ x.1 && x.1 < k + a.size && (b.held x.1).isNone then some (c.2, e.first) else none
      | _ => none))

/-- R204: end the merge hold of a channel. -/
def Block.endHold (b : Block) (ch : Nat) : Block :=
  b.updChan ch fun c => { c with queue := c.queue.map fun e => { e with hold := none } }

/-- R154, R379, R403: the return-buffer entry of a load; accesses to another package, and an RLD's, follow R210. -/
def Cx.loadEntry (c : Cx) (dests : List Nat) (ext : Nat) (uni poll acq direct : Bool) (accs : List Access) : Cx :=
  match c.s.m.block? c.is.blk with
  | none => c
  | some b =>
    let far (a : Access) : Bool := direct || match a.loc with | .glob k => keyPkg k != c.s.m.rmap.pkg | .shared _ => false
    let rs := accs.map fun a => if far a then b.direct a else (a, [])
    let waits := (rs.flatMap fun r => r.2).eraseDups
    let c1 := c.updB fun b => waits.foldl (fun b p => b.endHold p.1) b
    c1.enter (dests.map fun r => .reg r c.fid fullBits) (.load ext uni poll (rs.map fun r => r.1) waits) [] acq []

/-- R177, R185: before a store, what must come first performs; while something cannot, the group waits. -/
def Cx.settled (c : Cx) (accs : List Access) (k : Cx → State) : State :=
  let r := c.s.m.settle c.is.blk c.is.warp c.w.nextSeq c.ex accs
  if r.2 then k (c.upd fun _ => r.1) else c.stall

/-- R185: where a FENCE of the group has left lanes of Exec waiting, what it released becomes visible now, ahead of a word that makes accesses or waits itself. -/
def Cx.afterFence (c : Cx) : Cx :=
  let waits := c.lanes.any fun l => match ((c.s.m.warp? c.is.blk c.is.warp).getD c.w |>.lane l).run with | .fence _ => true | _ => false
  if waits then c.upd fun m => m.allVisible c.is.blk else c

/-- R177, R185: what must come before the bytes a word reads or writes at issue, when there are any. -/
def Cx.settledIf (c : Cx) (accs : List Access) (k : Cx → State) : State := if accs.isEmpty then k c else c.settled accs k

/-- R177, R187: a word that reads bytes at issue waits for stores to them that are on their way. -/
def Cx.arrived (c : Cx) (accs : List Access) (k : Cx → State) : State :=
  if accs.any fun a => c.s.m.accInFlight c.now a then c.stall else k c

/-- R185: every earlier access of the lanes performs; while one cannot, the group waits. -/
def Cx.settledAll (c : Cx) (k : Cx → State) : State :=
  let r := c.s.m.settleAll c.is.blk c.is.warp c.ex
  if r.2 then k (c.upd fun _ => r.1) else c.stall

/-- R414: the bytes a store of size code z takes from the registers at s in lane l. -/
def Cx.dataBytes (c : Cx) (s z l : Nat) : List Byte :=
  ((List.range 4).flatMap fun i => if 4 * i < sizeOf z then wordBytes (c.val (s + i) l) else []).take (sizeOf z)

/-- A change that stands although the word traps or consumes an error (a latch taken by its delivery). -/
def Cx.standing (c : Cx) (f : Mach → Mach) : Cx := Cx.upd { c with is := { c.is with base := f c.is.base } } f

/-- R180, R181: a block of the machine releases its whole buffer. -/
def Mach.released (m : Mach) (id : Nat) : Mach := m.updBlock id fun b => b.release m.rmap.pkg m.clock

/-- R180, R181: release the whole buffer. -/
def Cx.release (c : Cx) : Cx := c.upd fun m => m.released c.is.blk

/-- R446: may operations of a word go on ch0: every released entry homed off the die stands there already, and there is room for n more. -/
def Mach.ch0Ready (m : Mach) (b : Block) (n : Nat) : Bool :=
  !(b.sb.any fun e => (e.released || e.tst) && !m.onDie b (e.sector * 128)) && decide ((b.chan 0).queue.length + n ≤ 64)

/-- R181, R446: an operation of an ST.rel or ATOM homed off the die takes its place behind the entries released before it, and goes on ch0 as there is room. -/
def Block.addOwn (b : Block) (key va : Nat) (cells : List Host.Cell) (op : ChOp) (waits : List Nat) : Block :=
  { b with
    sb := b.sb ++ [{ seq := b.sbSeq, sector := sectorOf key, va := va - key % 128, cells := cells, released := true, tst := true, own := some (op, waits) }],
    sbSeq := b.sbSeq + 1 }

/-- R201, R446: what stands in the store buffer for ch0 moves there before an operation that names ch0. -/
def Mach.ch0First (m : Mach) (id ch : Nat) : Mach :=
  if ch = 0 then m.updBlock id fun b => b.ch0Flush m.rmap.pkg m.clock b.sb.length else m

/-- R201, R203, R446: has a channel room for n more entries, those released before it standing on ch0 already. -/
def Mach.chanRoom (m : Mach) (b : Block) (ch n : Nat) : Bool :=
  if ch = 0 then m.ch0Ready b n else decide ((b.chan ch).queue.length + n ≤ 64)

/-- Is an access homed on the block's die. -/
def Mach.near (m : Mach) (b : Block) (a : Access) : Bool := match a.loc with | .glob k => m.onDie b k | .shared _ => true

/-- The key of an access; 0 for a shared one. -/
def Access.key (a : Access) : Nat := match a.loc with | .glob k => k | .shared _ => 0

/-- R203, R446: may an ATOM or ST.rel issue whose operations homed off the die are `far`: every entry released before it stands on ch0, ch0 has room for them, and, for what it reads, what other blocks released has arrived (R187). -/
def Cx.farReady (c : Cx) (read : Bool) (accs : List Access) (k : Cx → State) : State :=
  let c1 := c.upd fun m => m.ch0First c.is.blk 0
  let far := accs.filter fun a => !c1.s.m.near c1.now a
  if far.isEmpty then k c
  else if !c1.s.m.ch0Ready c1.now far.length || (read && far.any (c1.s.m.accInFlight c1.now)) then c.stall
  else k c1

end Sys2Proof.Machine
end

