-- ==== Sys2Proof/Machine/Phase.lean ====
section
/-! DEFINITION. Writes of the shared window and the phase barriers in it (R393 to R395), tag waits (R167, R168) and timeline waits (R193). -/

namespace Sys2Proof.Machine

/-- R395: is a wait for phase p at an object done. -/
def pbDone (sh : Memory) (q : Nat × Nat) : Bool :=
  let d := (leNat (sh.bytes (q.1 + 4) 4) + 2 ^ 32 - q.2) % 2 ^ 32
  decide (1 ≤ d ∧ d ≤ 2 ^ 31)

/-- R395: waiting paths are looked at again when bytes of the window are written. -/
def Block.pbWake (b : Block) : Block :=
  let go (l : Lane) : Lane :=
    match l.run with
    | .pbwait qs => if qs.all (pbDone b.shared) then { l with run := .ready } else l
    | _ => l
  { b with warps := b.warps.map fun w => { w with lanes := w.lanes.map go } }

/-- R183: bytes written to the shared window. -/
def Block.sharedWrite (b : Block) (o : Nat) (bs : List Byte) : Block :=
  Block.pbWake { b with shared := b.shared.setCells (cellsFrom o bs) }

/-- R395: one arrival at an object. -/
def Block.arrivePb (b : Block) (o : Nat) : Block :=
  let expect := leNat (b.shared.bytes (o + 2) 2)
  let pending := leNat (b.shared.bytes o 2)
  let phase := leNat (b.shared.bytes (o + 4) 4)
  if pending ≤ 1 then
    { b with shared := b.shared.setCells (cellsFrom o (leBytes 2 expect ++ leBytes 2 expect ++ leBytes 4 (phase + 1))) }
  else { b with shared := b.shared.setCells (cellsFrom o (leBytes 2 (pending - 1))) }

/-- R167: is a tag mask satisfied: any or every tag of it ready; an empty mask does not wait. -/
def Block.tagsDone (b : Block) (all : Bool) (mask : Nat) : Bool :=
  let ts := (List.range 64).filter fun i => mask.testBit i
  ts.isEmpty || (if all then ts.all fun i => b.ready.getLsbD i else ts.any fun i => b.ready.getLsbD i)

/-- R168, R418: the latched error a completed wait delivers: that of the lowest ready tag of the mask that holds one. -/
def Block.tagLatch (b : Block) (mask : Nat) : Option (Nat × Nat) :=
  (List.range 64).findSome? fun i => if mask.testBit i && b.ready.getLsbD i then b.tagErr.find? fun t => t.1 == i else none

/-- R167, R168: a path waiting at a TWAIT is through when its tags are ready, and issues its group again; a latched error is consumed. -/
def Mach.tagWake (m : Mach) (id : Nat) : Mach :=
  match m.block? id with
  | none => m
  | some b =>
    let waiting (l : Lane) : Option (Nat × PC) :=
      match l.run with
      | .tag all mask p => if b.tagsDone all mask then some (mask, p) else none
      | _ => none
    let hits := b.warps.flatMap fun w => w.lanes.filterMap fun l => (waiting l).bind fun q => (b.tagLatch q.1).map fun t => (w.num, q.2, t)
    let go (l : Lane) : Lane := if (waiting l).isSome then { l with run := .drained } else l
    let m1 := m.updBlock id fun b =>
      { b with warps := b.warps.map fun w => { w with lanes := w.lanes.map go }, tagErr := b.tagErr.filter fun t => !hits.any fun h => h.2.2 == t }
    match hits with
    | [] => m1
    | (w, p, t) :: _ => m1.consume id (some w) 0x0F 2 none (some t.2) (some p) 0

/-- R193: the counter of a context's timeline. -/
def Mach.tlCount (m : Mach) (ctx tl : Nat) : Nat := match (m.ctx? ctx).bind fun c => c.tls[tl]? with | some t => t.count | none => 0

/-- R193: lanes waiting at a TLWAIT go on when their counter reaches their value. -/
def Mach.tlWake (m : Mach) (ctx : Nat) : Mach :=
  let go (l : Lane) : Lane :=
    match l.run with
    | .timeline tl v => if v ≤ m.tlCount ctx tl then { l with run := .ready } else l
    | _ => l
  { m with blocks := m.blocks.map fun b =>
      if b.ctx == ctx then { b with warps := b.warps.map fun w => { w with lanes := w.lanes.map go } } else b }

/-- R208: paths waiting at a CHDRAIN go on when every operation they wait for is acknowledged. -/
def Block.drainWake (b : Block) : Block :=
  let go (l : Lane) : Lane :=
    match l.run with
    | .chdrain ch upto => if (b.chan ch).ackedUpto upto then { l with run := .drained } else l
    | _ => l
  { b with warps := b.warps.map fun w => { w with lanes := w.lanes.map go } }

end Sys2Proof.Machine
end

