-- ==== Sys2Proof/Machine/MemWords.lean ====
section
/-! DEFINITION. Loads (R377 to R381), stores (R414, R415), and the stash and locked-line words (R161 to R163, R416). -/

namespace Sys2Proof.Machine

/-- What a load needs, and a store. -/
def needR : Need := { r := true, w := false, x := false }
def needW : Need := { r := false, w := true, x := false }

/-- R379, R380: a global load of every lane of Exec. -/
def Cx.globalLoad (c : Cx) (d a : BitVec 6) (z : BitVec 3) (o : BitVec 4) (pf : Option (BitVec 23)) (poll acq : Bool) : State :=
  let n := sizeOf z.toNat
  let rs := c.lanes.map fun l => c.checkGlob l (c.ea a (memOff true pf o) n l) n needR
  c.checked rs 1 (c.place pf) fun c accs =>
    ((c.touched accs false).loadEntry (sizeRegs d z.toNat) z.toNat false poll acq false
      (accs.map fun a => { a.1 with cached := !c.excluded a.1.key a.2.2.1 a.2.2.2 })).s

/-- LD, R379. -/
def execLd (h : Hdr) (d a : BitVec 6) (z : BitVec 3) (o : BitVec 4) (pf : Option (BitVec 23)) (s : State) : Host.Outcome State Fault Refusal :=
  s.word h (sizeRegs d z.toNat ++ pairRegs a) fun c => c.globalLoad d a z o pf false false

/-- LD.acq, R379, R380. -/
def execLdAcq (h : Hdr) (d a : BitVec 6) (z : BitVec 3) (o : BitVec 4) (pf : Option (BitVec 23)) (s : State) : Host.Outcome State Fault Refusal :=
  s.word h (sizeRegs d z.toNat ++ pairRegs a) fun c => c.globalLoad d a z o pf false true

/-- LD.poll, R379, R53. -/
def execLdPoll (h : Hdr) (d a : BitVec 6) (z : BitVec 3) (o : BitVec 4) (pf : Option (BitVec 23)) (s : State) : Host.Outcome State Fault Refusal :=
  s.word h (sizeRegs d z.toNat ++ pairRegs a) fun c => c.globalLoad d a z o pf true false

/-- LD.u, R379: one access at the lowest lane's address serves every lane. -/
def execLdU (h : Hdr) (d a : BitVec 6) (z : BitVec 3) (o : BitVec 4) (pf : Option (BitVec 23)) (s : State) : Host.Outcome State Fault Refusal :=
  s.word h (sizeRegs d z.toNat ++ pairRegs a) fun c =>
    if !c.allU (pairRegs a) then c.trap 0x03 0 0 0
    else
      let n := sizeOf z.toNat
      let va := c.ea a (memOff true pf o) n c.low
      let rs := c.lanes.map fun l => c.checkGlob l va n needR
      c.checked rs 1 (c.place pf) fun c accs =>
        ((c.touched accs false).loadEntry (sizeRegs d z.toNat) z.toNat true false false false (accs.map fun a => a.1)).s

/-- The exact offset of a shared or local form in lane l (R381). -/
def Cx.offAt (c : Cx) (a : BitVec 6) (pf : Option (BitVec 23)) (o : BitVec 4) (n l : Nat) : Nat := (c.val a.toNat l).toNat + memOff false pf o * n

/-- LDS, R381. -/
def execLds (h : Hdr) (d a : BitVec 6) (z : BitVec 3) (o : BitVec 4) (pf : Option (BitVec 23)) (s : State) : Host.Outcome State Fault Refusal :=
  s.word h (sizeRegs d z.toNat ++ [a.toNat]) fun c =>
    let n := sizeOf z.toNat
    let rs := c.lanes.map fun l => c.checkShared l (c.offAt a pf o n l) n needR
    c.checked rs 1 c.b.die fun c accs =>
      ((c.touched accs false).loadEntry (sizeRegs d z.toNat) z.toNat false false false false (accs.map fun a => a.1)).s

/-- LDT, R381. -/
def execLdt (h : Hdr) (d a : BitVec 6) (z : BitVec 3) (o : BitVec 4) (pf : Option (BitVec 23)) (s : State) : Host.Outcome State Fault Refusal :=
  s.word h (sizeRegs d z.toNat ++ [a.toNat]) fun c =>
    let n := sizeOf z.toNat
    let rs := c.lanes.map fun l => c.checkLocal l (c.offAt a pf o n l) n needR
    c.checked rs 1 c.b.die fun c accs =>
      ((c.touched accs false).loadEntry (sizeRegs d z.toNat) z.toNat false false false false (accs.map fun a => a.1)).s

/-- R183: the shared-window stores of a word, in lane order. -/
def Cx.sharedStores (c : Cx) (items : List (Nat × List Byte)) : Cx :=
  if items.isEmpty then c else c.updB fun b => items.foldl (fun b p => b.sharedWrite p.1 p.2) b

/-- R415: the ordinary stores of a word: global bytes enter the block's buffer, shared ones the window. -/
def Cx.store (c : Cx) (rs : List LaneRes) (s z : Nat) : State :=
  c.checked rs 2 c.b.die fun c accs =>
    c.settled (accs.map fun a => a.1) fun c =>
      let glob := accs.filterMap fun a => match a.1.loc with | .glob k => some (a.1.va, k, c.dataBytes s z a.1.lane) | .shared _ => none
      let sh := accs.filterMap fun a => match a.1.loc with | .shared o => some (o, c.dataBytes s z a.1.lane) | .glob _ => none
      ((c.touched accs true).sharedStores sh).stores glob fun c => c.s

/-- ST, R415. -/
def execSt (h : Hdr) (r a : BitVec 6) (z : BitVec 3) (o : BitVec 4) (pf : Option (BitVec 23)) (s : State) : Host.Outcome State Fault Refusal :=
  s.word h (sizeRegs r z.toNat ++ pairRegs a) fun c =>
    let n := sizeOf z.toNat
    c.store (c.lanes.map fun l => c.checkGlob l (c.ea a (memOff false pf o) n l) n needW) r.toNat z.toNat

/-- STS, R415. -/
def execSts (h : Hdr) (r a : BitVec 6) (z : BitVec 3) (o : BitVec 4) (pf : Option (BitVec 23)) (s : State) : Host.Outcome State Fault Refusal :=
  s.word h (sizeRegs r z.toNat ++ [a.toNat]) fun c =>
    let n := sizeOf z.toNat
    c.store (c.lanes.map fun l => c.checkShared l (c.offAt a pf o n l) n needW) r.toNat z.toNat

/-- STT, R415. -/
def execStt (h : Hdr) (r a : BitVec 6) (z : BitVec 3) (o : BitVec 4) (pf : Option (BitVec 23)) (s : State) : Host.Outcome State Fault Refusal :=
  s.word h (sizeRegs r z.toNat ++ [a.toNat]) fun c =>
    let n := sizeOf z.toNat
    c.store (c.lanes.map fun l => c.checkLocal l (c.offAt a pf o n l) n needW) r.toNat z.toNat

/-- R181, R415: put one lane's ST.rel behind the released entries of the die. -/
def Block.addRel (b : Block) (waits : List Nat) (va : Nat) (cs : List Host.Cell) : Block :=
  { b with rels := b.rels ++ [{ seq := b.sbSeq, waits := waits, va := va, cells := cs }], sbSeq := b.sbSeq + 1 }

/-- R181, R415: the stores of an ST.rel once its release is made, behind the entries still to become visible: on-die lanes in the block, the others on ch0 behind what was released before them. -/
def Cx.relStores (c : Cx) (s z : Nat) (accs : List Access) : State :=
  let m := c.s.m
  let b := c.now
  let waits := m.unseen b
  let after := m.unperformed b
  let put (b : Block) (a : Access) : Block :=
    let cells := storeCells a.key (c.dataBytes s z a.lane)
    if m.near b a then b.addRel waits a.va cells
    else b.addOwn a.key a.va cells (.store (sectorOf a.key) (a.va - a.key % 128) cells) after
  ((c.updB fun b => accs.foldl put b).upd fun m => (m.ch0First c.is.blk 0).runRels c.is.blk).s

/-- ST.rel, R415. Its lanes' earlier accesses perform first; the release is made although every lane parks. -/
def execStRel (h : Hdr) (r a : BitVec 6) (z : BitVec 3) (o : BitVec 4) (pf : Option (BitVec 23)) (s : State) : Host.Outcome State Fault Refusal :=
  s.word h (sizeRegs r z.toNat ++ pairRegs a) fun c =>
    let n := sizeOf z.toNat
    c.checkedAll (c.lanes.map fun l => c.checkGlob l (c.ea a (memOff false pf o) n l) n needW) 2 c.b.die fun c oks =>
      let accs := oks.map fun a => a.1
      c.settledAll fun c =>
        c.farReady false accs fun c => (c.release.touched oks true).relStores r.toNat z.toNat accs

/-- Do two ranges overlap. -/
def rangesMeet (a n b k : Nat) : Bool := decide (a < b + k ∧ b < a + n)

/-- STASHMAP, R161. DESIGN CHOICE (log entry 75): on a paired block the offset is one of the issuing core's own window, with limit T; the rule does not say whether it counts in the pair's 2T window. -/
def execStashmap (h : Hdr) (d a b : BitVec 6) (s : State) : Host.Outcome State Fault Refusal :=
  s.word h (d.toNat :: pairRegs a ++ [b.toNat]) fun c =>
    let off := (c.val d.toNat c.low).toNat
    let base := (c.pair a.toNat c.low).toNat
    let len := (c.val b.toNat c.low).toNat
    let ms := c.b.maps
    if 2 ^ 52 ≤ base then c.trap 0x07 4 base c.ex.toNat
    else if off % 1024 ≠ 0 || base % 1024 ≠ 0 || len % 1024 ≠ 0 || len = 0 then c.trap 0x04 3 base c.ex.toNat
    else if c.b.stsize < off + len then c.trap 0x07 2 off c.ex.toNat
    else if ms.length = 16 || (ms.any fun p => p.side == c.w.side && rangesMeet off len p.off p.len) ||
        (ms.any fun p => rangesMeet base len p.base p.len) then c.trap 0x07 5 base c.ex.toNat
    else (c.updB fun b => { b with maps := b.maps ++ [{ side := c.w.side, off := off, base := base, len := len, undo := [] }] }).s

/-- STASHMAP.un, R161: dirty sectors go home and stay, and the mapping is gone. -/
def execStashmapUn (h : Hdr) (d : BitVec 6) (s : State) : Host.Outcome State Fault Refusal :=
  s.word h [d.toNat] fun c =>
    let off := (c.val d.toNat c.low).toNat
    let hit (p : StashMap) : Bool := p.side == c.w.side && p.off == off
    if !c.b.maps.any hit then c.trap 0x07 5 off c.ex.toNat
    else (c.updB fun b => { b with maps := b.maps.filter fun p => !hit p }).s

/-- R163: the lines locked on a core, by every block in both banks. DESIGN CHOICE (log entry 76): a line locked by two blocks of a core counts once toward 64, and a paired block holds its lines for each core; the rule says neither. -/
def Mach.coreLocks (m : Mach) (c : Nat) : List Nat :=
  (m.blocks.flatMap fun b => b.sides.flatMap fun s => if b.onCores && s.core == c then s.locks else []).eraseDups

/-- R163: check one lane's line: translated as a load, on a page the L1 may cache. -/
def Cx.checkLine (c : Cx) (l va : Nat) : LaneRes :=
  match c.is.base.checkOne c.b.ctx { lane := l, va := va, size := 1, need := needR } with
  | .ok x pte nc hb => if c.excluded x.key nc hb then .bad l va 0x06 5 (some (keyPa x.key)) else .ok x pte nc hb
  | r => r

/-- STASHPIN, R163; the block holds the lines it locked from the issuing core (DESIGN CHOICE, log entry 76). It fetches no data and sets no A bit (DESIGN CHOICE, log entry 100: R171 does not say whether it is an access). -/
def execStashpin (h : Hdr) (a : BitVec 6) (s : State) : Host.Outcome State Fault Refusal :=
  s.word h (pairRegs a) fun c =>
    c.checked (c.lanes.map fun l => c.checkLine l (c.pair a.toNat l).toNat) 1 c.b.die fun c1 accs =>
      let mine := (c.b.side c.w.side).locks
      let new := (accs.map fun x => x.1.key / 1024).eraseDups.filter fun k => !mine.contains k
      let all := c1.s.m.coreLocks (c.b.side c.w.side).core
      let low := match accs with | x :: _ => x.1.va | [] => 0
      if 64 < ((all ++ new).eraseDups).length then c.trap 0x07 6 low c.ex.toNat
      else (c1.updB fun b => b.updSide c.w.side fun s => { s with locks := s.locks ++ new }).s

/-- STASHPIN.un, R163. -/
def execStashpinUn (h : Hdr) (a : BitVec 6) (s : State) : Host.Outcome State Fault Refusal :=
  s.word h (pairRegs a) fun c =>
    c.checked (c.lanes.map fun l => c.checkLine l (c.pair a.toNat l).toNat) 1 c.b.die fun c1 accs =>
      let gone := accs.map fun x => x.1.key / 1024
      (c1.updB fun b => b.updSide c.w.side fun s => { s with locks := s.locks.filter fun k => !gone.contains k }).s

end Sys2Proof.Machine
end

