-- ==== Sys2Proof/Machine/Atomic.lean ====
section
/-! DEFINITION. ATOM (R338 to R340, R183, R185): where each lane's step is made, its release and acquire, and the operations it puts on ch0. -/

namespace Sys2Proof.Machine

/-- R338: the size in bytes of an atomic by RATOM operation code. -/
def atomSize (op : Nat) : Nat := if op = 1 ∨ op = 3 ∨ op = 13 then 8 else 4

/-- R338, R399: the number of operand registers of an atomic. -/
def atomSrcs (op : Nat) : Nat := if op = 13 then 4 else if op = 1 ∨ op = 3 ∨ op = 12 then 2 else 1

/-- The registers of an atomic's operands. -/
def atomRegs (op r : Nat) : List Nat := (List.range (atomSrcs op)).map fun i => r + i

/-- The registers of an atomic's result. -/
def atomDests (op d : Nat) : List Nat := if atomSize op = 8 then [d, d + 1] else [d]

/-- R338, R340, R399: check one lane's atomic: aligned, readable and writable, with no home on the FE. -/
def Cx.checkAtom (c : Cx) (l va size : Nat) : LaneRes :=
  match c.checkGlob l va size { r := true, w := true, x := false } with
  | .ok x pte nc hb => if (homeOf x.key).2 = 8 then .bad l va 0x06 7 (some (keyPa x.key)) else .ok x pte nc hb
  | r => r

/-- The accesses of an atomic with their operand words. -/
def Cx.withOps (c : Cx) (op r : Nat) (accs : List (Access × PteRef × Bool × Bool)) : List Access :=
  accs.map fun a => { a.1 with ops := (atomRegs op r).map fun i => c.val i a.1.lane }

/-- R201, R399: the atomics of lanes on a channel, in lane order. -/
def Block.putAtoms (b : Block) (ch op warp seq : Nat) (accs : List Access) : Block :=
  accs.foldl (fun b a => b.enqueue ch (homeOf a.key) (.atom op a.key a.va a.ops warp seq a.lane) none []) b

/-- R181, R339, R446: the atomics of lanes homed off the die, in lane order, behind what was released before them and the released entries that must be visible first. -/
def Mach.farAtoms (m : Mach) (id op warp seq : Nat) (waits : List Nat) (accs : List Access) : Mach :=
  m.updBlock id fun b =>
    let b1 := accs.foldl (fun (b : Block) a => b.addOwn a.key a.va [] (.atom op a.key a.va a.ops warp seq a.lane) waits) b
    b1.ch0Flush m.rmap.pkg m.clock b1.sb.length

/-- R180: single-entry releases of the sectors an atomic or a TST touches. -/
def Cx.releaseSectors (c : Cx) (secs : List Nat) : Cx :=
  c.upd fun m => m.updBlock c.is.blk fun b => secs.foldl (fun b s => b.releaseOne m.rmap.pkg m.clock s) b

/-- The lanes of a list of accesses. -/
def maskOfAccs (as : List Access) : Mask := as.foldl (fun k a => k ||| bit a.lane) 0

/-- R181, R187, R340: an ATOM with some lanes homed off the die: those go on ch0, a release behind the entries it released; the others perform at issue, all that the block has released on its die being visible. -/
def Cx.mixedAtom (c : Cx) (op : Nat) (dests : List Nat) (acq rel : Bool) (accs : List Access) : State :=
  let far := accs.filter fun a => !c.s.m.near c.now a
  let here := accs.filter fun a => c.s.m.near c.now a
  let m1 := if here.isEmpty then c.s.m else c.s.m.allVisible c.is.blk
  let waits := if rel then (match m1.block? c.is.blk with | some b => m1.unperformed b | none => []) else []
  let r := Mach.atomLanes op here m1 [] 0 []
  let seq := c.nextSeq
  let m2 := r.1.updBlock c.is.blk fun b => { b with sealed := b.sealed || !here.isEmpty }
  let c1 := c.upd fun _ => m2.farAtoms c.is.blk op c.is.warp seq waits far
  let c2 := c1.enter (dests.map fun d => .reg d c.fid fullBits) (.chan (maskOfAccs far) accs)
    (resVals c.W dests.length false r.2.1) acq []
  (c2.updW fun w =>
    { w with rb := modWhere w.rb (fun e => e.seq == seq) fun e =>
        { e with
          fail := r.2.2.1,
          fault := match r.2.2.2 with
            | [] => none
            | a :: _ => some (poisonFault (maskOfAccs r.2.2.2) a) } }).s

/-- R339, R340: an ATOM with ordering `ord`: 1 acquire, 2 release, 3 both. -/
def Cx.atom (c : Cx) (op d b : Nat) (a : BitVec 5) (ord : Nat) : State :=
  let size := atomSize op
  c.checked (c.lanes.map fun l => c.checkAtom l (c.pair (2 * a.toNat) l).toNat size) 8 c.b.die fun c oks =>
    let accs := c.withOps op b oks
    let acq := ord % 2 = 1
    let rel := 2 ≤ ord
    let dests := atomDests op d
    let act (c : Cx) : State :=
      c.farReady true accs fun c =>
        let c0 := if rel then c.release else c.releaseSectors (accs.map fun x => sectorOf x.key)
        let c1 := c0.touched oks true
        if accs.all fun x => c1.s.m.near c1.now x then
          (c1.enter (dests.map fun r => .reg r c.fid fullBits) (.atom op accs) [] acq (if rel then c1.s.m.unperformed c1.now else [])).s
        else c1.mixedAtom op dests acq rel accs
    if rel then c.settledAll act
    else if accs.all fun x => c.s.m.near c.now x then act c
    else c.settled accs act

/-- The registers an ATOM names. -/
def atomNames (op : Nat) (d : BitVec 6) (a : BitVec 5) (b : BitVec 6) : List Nat :=
  atomDests op d.toNat ++ [2 * a.toNat, 2 * a.toNat + 1] ++ atomRegs op b.toNat

/-- ATOM arith, R338. -/
def execAtomArith (h : Hdr) (d : BitVec 6) (a : BitVec 5) (b : BitVec 6) (u : BitVec 2) (pf : Option (BitVec 23)) (s : State) : Host.Outcome State Fault Refusal :=
  s.word h (atomNames u.toNat d a b) fun c => c.atom u.toNat d.toNat b.toNat a (pfField pf 0 2)

/-- ATOM minmax, R338. -/
def execAtomMinmax (h : Hdr) (d : BitVec 6) (a : BitVec 5) (b : BitVec 6) (u : BitVec 2) (pf : Option (BitVec 23)) (s : State) : Host.Outcome State Fault Refusal :=
  s.word h (atomNames (4 + u.toNat) d a b) fun c => c.atom (4 + u.toNat) d.toNat b.toNat a (pfField pf 0 2)

/-- ATOM bit, R338. -/
def execAtomBit (h : Hdr) (d : BitVec 6) (a : BitVec 5) (b : BitVec 6) (u : BitVec 2) (pf : Option (BitVec 23)) (s : State) : Host.Outcome State Fault Refusal :=
  s.word h (atomNames (8 + u.toNat) d a b) fun c => c.atom (8 + u.toNat) d.toNat b.toNat a (pfField pf 0 2)

/-- ATOM cas, R338. -/
def execAtomCas (h : Hdr) (d : BitVec 6) (a : BitVec 5) (b : BitVec 6) (u : BitVec 2) (pf : Option (BitVec 23)) (s : State) : Host.Outcome State Fault Refusal :=
  s.word h (atomNames (12 + u.toNat) d a b) fun c => c.atom (12 + u.toNat) d.toNat b.toNat a (pfField pf 0 2)

end Sys2Proof.Machine
end

