-- ==== Sys2Proof/Machine/Fetch.lean ====
section
/-! DEFINITION. Instruction fetch (R97, R99, R449), chain groups and their fetch checks (R100, R101, R115), pipes and result classes (R104, R108, R117). -/

namespace Sys2Proof.Machine

/-- R117: the pipe of a major: 0 CT, 1 VA, 2 VB, 3 SF, 4 XL, 5 LS, 6 MX. -/
def pipeOf (op : Nat) : Nat :=
  if [0x1A, 0x1B, 0x1C, 0x3F, 0x40, 0x47, 0x48, 0x49, 0x4A, 0x4B, 0x4C, 0x4E, 0x4F].contains op then 1
  else if 0x44 ≤ op && op ≤ 0x46 then 3
  else if [0x31, 0x32, 0x36, 0x37, 0x38, 0x39, 0x3A].contains op then 4
  else if [0x0D, 0x0E, 0x0F, 0x14, 0x16].contains op || (0x50 ≤ op && op ≤ 0x6C) then 5
  else if 0x6D ≤ op && op ≤ 0x77 then 6
  else if op ≤ 0x15 || op = 0x3B || op = 0x3C then 0
  else 2

/-- R82, R108, R161: the majors that behave as if they carried W = 1. -/
def alwaysWaits (op : Nat) : Bool :=
  [0x03, 0x04, 0x05, 0x06, 0x07, 0x08, 0x09, 0x0A, 0x0B, 0x0C, 0x12, 0x13, 0x14, 0x15, 0x16, 0x5E].contains op

/-- R119: the control registers whose CRD is long. -/
def crLong (n : Nat) : Bool := [0x011, 0x012, 0x013, 0x014, 0x019, 0x01A, 0x020, 0x021, 0x063, 0x064, 0x065].contains n

/-- R104: does a word have a long result. -/
def isLong (w : Word) : Bool :=
  let op := (opOf w).toNat
  if op = 0x3B then crLong (w.extractLsb' 0 13).toNat
  else
    [0x14, 0x31, 0x32, 0x36, 0x37, 0x38, 0x39, 0x3A, 0x44, 0x45, 0x46, 0x50, 0x51, 0x52, 0x53, 0x56, 0x58, 0x5A, 0x5B,
     0x5C, 0x5D, 0x60, 0x62, 0x63, 0x66, 0x6A, 0x6C, 0x70].contains op

/-- One instruction of a chain group: its word, the word of its prefix (0 without one) and the word's own place. -/
structure GWord where
  instr : Instr
  word  : Word
  pfx   : Word
  pc    : PC
  deriving DecidableEq, Repr

def GWord.op (g : GWord) : Nat := (opOf g.word).toNat

/-- What fetching a chain group gives: the group and the PC after it; a failed check with the word at fault; a missing page; a PROT and the word whose fetch met it. -/
inductive Group where
  | ok (ws : List GWord) (next : PC)
  | bad (cause sub : Nat) (word pfx : Word) (pc : PC)
  | miss (va : Nat)
  | prot (sub va : Nat) (pa : Option Nat) (pc : PC)
  deriving DecidableEq, Repr

/-- R97, R148: read the word at a place of the segment at `entry` with X permission. R449 leaves open when a store to code reaches the fetches of a running grid; DESIGN CHOICE (log entry 70): a fetch reads memory, so the new word is fetched as soon as the store has landed. -/
def Mach.fetchWord (m : Mach) (ctx entry : Nat) (pc : PC) : Except Group Word :=
  let va := entry + pc.offset
  if 2 ^ 52 ≤ va then .error (.bad 0x07 4 0 0 pc)
  else
    match m.translate ctx va { r := false, w := false, x := true } with
    | .ok k _ _ _ => .ok (BitVec.ofNat 32 (leNat (m.memBytes k 4)))
    | .page => .error (.miss va)
    | .prot s pa => .error (.prot s va pa pc)

/-- R101: check one instruction against those before it in its group; `slot` is its word's slot. -/
def groupCheck (acc : List GWord) (g : GWord) : Option (Nat × Nat) :=
  if g.word.getLsbD 31 && g.pc.sl == 2 then some (0x02, 0)
  else if acc.any fun a => pipeOf a.op == pipeOf g.op then some (0x02, 0)
  else if g.word.getLsbD 30 && !acc.isEmpty then some (0x02, 0)
  else none

/-- R100, R101, R115: take the instruction at a slot, then go on while it chains; n bounds the slots. -/
def Mach.groupFrom (m : Mach) (ctx entry pk : Nat) (acc : List GWord) : Nat → Nat → Group
  | _, 0 => .bad 0x02 0 0 0 ⟨pk, 0⟩
  | sl, n + 1 =>
    let at_ (s : Nat) : Except Group Word := m.fetchWord ctx entry ⟨pk, s⟩
    let take (host pfxw : Word) (pf : Option (BitVec 23)) (hs : Nat) : Group :=
      match decodeWord host pf with
      | .error _ => .bad 0x01 1 host pfxw ⟨pk, hs⟩
      | .ok i =>
        if !i.wf then .bad 0x01 1 host pfxw ⟨pk, hs⟩
        else
          let g : GWord := { instr := i, word := host, pfx := pfxw, pc := ⟨pk, hs⟩ }
          match groupCheck acc g with
          | some (c, s) => .bad c s host pfxw ⟨pk, hs⟩
          | none =>
            if host.getLsbD 31 then Mach.groupFrom m ctx entry pk (acc ++ [g]) (hs + 1) n
            else .ok (acc ++ [g]) (if hs = 2 then ⟨pk + 1, 0⟩ else ⟨pk, hs + 1⟩)
    match at_ sl with
    | .error g => g
    | .ok w =>
      if isPfx w then
        if w.extractLsb' 30 2 != 0 || sl = 2 then .bad 0x01 1 w 0 ⟨pk, sl⟩
        else
          match at_ (sl + 1) with
          | .error g => g
          | .ok v =>
            if isHost (opOf v) && (payloadOf w &&& ~~~hostMask (opOf v)) == 0 then take v w (some (payloadOf w)) (sl + 1)
            else .bad 0x01 1 w 0 ⟨pk, sl⟩
      else take w 0 none sl

/-- R97 to R101: fetch the chain group at a PC. DESIGN CHOICE (log entry 93): where the word before the PC carries C = 1 (a BRX target, a rewritten resume slot) the group starts at the PC; R100 speaks only of the word after one without C. -/
def Mach.fetchGroup (m : Mach) (ctx entry : Nat) (pc : PC) : Group :=
  if lastPacket < pc.pk then .bad 0x07 1 0 0 ⟨lastPacket + 1, 0⟩
  else m.groupFrom ctx entry pc.pk [] pc.sl 3

/-- R102: Exec of a group's word over a path. -/
def GWord.exec (g : GWord) (w : Warp) (lanes : Mask) : Mask :=
  let h := hdrOf g.word
  let p := w.pred h.gp.toNat
  (if h.gn then ~~~p else p) &&& lanes &&& w.liveLanes

/-- R107: the uncommitted long words of the lanes: the entries of MX words are of class T and do not count (R104). -/
def Warp.longs (w : Warp) (lanes : Mask) : Nat := ((w.pending lanes).filter fun e => isLong e.word).length

/-- R105, R107 to R109, R400: does a group wait for and commit the path's long results before it issues. DESIGN CHOICE (log entry 71): a long word of the group counts toward the seventeenth whatever its guard, though one whose Exec turns out empty enters no entry; R107 does not speak of it. -/
def groupWaits (w : Warp) (lanes : Mask) (ws : List GWord) : Bool :=
  let first := match ws with | g :: _ => g.word.getLsbD 30 | [] => false
  let reconv (g : GWord) : Bool :=
    match g.instr with
    | .reconv _ k => (match w.sites[k.toNat]? with | some s => (g.exec w lanes &&& s.expected) != 0 | none => false)
    | _ => false
  let longs := (ws.filter fun g => isLong g.word).length
  first || ws.any (fun g => alwaysWaits g.op || reconv g) || (decide (0 < longs) && decide (16 < w.longs lanes + longs))

end Sys2Proof.Machine
end

