-- ==== Sys2Proof/Machine/Issue.lean ====
section
/-! DEFINITION. Issuing a path's chain group (R46 to R51, R101, R103, R110): readiness, the marker's commit, the issue record, and what happens when the group is done. -/

namespace Sys2Proof.Machine

/-- R46: what a path offers: its chain group, or a trap waiting for delivery (R289 step 1). -/
inductive Offer where
  | group (g : Group)
  | trap (t : Trap)
  deriving DecidableEq, Repr

/-- R46, R308: is a path ready, and with what; `gate` holds back words whose unit is busy (R268), and a leader whose load-value queue is full issues nothing but a group that first commits. -/
def Mach.offer (m : Mach) (gate : Mach → Block → Warp → Mask → GWord → Bool) (b : Block) (w : Warp) (p : Path) : Option Offer :=
  let l := w.lane (lowest p.lanes)
  let asGroup : Option Offer :=
    let g := m.fetchGroup b.ctx b.entry l.pc
    match g with
    | .ok ws _ =>
      let waits := groupWaits w p.lanes ws
      if waits && !w.filled p.lanes || !waits && w.queueFull then none
      else if ws.all (fun x => gate m b w p.lanes x) then some (.group g) else none
    | _ => some (.group g)
  match l.run with
  | .ready => asGroup
  | .granted _ => asGroup
  | .drained => asGroup
  | .trapping t => if w.filled p.lanes then some (.trap t) else none
  | _ => none

/-- The pipes a group needs. -/
def Offer.pipes : Offer → List Nat
  | .group (.ok ws _) => ws.map fun g => pipeOf g.op
  | _ => []

/-- The issue record of a group about to issue. -/
def Mach.issueOf (m : Mach) (b : Block) (w : Warp) (p : Path) (group npc : PC) (second : Bool) : Issue :=
  { base := m, blk := b.id, warp := w.num, lanes := p.lanes, group := group, npc := npc, here := group, word := 0, pfx := 0,
    second := second, pathid := w.pathIdx (lowest p.lanes), parked := 0,
    fpmode := (match m.front with | some f => f.fpmode | none => w.fpmode),
    smode := match m.front with | some f => f.smode | none => w.fpmode }

/-- R50, R100, R429: the path issues: its lanes stand at the word after the group, its age, aged flag and yield mark are cleared. -/
def Warp.started (w : Warp) (lanes : Mask) (npc : PC) : Warp :=
  let w1 := w.updLanes lanes fun l => { l with pc := npc, run := .ready }
  { w1 with paths := w1.paths.map fun p => if p.lanes == lanes then { p with age := 0, aged := false, yield := false } else p }

/-- R101, R287: a fetch check fails: every active lane of the path traps, whatever the guard. -/
def Mach.fetchTrap (m : Mach) (b : Block) (w : Warp) (p : Path) (cause sub addr : Nat) (word pfx : Word) (pc group : PC) (second : Bool) : Mach :=
  let t : Trap :=
    { cause := cause, sub := sub, commit := false, second := second, pc := pc, rpc := group, group := group, word := word,
      pfx := pfx, addr := addr, mask := p.lanes, detail := if laneDetail cause then p.lanes.toNat else 0,
      pathid := w.pathIdx (lowest p.lanes), mapver := (match m.ctx? b.ctx with | some c => c.mapver | none => 0), time := m.clock }
  (m.trapEntry b.id w.num p.lanes t).grantsFor b w

/-- What becomes of a path chosen to issue: the machine after it (a trap, a park, a commit that left it unready), or a group to run. -/
inductive Start where
  | done (m : Mach)
  | run (m : Mach) (i : Issue) (ws : List GWord)
  deriving DecidableEq, Repr

/-- The PCs of a group's words and of their prefixes. -/
def codeOf (ws : List GWord) : List PC := ws.flatMap fun g => (if g.pfx = 0 then [] else [{ g.pc with sl := g.pc.sl - 1 }]) ++ [g.pc]

/-- The PCs of a packet from one slot to another. -/
def slotsTo (p q : PC) : List PC := ((List.range 3).filter fun s => p.sl ≤ s && s ≤ q.sl).map fun s => ⟨p.pk, s⟩

/-- R97, R101, R105, R110, R171: begin a path's chosen offer. A trap found in the words fetched marks the fetch, but for one R173 excludes. DESIGN CHOICE (log entry 92): the frame of a fetch that meets PROT, or an address outside the segment, holds WORD 0 and PFX 0, the spec giving no value for a word never read. -/
def Mach.start (m : Mach) (b : Block) (w : Warp) (p : Path) (o : Offer) (second : Bool) : Start :=
  let l := w.lane (lowest p.lanes)
  match o with
  | .trap t => .done (m.trapEntry b.id w.num p.lanes t)
  | .group (.bad c s word pfx pc) =>
    let m0 := if laneDetail c then m else m.touchPcs b.ctx b.entry (slotsTo l.pc pc)
    .done (m0.fetchTrap b w p c s (if c = 0x07 then b.entry + pc.offset else 0) word pfx pc (if lastPacket < l.pc.pk then pc else l.pc) second)
  | .group (.prot s va pa pc) =>
    let m1 := m.log (Mach.blockLog b 0x06 s 0 (some w.num) (some va) pa (some pc) 0) none
    .done (m1.fetchTrap b w p 0x06 s va 0 0 pc l.pc second)
  | .group (.miss va) =>
    let r := m.missAll b [] ((lanesOf p.lanes).map fun l => (l, va)) 4 b.die
    .done (r.1.updLanes b.id w.num p.lanes fun l => { l with run := .parked .replay r.2 })
  | .group (.ok ws next) =>
    let waits := groupWaits w p.lanes ws
    let r := if waits then w.commitLanes b.width m.clock p.lanes else (w, none)
    let m1 := m.updWarp b.id w.num fun _ => r.1
    match r.2 with
    | some (e, part) => .done (m1.commitFault b.id w.num e part l.pc second)
    | none =>
      if r.1.queueFull || (lanesOf p.lanes).any (fun k => (r.1.lane k).run != (w.lane k).run) then .done m1
      else
        .run (((m1.updWarp b.id w.num fun x => x.started p.lanes next).markIssued p.lanes).touchPcs b.ctx b.entry (codeOf ws)) { m1.issueOf b r.1 p l.pc next second with code := codeOf ws } ws

/-- The state in which one word of a group executes. -/
def State.atWord (s : State) (g : GWord) : State :=
  { s with iss := s.iss.map fun i => { i with here := g.pc, word := g.word, pfx := g.pfx } }

/-- R84: a grant pass on the bank of a warp, if the machine still holds it. -/
def Mach.grantsOf (m : Mach) (id w : Nat) : Mach :=
  match m.block? id, m.warp? id w with
  | some b, some x => m.grantsFor b x
  | _, _ => m

/-- R46, R47, R84: the group is done: paths split where lanes no longer agree, and lines a granted path gave back unused (it parked) go to the queue. -/
def State.finish (s : State) (id w : Nat) : State :=
  { s with m := (s.m.updWarp id w Warp.regroup).grantsOf id w, iss := none }

/-- R48: among offers, the path with the largest population; the earlier on ties. -/
def biggest (ps : List (Path × Offer)) : Option (Path × Offer) := bestBy (fun p => popc p.1.lanes) ps

/-- R48, R429: the first path. -/
def firstPath (ps : List (Path × Offer)) : Option (Path × Offer) :=
  match ps.find? fun p => p.1.aged with
  | some p => some p
  | none =>
    match ps.filter fun p => !p.1.yield with
    | [] => biggest ps
    | qs => biggest qs

/-- R48: the second path: the largest of the rest, when its pipes are disjoint from the first's. -/
def secondPath (ps : List (Path × Offer)) (first : Path × Offer) : Option (Path × Offer) :=
  match biggest (ps.filter fun p => p.1.lanes != first.1.lanes) with
  | some q => if q.2.pipes.any fun x => first.2.pipes.contains x then none else some q
  | none => none

/-- R50: the ready paths of the warp that do not issue grow older. -/
def Warp.agePaths (w : Warp) (ready : List Mask) (issued : List Mask) : Warp :=
  { w with paths := w.paths.map fun p =>
      if ready.contains p.lanes && !issued.contains p.lanes then { p with age := p.age + 1 } else p }

/-- The offers of a warp's paths, in path order. -/
def Mach.offers (m : Mach) (gate : Mach → Block → Warp → Mask → GWord → Bool) (b : Block) (w : Warp) : List (Path × Offer) :=
  w.paths.filterMap fun p => (m.offer gate b w p).map fun o => (p, o)

end Sys2Proof.Machine
end

