-- ==== Sys2Proof/Machine/Shadow.lean ====
section
/-! DEFINITION. Checked mode's shadow warps (R307 to R310): the shadow re-executes each word its leader issues, in the same step (log entry 10), and every gated word, every control word and every trap is compared with the shadow's. -/

namespace Sys2Proof.Machine

/-- What the machine does with an instruction. -/
abbrev Meaning := Instr → State → Host.Outcome State Fault Refusal

/-- R308: the words a shadow does not issue: those whose results it takes from the queue and that compare nothing, and every MX word but TST. -/
def shadowSkips (op : Nat) : Bool :=
  [0x50, 0x51, 0x52, 0x53, 0x56, 0x58, 0x60, 0x66, 0x6A, 0x6C].contains op || (0x6D ≤ op && op ≤ 0x77 && op != 0x6E)

/-- R309: the words whose leader and shadow must agree at issue: the control words (their PCs, splits and releases; LAUNCH among them), the stores to global memory, to the stash window and to local slices, CPY into the stash, the atomics, the channel operations, and TST; not the phase barriers (R396) nor MAPACK (R383). -/
def shadowCompares (op : Nat) : Bool :=
  (op ≤ 0x16 && !([0x0D, 0x0E, 0x0F, 0x15].contains op)) ||
    [0x54, 0x55, 0x57, 0x59, 0x5A, 0x5B, 0x5C, 0x5D, 0x61, 0x62, 0x63, 0x64, 0x67, 0x68, 0x6E].contains op

/-- R309: the registers that hold the addresses, sizes and data a compared word's lanes act on, and whether only the lowest lane's count. -/
def comparedRegs (i : Instr) : List Nat × Bool :=
  match i with
  | .brx _ a => (pairRegs a, true)
  | .callx _ _ a => (pairRegs a, true)
  | .unwind _ a => ([a.toNat], true)
  | .grow _ a => ([a.toNat], true)
  | .growTry _ _ a => ([a.toNat], true)
  | .shrink _ a => ([a.toNat], true)
  | .launch _ _ a b => (pairRegs a ++ [b.toNat], true)
  | .st _ r a z _ _ => (sizeRegs r z.toNat ++ pairRegs a, false)
  | .stRel _ r a z _ _ => (sizeRegs r z.toNat ++ pairRegs a, false)
  | .sts _ r a z _ _ => (sizeRegs r z.toNat ++ [a.toNat], false)
  | .stt _ r a z _ _ => (sizeRegs r z.toNat ++ [a.toNat], false)
  | .atomArith _ _ a b u _ => (atomRegs u.toNat b.toNat ++ [2 * a.toNat, 2 * a.toNat + 1], false)
  | .atomMinmax _ _ a b u _ => (atomRegs (4 + u.toNat) b.toNat ++ [2 * a.toNat, 2 * a.toNat + 1], false)
  | .atomBit _ _ a b u _ => (atomRegs (8 + u.toNat) b.toNat ++ [2 * a.toNat, 2 * a.toNat + 1], false)
  | .atomCas _ _ a b u _ => (atomRegs (12 + u.toNat) b.toNat ++ [2 * a.toNat, 2 * a.toNat + 1], false)
  | .rst _ _ a r x => (sizeRegs r x.toNat ++ [2 * a.toNat, 2 * a.toNat + 1], false)
  | .ratom _ _ a r x => (atomRegs x.toNat r.toNat ++ [2 * a.toNat, 2 * a.toNat + 1], false)
  | .rred _ _ a r _ => ([r.toNat, 2 * a.toNat, 2 * a.toNat + 1], false)
  | .cpyr _ _ a b => (pairRegs a ++ (List.range 4).map fun k => 2 * b.toNat + k, true)
  | .cpySt _ _ a b => (pairRegs a ++ [2 * b.toNat, 2 * b.toNat + 1], false)
  | .tst _ _ a b _ => (pairRegs a ++ [b.toNat], true)
  | _ => ([], false)

/-- A warp without what its shadow holds a copy of: what a leader and its shadow must agree in after a compared word. -/
def Warp.bare (w : Warp) : Warp :=
  { w with
    frames := w.frames.map (fun f => { f with regs := [] }), gregs := [], preds := [], fpmode := 0, fpflags := 0, vcs := [],
    lanes := w.lanes.map (fun l => { l with stack := [] }), rb := w.rb.map (fun e => { e with vals := [] }), shadow := none }

/-- The machine with a warp's shadow in its leader's place. -/
def Mach.shadowView (m : Mach) (id w : Nat) : Mach :=
  m.updWarp id w fun x => match x.shadow with | some sh => x.asShadow sh | none => x

/-- R308: the state in which the shadow executes the word. -/
def State.shadowView (s : State) : State :=
  match s.iss with
  | none => s
  | some i =>
    { s with m := s.m.shadowView i.blk i.warp,
             iss := some { i with base := i.base.shadowView i.blk i.warp, fpmode := i.smode } }

/-- The lanes of a mask in which the registers, predicates or return entries of two warps differ. -/
def Warp.differs (x y : Warp) (lanes : Mask) : Mask :=
  lanes &&& maskOf fun l =>
    x.frames.map (fun f => f.regs.map fun v => v.get l) != y.frames.map (fun f => f.regs.map fun v => v.get l) || x.gregs.map (fun v => v.get l) != y.gregs.map (fun v => v.get l) ||
      x.preds.map (fun p => p.getLsbD l) != y.preds.map (fun p => p.getLsbD l) || (x.lane l).stack != (y.lane l).stack

/-- R309, R320: the lanes in which a compared word of the leader and of its shadow differ: in Exec, or in an operand. -/
def operandsDiffer (i : Issue) (g : GWord) (lw sw : Warp) : Mask :=
  let ex := i.exec lw (hdrOf g.word)
  let sx := i.exec sw (hdrOf g.word)
  let rs := comparedRegs g.instr
  let look := if rs.2 then bit (lowest (ex ||| sx)) else ex ||| sx
  let fid (w : Warp) : Nat := (w.lane (lowest (ex ||| sx))).fid
  (ex ^^^ sx) ||| ((ex ||| sx) &&& look &&& maskOf fun l => rs.1.any fun r => (lw.reg (fid lw) r).get l != (sw.reg (fid sw) r).get l)

/-- R309, R320: the lanes that a word has left at different places. -/
def placesDiffer (i : Issue) (t u : State) : Mask :=
  match t.m.warp? i.blk i.warp, u.m.warp? i.blk i.warp with
  | some x, some y => maskOf fun l => { x.lane l with stack := [] } != { y.lane l with stack := [] }
  | _, _ => 0

/-- R309: the leader's word and the shadow's leave the same: the same lanes went on, and the machine is the same but for what each holds of its own. -/
def agrees (i : Issue) (t u : State) : Bool :=
  (t.iss.map fun k => (k.parked, k.wait.isSome)) == (u.iss.map fun k => (k.parked, k.wait.isSome)) &&
    t.m.updWarp i.blk i.warp Warp.bare == u.m.updWarp i.blk i.warp Warp.bare

/-- R309, R312, R317: a mismatch: the group does not happen, and the block consumes MCHK at the shadow's word: sub-cause 0x02 when Exec, the lanes that went on or the lanes' control differ, else 0x01. -/
def State.mismatch (s : State) (i : Issue) (g : GWord) (lw : Warp) (t u : State) : State :=
  let sw := match lw.shadow with | some sh => lw.asShadow sh | none => lw
  let h := hdrOf g.word
  let ex := i.exec lw h
  let sx := i.exec sw h
  let ctl (v : State) : Option (Option Mask × List Lane) :=
    (v.m.warp? i.blk i.warp).map fun w => (v.iss.map fun k => k.parked, w.bare.lanes)
  let sub := if ex != sx || ctl t != ctl u then 2 else 1
  let d := operandsDiffer i g lw sw ||| placesDiffer i t u
  let e := lw.differs sw (ex ||| sx)
  let lanes := if d != 0 then d else if e != 0 then e else ex ||| sx
  { s with m := i.base.consume i.blk (some i.warp) 0x10 sub none none (some i.here) lanes.toNat, iss := none }

/-- R308: the shadow keeps the registers its word leaves, and the long results of its own it has entered since number `seq`. -/
def Warp.takeShadow (w : Warp) (seq : Nat) (y : Warp) : Warp :=
  { w with shadow := w.shadow.map fun sh =>
      { sh.holding y with own := sh.own ++ (y.rb.filter fun e => decide (seq ≤ e.seq) && !e.outside && !e.dests.isEmpty).map fun e => (e.seq, e.vals) } }

/-- R308: a word the shadow does not issue: of what it leaves in the leader's registers only the flags are the shadow's too. -/
def Warp.takeFlags (w : Warp) (old : Word) : Warp :=
  { w with shadow := w.shadow.map fun sh => { sh with fpflags := sh.fpflags ||| (w.fpflags &&& ~~~old) } }

/-- R309: is a word compared as it issues: an STS only when its leader or its shadow stores to the stash window. -/
def compared (i : Issue) (g : GWord) (s t u : State) : Bool :=
  let sb (s : State) : Option (List SbEnt) := (s.m.block? i.blk).map fun b => b.sb
  shadowCompares g.op && (g.op != 0x57 || sb t != sb s || sb u != sb s)

/-- R308, R309: the shadow's turn at a word, after its leader's: `s` is the state the word began in and `o` what the leader did. A word the shadow does not issue is compared when it traps. -/
def shadowed (ex : Meaning) (g : GWord) (s : State) (o : Host.Outcome State Fault Refusal) : Host.Outcome State Fault Refusal :=
  match o, s.iss with
  | .next t, some i =>
    match s.m.warp? i.blk i.warp with
    | none => o
    | some w =>
      if w.shadow.isNone then o
      else if shadowSkips g.op && t.iss.isSome then .next { t with m := t.m.updWarp i.blk i.warp fun x => x.takeFlags w.fpflags }
      else
        match ex g.instr s.shadowView with
        | .next u =>
          let lw := (i.base.warp? i.blk i.warp).getD w
          let sw := match lw.shadow with | some sh => lw.asShadow sh | none => lw
          let gated := compared i g s t u
          if (gated && operandsDiffer i g lw sw != 0) || ((gated || t.iss.isNone || u.iss.isNone) && !agrees i t u) then
            .next (s.mismatch i g lw t u)
          else if t.iss.isNone then o
          else
            match u.m.warp? i.blk i.warp with
            | some y => .next { t with m := t.m.updWarp i.blk i.warp fun x => x.takeShadow w.nextSeq y }
            | none => o
        | _ => o
  | _, _ => o

/-- R308: the record's entry of a group that has issued: its PC, its path, the Exec of its words, and its long results. -/
def State.recorded (s : State) (i : Issue) (ws : List GWord) : State :=
  match i.base.warp? i.blk i.warp with
  | none => s
  | some w =>
    { s with m := s.m.updWarp i.blk i.warp fun x =>
        Warp.trim { x with shadow := x.shadow.map fun sh =>
            { sh with record := sh.record ++ [{ group := i.group, lanes := i.lanes, execs := ws.map fun g => i.exec w (hdrOf g.word),
                                                seqs := (x.rb.filter fun e => decide (w.nextSeq ≤ e.seq)).map fun e => e.seq }] } } }

end Sys2Proof.Machine
end

