-- ==== Sys2Proof/Machine/Grids.lean ====
section
/-! DEFINITION. Launches as the FE accepts them (R271, R284, R448), timeline numbers (R193), and map acknowledgements (R34, R37, R38). -/

namespace Sys2Proof.Machine

/-- R271: a descriptor's fields. -/
def Desc.ofBytes (raw : List Byte) : Desc :=
  let f (off n : Nat) : Nat := fieldAt raw off n
  let flags := f 0x3F 1
  { entry := f 0 8, param := f 8 8, nx := f 0x10 4, ny := f 0x14 4, nz := f 0x18 4, threads := f 0x1C 2, width := f 0x1E 1,
    frame := f 0x1F 1, roles := (List.range (min 4 (f 0x3D 1))).map fun i => (f (0x20 + 4 * i) 1, f (0x21 + 4 * i) 1),
    shared := f 0x30 4, stash := f 0x34 4, tiles := f 0x38 1, tags := f 0x39 1, channels := f 0x3A 1, quota := f 0x3B 1,
    diemask := f 0x3C 1, priority := f 0x3E 1, checked := flags.testBit 0, coop := flags.testBit 1, paired := flags.testBit 2,
    timeline := f 0x40 1, isareq := f 0x44 4 }

/-- R193: number an operation of a context on a timeline; 0 when it names none. -/
def Mach.numberTl (m : Mach) (ctx tl : Nat) : Nat × Mach :=
  match m.ctx? ctx with
  | none => (0, m)
  | some c =>
    match c.tls[tl]? with
    | none => (0, m)
    | some t => (t.next, m.updCtx ctx fun c => { c with tls := modAt c.tls tl fun t => { t with next := t.next + 1 } })

/-- R193: would the next operation on a timeline take number 2^64. -/
def Mach.tlFull (m : Mach) (ctx tl : Nat) : Bool :=
  match (m.ctx? ctx).bind fun c => c.tls[tl]? with
  | some t => 2 ^ 64 ≤ t.next
  | none => false

/-- The FE's own log record (R318): DIE 8, CORE and WARP all ones. -/
def feLog (cause sub : Nat) (ctx grid : Option Nat) (flags detail : Nat) : LogInfo :=
  { cause := cause, sub := sub, die := 8, ctx := ctx, core := none, warp := none, flags := flags, rolls := none, va := none,
    pa := none, pc := none, grid := grid, detail := detail }

/-- R448: the next grid number that no incomplete grid holds; n bounds the search. -/
def Mach.nextGrid (m : Mach) (c : Nat) : Nat → Nat
  | 0 => c
  | n + 1 =>
    if m.grids.any fun g => g.num == c && !g.complete then Mach.nextGrid m (if c = 2 ^ 32 - 1 then 1 else c + 1) n else c

/-- R284, R448: the FE accepts a launch: it takes a grid number and a timeline number; validation comes later (R272). Answers the machine, the grid number and the timeline number. -/
def Mach.acceptLaunch (m : Mach) (ctx : Nat) (raw : List Byte) (device : Bool) (cmd : Option (Nat × Nat)) (conds : List StartCond) : Mach × Nat × Nat :=
  let d := Desc.ofBytes raw
  if m.tlFull ctx d.timeline then (m.log (feLog 0x15 1 (some ctx) none 0 0) none, 0, 0)
  else
    let num := m.nextGrid m.gridCnt (m.grids.length + 1)
    let t := m.numberTl ctx d.timeline
    let g : Grid :=
      { num := num, ctx := ctx, raw := raw, desc := d, valid := false, dies := [], chunks := [], left := 0, total := 0,
        failed := none, killed := false, execErr := false, cmd := cmd, tlNum := t.1, device := device, conds := conds,
        refused := [], complete := false }
    ({ t.2 with grids := t.2.grids ++ [g], gridCnt := if num = 2 ^ 32 - 1 then 1 else num + 1 }, num, t.1)

/-- R284: the device-launched grids of a context that are not complete. -/
def Mach.deviceGrids (m : Mach) (ctx : Nat) : Nat := (m.grids.filter fun g => g.ctx == ctx && g.device && !g.complete).length

/-- R34, R37: an acknowledgement of version v reaches the keeper. -/
def Mach.ackMap (m : Mach) (ctx v : Nat) : Mach :=
  m.updCtx ctx fun c => if c.ackver < v then { c with ackver := v, events := c.events.filter fun e => v < e.1 } else c

end Sys2Proof.Machine
end

