-- ==== Sys2Proof/Machine/Tiles.lean ====
section
/-! DEFINITION. Tile layout (R140, R243 to R245), GSX blocks (R138 to R143), and elements as exact values. -/

namespace Sys2Proof.Machine

/-- R245: the fields of a TCTL value. -/
def tFmt (t : Word) : Nat := t.toNat % 16
def tRows (t : Word) : Nat := t.toNat / 16 % 64 + 1
def tCols (t : Word) : Nat := t.toNat / 1024 % 256 + 1
def tValid (t : Word) : Bool := t.getLsbD 31

/-- R138, R245: the mantissa width of a GSX format code. -/
def gsxM (f : Nat) : Nat := if f = 8 then 7 else if f = 9 then 4 else 2
def isGsx (f : Nat) : Bool := decide (8 ≤ f ∧ f ≤ 10)

/-- R138: the bytes of a GSX block. -/
def gsxBytes (f : Nat) : Nat := if f = 8 then 18 else if f = 9 then 12 else 8

/-- R244: the bytes of an element; of a block for GSX. -/
def unitBytes (f : Nat) : Nat :=
  if isGsx f then gsxBytes f else if f = 0 then 8 else if f = 1 ∨ f = 7 then 4 else if f = 2 ∨ f = 3 then 2 else 1

/-- R140, R244: stored units per memory row, and memory rows. -/
def unitsPerRow (t : Word) : Nat := if isGsx (tFmt t) then tCols t / 4 else tCols t
def memRows (t : Word) : Nat := if isGsx (tFmt t) then tRows t / 4 else tRows t

/-- R244: a tile's byte size. -/
def tileBytes (t : Word) : Nat := memRows t * unitsPerRow t * unitBytes (tFmt t)

/-- R419: the length of a memory row. -/
def rowBytes (t : Word) : Nat := unitsPerRow t * unitBytes (tFmt t)

/-- R248: sub-cause 0x03: a byte size above 8,192, or a GSX tile whose sides are not multiples of 4. -/
def tileBad (t : Word) : Bool := decide (8192 < tileBytes t) || (isGsx (tFmt t) && (tRows t % 4 != 0 || tCols t % 4 != 0))

/-- R63, R257, R419: is memory row r valid under a count. -/
def rowValid (t : Word) (count r : Nat) : Bool := decide ((if isGsx (tFmt t) then 4 * r else r) < count)

/-- The valid memory rows under a count. -/
def validRows (t : Word) (count : Nat) : List Nat := (List.range (memRows t)).filter (rowValid t count)

/-- R267: the tile rows a word computes under a count. -/
def rowsComputed (t : Word) (count : Nat) : Nat := (validRows t count).length * (if isGsx (tFmt t) then 4 else 1)

/-- R245, R125: the floating format of a tile format code. -/
def tileFmt (f : Nat) : Option Fmt :=
  match f with
  | 0 => some f64
  | 1 => some f32
  | 2 => some bf16
  | 3 => some f16
  | 4 => some e4m3
  | 5 => some e5m2
  | _ => none

/-- R139: element i of a GSX block of mantissa width w. -/
def gsxElem (w blk i : Nat) : FV :=
  let e := blk % 256
  let q := i / 8 * 2 + i % 4 / 2
  let mu := blk / 2 ^ (8 + q) % 2
  let field := blk / 2 ^ (16 + i * (1 + w)) % 2 ^ (1 + w)
  if e = 0 then .fin false 0 0
  else if e = 255 then .nan false
  else .fin (field.testBit w) (field % 2 ^ w) ((e : Int) - 127 - mu - (w - 1 : Nat))

/-- The stored units of one memory row, as raw values. -/
def tileUnits (t : Word) (mem : Memory) (r : Nat) : List Nat :=
  let n := unitBytes (tFmt t)
  (List.range (unitsPerRow t)).map fun j => leNat (mem.bytes ((r * unitsPerRow t + j) * n) n)

/-- A stored element as an exact value. -/
def elemValue (f v : Nat) : FV :=
  match tileFmt f with
  | some g => g.value v
  | none =>
    let x := if f = 6 then signed 8 v else signed 32 v
    .fin (decide (x < 0)) x.natAbs 0

/-- The elements of a tile, row by row (R140, R244). -/
def tileMat (t : Word) (mem : Memory) : List (List FV) :=
  let f := tFmt t
  if isGsx f then
    (List.range (memRows t)).flatMap fun br =>
      let us := tileUnits t mem br
      (List.range 4).map fun r => us.flatMap fun u => (List.range 4).map fun c => gsxElem (gsxM f) u (4 * r + c)
  else (List.range (tRows t)).map fun r => (tileUnits t mem r).map (elemValue f)

/-- The raw elements of a tile that is not GSX. -/
def tileRaw (t : Word) (mem : Memory) : List (List Nat) := (List.range (memRows t)).map (tileUnits t mem)

/-- Offset-byte pairs that store raw units into memory row r. -/
def rowCells (t : Word) (r : Nat) (us : List Nat) : List Host.Cell :=
  cellsFrom (r * rowBytes t) (us.flatMap fun u => leBytes (unitBytes (tFmt t)) u)

/-- Offset-byte pairs that store the rows listed with their numbers. -/
def matCells (t : Word) (rows : List (Nat × List Nat)) : List Host.Cell := rows.flatMap fun p => rowCells t p.1 p.2

/-- R142: the quotient of two values. -/
def FV.div (a b : FV) : FV :=
  match a, b with
  | .nan s, _ => .nan s
  | _, .nan s => .nan s
  | .inf _, .inf _ => .nan false
  | .inf n, .fin k _ _ => .inf (n != k)
  | .fin n _ _, .inf k => .fin (n != k) 0 0
  | .fin n m e, .fin k m' e' =>
    if m' = 0 then (if m = 0 then .nan false else .inf (n != k))
    else if m = 0 then .fin (n != k) 0 0
    else let q := divSticky m e m' e'; .fin (n != k) q.1 q.2

/-- R142: the magnitude and sign of a rounded element; none when it is not finite. -/
def finOf (bits : Nat) : Option (Bool × Nat × Int) :=
  match f32.value bits with
  | .fin n m e => some (n, m, e)
  | _ => none

/-- R142: the quad of element i. -/
def quadOf (i : Nat) : Nat := i / 8 * 2 + i % 4 / 2

/-- R142: one block from 16 f32 encodings and a scale: the block and its flags. -/
def gsxQuant (w : Nat) (xs : List Nat) (sigma : Nat) : Nat × Word :=
  let s := f32.value sigma
  let qs := xs.map fun x => (f32.round 0 false ((f32.value x).div s)).1
  let fs := qs.map finOf
  if fs.any Option.isNone then (255, fInvalid)
  else
    let vs : List (Bool × Nat × Int) := fs.filterMap id
    let nz := vs.filter fun v => v.2.1 != 0
    let log (v : Bool × Nat × Int) : Int := v.2.2 + bitLen v.2.1 - 1
    match nz with
    | [] => (0, 0)
    | v :: rest =>
      let e := rest.foldl (fun k x => max k (log x)) (log v)
      let E : Nat := if e + 127 < 1 then 1 else (e + 127).toNat
      let under : Word := if e + 127 < 1 then fUnderflow else 0
      let small (v : Bool × Nat × Int) : Bool := v.2.1 == 0 || decide (log v < (E : Int) - 127)
      let mu (q : Nat) : Nat := if vs.zipIdx.all fun p => quadOf p.2 != q || small p.1 then 1 else 0
      let top := 2 ^ w - 1
      let el (v : Bool × Nat × Int) (i : Nat) : Nat × Bool :=
        let unit : Int := (E : Int) - 127 - mu (quadOf i) - (w - 1 : Nat)
        let r := (roundAt 0 false v.2.1 v.2.2 unit).1
        (min r top + (if v.1 && r != 0 then 2 ^ w else 0), decide (top < r))
      let els := vs.zipIdx.map fun p => el p.1 p.2
      let body := els.zipIdx.foldl (fun k p => k + p.1.1 * 2 ^ (16 + p.2 * (1 + w))) 0
      let mus := (List.range 4).foldl (fun k q => k + mu q * 2 ^ (8 + q)) 0
      (E + mus + body, under ||| (if els.any fun x => x.2 then fSat else 0))

/-- R143: one element of a block times the scale, with its flags. -/
def gsxDequant (w blk i sigma : Nat) : Nat × Word :=
  let e := blk % 256
  if e = 255 then (f32.nan, 0)
  else if e = 0 then (0, 0)
  else
    let v := gsxElem w blk i
    let s := f32.value sigma
    match v, s with
    | .fin true 0 _, _ => (f32.zero true, 0)
    | _, _ =>
      let p := FV.mul v s
      let r := f32.round 0 false p.1
      (r.1, r.2 ||| p.2)

/-- R141: a block transposed. -/
def gsxTranspose (w blk : Nat) : Nat :=
  let bitAt (k : Nat) : Nat := blk / 2 ^ k % 2
  let mu := bitAt 8 * 2 ^ 8 + bitAt 10 * 2 ^ 9 + bitAt 9 * 2 ^ 10 + bitAt 11 * 2 ^ 11
  let field (i : Nat) : Nat := blk / 2 ^ (16 + i * (1 + w)) % 2 ^ (1 + w)
  blk % 256 + mu + (List.range 16).foldl (fun k i => k + field (4 * (i % 4) + i / 4) * 2 ^ (16 + i * (1 + w))) 0

/-- A matrix turned over. -/
def transpose {α : Type} [Inhabited α] (cols : Nat) (m : List (List α)) : List (List α) :=
  (List.range cols).map fun c => m.map fun r => r.getD c default

end Sys2Proof.Machine
end

