-- ==== Sys2Proof/Machine/MxMath.lean ====
section
/-! DEFINITION. Matrix arithmetic: products summed in the order of R145 and R146, Horner evaluation (R259), one MITER iteration and its residual (R262), and the cycles and charges of MX words (R250, R267). -/

namespace Sys2Proof.Machine

/-- A matrix of exact values. -/
abbrev Mat := List (List FV)

/-- R250: the K step, the largest K and the token weight of an operand format. -/
def mmaG (f : Nat) : Nat := if f = 0 then 1 else if f = 1 then 2 else if f = 2 ∨ f = 3 then 8 else if f = 9 then 32 else if f = 10 then 64 else 16
def mmaKmax (f : Nat) : Nat := if f = 0 then 32 else if f = 1 then 64 else if 4 ≤ f ∧ f ≤ 6 then 256 else 128
def mmaWeight (f : Nat) : Nat := if f = 0 then 16 else if f = 1 then 14 else if f = 9 then 10 else if f = 10 then 8 else 12

/-- R250: the accumulator format code of an operand format. -/
def mmaAcc (f : Nat) : Nat := if f = 0 then 0 else if f = 6 then 7 else 1

/-- R146: the flag of products of both infinities in one group. -/
def infSigns (ps : List FV) : Bool × Bool :=
  (ps.any fun p => (match p with | .inf n => n | _ => false), ps.any fun p => (match p with | .inf n => !n | _ => false))

/-- R145, R146: the exact sum S of one group, with its flags. -/
def groupSum (xs : List (FV × FV)) : FV × Word :=
  let ps := xs.map fun p => FV.mul p.1 p.2
  let zeroInf (p : FV × FV) : Bool :=
    match p.1, p.2 with
    | .inf _, .fin _ 0 _ => true
    | .fin _ 0 _, .inf _ => true
    | _, _ => false
  let vs := ps.map fun p => p.1
  let inf := infSigns vs
  let bad := xs.any zeroInf || (inf.1 && inf.2) || xs.any fun p => p.1.isSig || p.2.isSig
  let fl : Word := if bad then fInvalid else 0
  if vs.any FV.isNan || (inf.1 && inf.2) then (.nan false, fl)
  else
    match vs with
    | [] => (.fin false 0 0, fl)
    | v :: rest => (rest.foldl (fun s x => (FV.add 0 s x).1) v, fl)

/-- R145: one step of an element's accumulation in a floating accumulator format. -/
def accStep (f : Fmt) (one : Bool) (acc : Nat) (grp : List (FV × FV)) : Nat × Word :=
  let s := groupSum grp
  let r : FV × Word := if one then (s.1, 0) else (let q := f.round 0 false s.1; (f.value q.1, q.2))
  let t := FV.add 0 (f.value acc) r.1
  let q := f.round 0 false t.1
  (q.1, s.2 ||| r.2 ||| t.2 ||| q.2)

/-- A list cut into groups of g; n bounds the groups. -/
def groupsOf {α : Type} (g : Nat) (xs : List α) : Nat → List (List α)
  | 0 => []
  | n + 1 => if xs.isEmpty then [] else xs.take g :: groupsOf g (xs.drop g) n

/-- R134: an exact value as an integer. -/
def FV.int : FV → Int
  | .fin n m e => if e < 0 then signedMag n (m / 2 ^ (-e).toNat) else signedMag n (m * 2 ^ e.toNat)
  | _ => 0

/-- R145: one output element: the accumulator's start, a row of A and a column of B. -/
def dotElem (af : Option Fmt) (g : Nat) (acc : Nat) (as bs : List FV) : Nat × Word :=
  let xs := as.zip bs
  match af with
  | none => (wrap 32 (signed 32 acc + (xs.map fun p => p.1.int * p.2.int).sum), 0)
  | some f =>
    (groupsOf g xs xs.length).foldl (fun s grp => let r := accStep f (g == 1) s.1 grp; (r.1, s.2 ||| r.2)) (acc, (0 : Word))

/-- A row of elements with the OR of their flags. -/
def rowFlags (xs : List (Nat × Word)) : List Nat × Word := (xs.map fun x => x.1, xs.foldl (fun k x => k ||| x.2) 0)

/-- Rows of elements with the OR of their flags. -/
def matFlags (rs : List (List (Nat × Word))) : List (List Nat) × Word :=
  (rs.map fun r => (rowFlags r).1, rs.foldl (fun k r => k ||| (rowFlags r).2) 0)

/-- R262: Prod: the product under R145 with every accumulator at +0, in a floating format. -/
def matProd (f : Fmt) (g : Nat) (p q : Mat) (cols : Nat) : Mat × Word :=
  let qt := (List.range cols).map fun c => q.map fun r => r.getD c (.fin false 0 0)
  let r := matFlags (p.map fun a => qt.map fun b => dotElem (some f) g 0 a b)
  (r.1.map fun x => x.map f.value, r.2)

/-- An exact sum of products rounded once: the encoding and its flags. -/
def sumRound (f : Fmt) (ts : List (FV × FV)) : Nat × Word :=
  let s := groupSum ts
  let q := f.round 0 false s.1
  (q.1, s.2 ||| q.2)

/-- The element at (i, j). -/
def Mat.at (m : Mat) (i j : Nat) : FV := (m.getD i []).getD j (.fin false 0 0)

/-- The exact value one. -/
def fvOne : FV := .fin false 1 0
def fvZero : FV := .fin false 0 0

/-- Build an n by k matrix of encodings. -/
def matBuild (f : Fmt) (n k : Nat) (e : Nat → Nat → Nat × Word) : Mat × Word :=
  let r := matFlags ((List.range n).map fun i => (List.range k).map fun j => e i j)
  (r.1.map fun x => x.map f.value, r.2)

/-- R259: Horner's rule from degree s down, with the coefficients as FP64 values. -/
def hornerFrom (f : Fmt) (g n : Nat) (a : Mat) (coef : List (BitVec 64)) : Nat → Mat × Word → Mat × Word
  | 0, p => p
  | s + 1, p =>
    let q := matProd f g p.1 a n
    let c := f64.value (coef.getD s 0).toNat
    let r := matBuild f n n fun i j =>
      if i = j then sumRound f [(q.1.at i i, fvOne), (c, fvOne)]
      else (match (f.round 0 false (q.1.at i j)) with | e => (e.1, 0))
    hornerFrom f g n a coef s (r.1, p.2 ||| q.2 ||| r.2)

/-- R259: Σ c_i A^i for an n by n matrix and degree d. -/
def horner (f : Fmt) (g n d : Nat) (a : Mat) (coef : List (BitVec 64)) : Mat × Word :=
  hornerFrom f g n a coef d (matBuild f n n fun i j => if i = j then f.round 0 false (f64.value (coef.getD d 0).toNat) else (0, 0))

/-- R262: one iteration of a mode: 0 NS, 1 NINV, 2 POLY. -/
def miterStep (mode : Nat) (f : Fmt) (g cols d : Nat) (x a : Mat) (coef : List (BitVec 64)) : Mat × Word :=
  let c (i : Nat) : FV := f64.value (coef.getD i 0).toNat
  if mode = 0 then
    let gm := matProd f g ((List.range cols).map fun j => x.map fun r => r.getD j fvZero) x cols
    let h := matProd f g gm.1 gm.1 cols
    let b := matBuild f cols cols fun i j =>
      sumRound f [(c 0, if i = j then fvOne else fvZero), (c 1, gm.1.at i j), (c 2, h.1.at i j)]
    let y := matProd f g x b.1 cols
    (y.1, gm.2 ||| h.2 ||| b.2 ||| y.2)
  else if mode = 1 then
    let t := matProd f g a x cols
    let u := matProd f g x t.1 cols
    let y := matBuild f x.length cols fun i j => sumRound f [(c 0, x.at i j), (c 1, u.1.at i j)]
    (y.1, t.2 ||| u.2 ||| y.2)
  else horner f g cols d x coef

/-- R262: the residual: the sum of squared differences in FP64, row-major, one fused step each. -/
def residual (y x : Mat) : Nat × Word :=
  ((y.zip x).flatMap fun r => r.1.zip r.2).foldl
    (fun s p =>
      let t := FV.add 0 p.1 p.2.negate
      let d := f64.round 0 false t.1
      let v := f64.value d.1
      let sq := FV.mul v v
      let u := FV.add 0 (f64.value s.1) sq.1
      let q := f64.round 0 false u.1
      (q.1, s.2 ||| t.2 ||| d.2 ||| sq.2 ||| u.2 ||| q.2))
    (0, (0 : Word))

/-- The encodings of a matrix already in a format. -/
def Mat.bits (m : Mat) (f : Fmt) : List (List Nat) := m.map fun r => r.map fun v => (f.round 0 false v).1

/-- Is every element finite. -/
def Mat.finite (m : Mat) : Bool := m.all fun r => r.all fun v => match v with | .fin .. => true | _ => false

/-- R250: ⌈x / y⌉. -/
def ceilDiv (x y : Nat) : Nat := (x + y - 1) / y

/-- R250: the cycles of one product; q is 2 in pair mode. -/
def productCycles (g r k c q : Nat) : Nat := ceilDiv (ceilDiv k g * ceilDiv r 32 * ceilDiv c 32) q

/-- R250: the cycles of an elementwise pass. -/
def passCycles (r c q : Nat) : Nat := max 1 (ceilDiv (r * c) (256 * q))

/-- R267: the grains of a charge; checked mode doubles the cycles. -/
def charge (checked : Bool) (cycles weight v : Nat) : Nat := ceilDiv (cycles * (if checked then 2 else 1) * weight * min v 32) 32

/-- R269: is work on v rows of a core mirrored. -/
def mirrored (checked : Bool) (v : Nat) : Bool := checked || decide (v ≤ 16)

/-- R267, R269: the rows a product charges for. MPOLY and MITER double theirs only up to 16 rows, in checked mode too. -/
def chargedRows (checked iter : Bool) (v : Nat) : Nat := if mirrored (checked && !iter) v then min 32 (2 * v) else min v 32

end Sys2Proof.Machine
end

