-- ==== Sys2Proof/Machine/Sched.lean ====
section
/-! DEFINITION. The warp scheduler (R280, R281) and the choice of the next issue (R48, R51): which core, warp and paths a step issues. -/

namespace Sys2Proof.Machine

/-- What holds back a word whose unit is busy. -/
abbrev Gate := Mach → Block → Warp → Mask → GWord → Bool

/-- The resident warps of a core's active bank that have a lane left, oldest first (R280). -/
def Mach.coreWarps (m : Mach) (c : Nat) : List (Block × Warp) :=
  let a := (m.core c).active
  m.blocks.flatMap fun b =>
    if b.place == .placed && !b.stopped then
      b.warps.filterMap fun w =>
        let s := b.side w.side
        if s.core == c && s.bank == a && w.liveLanes != 0 then some (b, w) else none
    else []

/-- R281: the sets at the end of a cycle on one core: an active warp with no ready path leaves, and the oldest ready pending warps join while fewer than 8 are active; wait counts follow. -/
def Mach.balance (m : Mach) (gate : Gate) (c : Nat) : Mach :=
  let k := m.core c
  let ready := (m.coreWarps c).filter fun p => !(m.offers gate p.1 p.2).isEmpty
  let names := ready.map fun p => (p.1.id, p.2.num)
  let stay := k.actSet.filter fun p => names.contains p
  let join := (names.filter fun p => !stay.contains p).take (8 - stay.length)
  let act := stay ++ join
  let m1 := m.updCore c fun k => { k with actSet := act }
  { m1 with blocks := m1.blocks.map fun b =>
      { b with warps := b.warps.map fun w =>
          if (b.side w.side).core = c && b.place == .placed then
            { w with waitCnt := if names.contains (b.id, w.num) && !act.contains (b.id, w.num) then w.waitCnt + 1 else 0 }
          else w } }

/-- R281: the cores that hold a placed block. -/
def Mach.busyCores (m : Mach) : List Nat := ((m.blocks.filter fun b => b.place == .placed).flatMap fun b => b.sides.map fun s => s.core).eraseDups

/-- R281: the sets of every core at the end of a cycle. -/
def Mach.balanceAll (m : Mach) (gate : Gate) : Mach := m.busyCores.foldl (fun m c => m.balance gate c) m

/-- R280: the warp selected before if it has a ready path, else the oldest active warp that has one. -/
def Mach.selectWarp (m : Mach) (gate : Gate) (c : Nat) : Option (Block × Warp) :=
  let k := m.core c
  let ok := (m.coreWarps c).filter fun p => k.actSet.contains (p.1.id, p.2.num) && !(m.offers gate p.1 p.2).isEmpty
  match ok.find? fun p => k.last == some (p.1.id, p.2.num) with
  | some p => some p
  | none => ok.head?

/-- R51: the selected warp with its ready paths merged. -/
def Mach.merged (m : Mach) (gate : Gate) (b : Block) (w : Warp) : Warp :=
  w.regang ((m.offers gate b w).foldl (fun k p => k ||| p.1.lanes) 0)

/-- What a core issues next: the machine with the warp's paths merged, the block, warp, its ready paths, the first path and the second path. -/
structure Pick where
  m : Mach
  b : Block
  w : Warp
  ready : List Mask
  first : Path × Offer
  second : Option (Path × Offer)
  deriving DecidableEq, Repr

/-- R48, R51, R280: choose on one core; a core in a swap issues nothing (R300). -/
def Mach.pickOn (m : Mach) (gate : Gate) (c : Nat) : Option Pick :=
  if (m.core c).swapEnd.isSome then none
  else
    match m.selectWarp gate c with
    | none => none
    | some (b, w) =>
      let w1 := m.merged gate b w
      let m1 := m.updWarp b.id w.num fun _ => w1
      let offers := m1.offers gate b w1
      match firstPath offers with
      | none => none
      | some p =>
        some { m := m1.updCore c fun k => { k with last := some (b.id, w.num) }, b := b, w := w1,
               ready := offers.map fun o => o.1.lanes, first := p, second := secondPath offers p }

/-- The live cores that hold a block, in turn from the core after the last one served (log entry 2). -/
def Mach.coresInTurn (m : Mach) : List Nat :=
  let cs := (List.range 160).filter fun c => m.blocks.any fun b => b.place == .placed && b.sides.any fun s => s.core == c
  (cs.filter fun c => m.nextCore ≤ c) ++ cs.filter fun c => c < m.nextCore

/-- R280: the first core of a list that issues, after the cores before it, which selected nothing in this cycle. -/
def Mach.pickFrom (gate : Gate) : List Nat → Mach → Mach × Option Pick
  | [], m => (m, none)
  | c :: cs, m =>
    match m.pickOn gate c with
    | some p => (m, some { p with m := { p.m with nextCore := c + 1 } })
    | none => Mach.pickFrom gate cs (m.updCore c fun k => { k with last := none })

/-- The next issue of the package. -/
def Mach.pick (m : Mach) (gate : Gate) : Option Pick := (Mach.pickFrom gate m.coresInTurn m).2

/-- R280: the machine after a cycle in which no core selects a warp. -/
def Mach.unpicked (m : Mach) (gate : Gate) : Mach := (Mach.pickFrom gate m.coresInTurn m).1

/-- R429: the issuing warp gives its place to the oldest ready pending warp of its core, if there is one. -/
def Mach.yieldPlace (m : Mach) (gate : Gate) (c blk w : Nat) : Mach :=
  let k := m.core c
  let waiting := (m.coreWarps c).filter fun p => !k.actSet.contains (p.1.id, p.2.num) && (p.1.id, p.2.num) != (blk, w) && !(m.offers gate p.1 p.2).isEmpty
  match waiting with
  | [] => m
  | p :: _ => m.updCore c fun k => { k with actSet := (k.actSet.filter fun q => q != (blk, w)) ++ [(p.1.id, p.2.num)] }

/-- R429: at the end of the cycle a warp that has executed a YIELD gives its place away. -/
def Mach.giveAway (m : Mach) (gate : Gate) : Mach :=
  match m.front with
  | none => m
  | some f =>
    match f.yields, m.block? f.blk, m.warp? f.blk f.warp with
    | true, some b, some w => m.yieldPlace gate (b.side w.side).core f.blk f.warp
    | _, _, _ => m

/-- R50: the end of an issue cycle: when a word issued, the warp's ready paths that did not issue grow older. -/
def Mach.endFront (m : Mach) : Mach :=
  match m.front with
  | none => m
  | some f =>
    let m1 := { m with front := none }
    if f.issued.isEmpty then m1 else m1.updWarp f.blk f.warp fun w => w.agePaths f.ready f.issued

/-- R46, R47: the paths of every warp split where an event left their lanes in different run states. -/
def Mach.regroup (m : Mach) : Mach :=
  { m with blocks := m.blocks.map fun b => { b with warps := b.warps.map Warp.regroup } }

end Sys2Proof.Machine
end

