-- ==== Sys2Proof/Machine/MxOps.lean ====
section
/-! DEFINITION. MX words as one shape (R247 to R249): their checks (R248, R251 to R262), cycles and charges (R250, R267), when they are ready (R268), and what they write. -/

namespace Sys2Proof.Machine

/-- An MX word: kind 0 MMA, 1 MMAB, 2 MSCALE, 3 MPOLY, 4 MITER, 5 TQNT, 6 TDQ, 7 TZERO, 8 TMOV, 9 MTRN; `mode` is MITER's. -/
structure MxOp where
  kind : Nat
  td   : Nat
  ta   : Nat
  tb   : Nat
  fmt  : Nat
  mode : Nat
  n    : Nat
  pair : Bool
  vc   : Nat
  sreg : Option Nat
  deriving DecidableEq, Repr

def MxOp.plain (kind td ta : Nat) : MxOp :=
  { kind := kind, td := td, ta := ta, tb := 0, fmt := 0, mode := 0, n := 0, pair := false, vc := 0, sreg := none }

/-- R249: the MX word of an instruction that uses the array. -/
def mxOpOf (i : Instr) : Option MxOp :=
  match i with
  | .mma _ t a b f p v => some { MxOp.plain 0 t.toNat a.toNat with tb := b.toNat, fmt := f.toNat, pair := p, vc := v.toNat }
  | .mmab _ t a b f v => some { MxOp.plain 1 t.toNat a.toNat with tb := b.toNat, fmt := f.toNat, vc := v.toNat }
  | .mscale _ t a s => some { MxOp.plain 2 t.toNat a.toNat with sreg := some s.toNat }
  | .mpoly _ t a n p => some { MxOp.plain 3 t.toNat a.toNat with n := n.toNat, pair := p }
  | .miterNs _ t p => some { MxOp.plain 4 t.toNat 0 with mode := 0, pair := p }
  | .miterNinv _ t a p => some { MxOp.plain 4 t.toNat a.toNat with mode := 1, pair := p }
  | .miterPoly _ t n p => some { MxOp.plain 4 t.toNat 0 with mode := 2, n := n.toNat, pair := p }
  | .tqnt _ t a s => some { MxOp.plain 5 t.toNat a.toNat with sreg := some s.toNat }
  | .tdq _ t a s => some { MxOp.plain 6 t.toNat a.toNat with sreg := some s.toNat }
  | .tzero _ t v => some { MxOp.plain 7 t.toNat 0 with vc := v.toNat }
  | .tmov _ t a v => some { MxOp.plain 8 t.toNat a.toNat with vc := v.toNat }
  | .mtrn _ t a v => some { MxOp.plain 9 t.toNat a.toNat with vc := v.toNat }
  | _ => none

/-- The tiles a word names, in operand order. -/
def MxOp.tiles (o : MxOp) : List Nat :=
  if o.kind ≤ 1 then [o.td, o.ta, o.tb]
  else if o.kind = 7 ∨ (o.kind = 4 ∧ o.mode ≠ 1) then [o.td]
  else [o.td, o.ta]

/-- R316: the tiles a word reads and whose poison it consumes. -/
def MxOp.reads (o : MxOp) : List Nat :=
  if o.kind ≤ 1 then [o.td, o.ta, o.tb]
  else if o.kind = 2 then [o.td, o.ta]
  else if o.kind = 4 then (if o.mode = 1 then [o.td, o.ta] else [o.td])
  else if o.kind = 3 ∨ o.kind = 5 ∨ o.kind = 6 then [o.ta]
  else []

/-- A tile's TCTL on a side. -/
def Block.tctl (b : Block) (side t : Nat) : Word := (b.side side).tctl.getD t 0

/-- A tile on a side. -/
def Block.tile (b : Block) (side t : Nat) : Tile := (b.side side).tiles.getD t { bytes := [], poison := false }

/-- R248: sub-causes 0x01 to 0x03 of one tile on a side. -/
def Block.tileCheck (b : Block) (side t : Nat) : Option Nat :=
  if b.ntiles ≤ t then some 1
  else if !tValid (b.tctl side t) then some 2
  else if tileBad (b.tctl side t) then some 3
  else none

/-- R251 to R262: are the formats and shapes as the word requires; x gives a tile's TCTL on the issuing core, y on the follower. -/
def MxOp.fits (o : MxOp) (x y : Nat → Word) : Bool :=
  let d := x o.td
  let a := x o.ta
  let e := x o.tb
  let dF := y o.td
  let aF := y o.ta
  let same (p q : Word) : Bool := tFmt p == tFmt q && tRows p == tRows q && tCols p == tCols q
  let below (p q : Word) : Bool := tFmt p == tFmt q && tCols p == tCols q && tRows p == 32
  let float (p : Word) : Bool := tFmt p ≤ 1
  if o.kind = 0 then
    tFmt a == o.fmt && tFmt e == o.fmt && tFmt d == mmaAcc o.fmt && tRows e == tCols a && tRows d == tRows a && tCols d == tCols e &&
      decide (tRows a ≤ 32) && decide (tCols e ≤ 32) && decide (tCols a ≤ mmaKmax o.fmt) && tCols a % mmaG o.fmt == 0 &&
      (!o.pair || (below d dF && below a aF && tRows dF == tRows aF && e == y o.tb))
  else if o.kind = 1 then
    o.fmt != 10 && tFmt a == o.fmt && tFmt e == o.fmt && tFmt d == mmaAcc o.fmt && tRows a == 32 && tRows e == tCols a && tCols e == 32 &&
      tRows d == 32 && tCols d == 32 && tCols a % 4 == 0 && tCols a / 4 % mmaG o.fmt == 0 && decide (tCols a ≤ mmaKmax o.fmt)
  else if o.kind = 2 then float d && (float a || tFmt a == 7) && tRows d == tRows a && tCols d == tCols a
  else if o.kind = 3 then
    float a && same d a &&
      (if o.pair then tFmt a == 1 && below d dF && below a aF && tRows dF == tRows aF && tCols a == 32 + tRows aF && decide (tRows aF ≤ 32)
       else tRows a == tCols a && decide (tCols a ≤ 32))
  else if o.kind = 4 then
    let square := o.mode != 0
    float d && (o.mode != 1 || same d a) && (o.mode != 2 || o.n != 0) &&
      (if o.pair then
        tFmt d == 1 && below d dF && decide (tRows dF ≤ 32) && (o.mode != 1 || same dF aF) &&
          (if square then tCols d == 32 + tRows dF else decide (tCols d ≤ 32))
       else decide (tRows d ≤ 32) && decide (tCols d ≤ 32) && (!square || tRows d == tCols d))
  else if o.kind = 5 then tFmt a == 1 && isGsx (tFmt d) && tRows d == tRows a && tCols d == tCols a
  else if o.kind = 6 then tFmt d == 1 && isGsx (tFmt a) && tRows d == tRows a && tCols d == tCols a
  else if o.kind = 8 then same d a
  else if o.kind = 9 then tFmt d == tFmt a && tRows d == tCols a && tCols d == tRows a
  else true

/-- R248: the TILE sub-cause a word meets at issue on a side, if any. -/
def MxOp.bad (o : MxOp) (b : Block) (side : Nat) : Option Nat :=
  match o.tiles.findSome? fun t => b.tileCheck side t with
  | some k => some k
  | none =>
    if o.pair && (!b.paired || side != 0) then some 5
    else
      match (if o.pair then o.tiles.findSome? fun t => b.tileCheck 1 t else none) with
      | some k => some k
      | none => if o.fits (b.tctl side) (b.tctl 1) then none else some 4

/-- R63, R267: the rows a word computes on the issuing core, and on the follower in pair mode. -/
def MxOp.rows (o : MxOp) (b : Block) (side count : Nat) : Nat × Nat :=
  let d := b.tctl side o.td
  let dF := b.tctl 1 o.td
  if o.kind = 0 then (rowsComputed d count, if o.pair then rowsComputed dF (count - 32) else 0)
  else if o.kind = 1 then (2 * min count 16, 0)
  else if 7 ≤ o.kind then (rowsComputed d count, 0)
  else (tRows d, if o.pair then tRows dF else 0)

/-- R250, R259, R262: the steps of a word: cycles, and the MITSTAT phase of a MITER step. -/
def MxOp.steps (o : MxOp) (b : Block) (side : Nat) : List (Nat × Nat) :=
  let d := b.tctl side o.td
  let a := b.tctl side o.ta
  let q := if o.pair then 2 else 1
  let R := tRows d + (if o.pair then tRows (b.tctl 1 o.td) else 0)
  let C := tCols d
  let g := mmaG (tFmt d)
  if o.kind = 0 then [(tCols a / mmaG o.fmt, 0)]
  else if o.kind = 1 then [(tCols a / 4 / mmaG o.fmt, 0)]
  else if o.kind = 3 then
    let T := productCycles g C C C q
    if o.n = 0 then [(1, 0)] else (T + 2, 0) :: List.replicate (o.n - 1) (T + 1, 0)
  else if o.kind = 4 then
    let T := productCycles g C C C q
    let last := [(passCycles R C q, 5)]
    if o.mode = 0 then [(productCycles g C R C q, 1), (T, 2), (passCycles C C q, 3), (productCycles g R C C q, 4)] ++ last
    else if o.mode = 1 then [(T, 1), (T, 2), (passCycles C C q, 3)] ++ last
    else (T + 2, 1) :: List.replicate (o.n - 1) (T + 1, 1) ++ last
  else [(passCycles (tRows d) C 1, 0)]

/-- R267: the token weight of a word. -/
def MxOp.weight (o : MxOp) (b : Block) (side : Nat) : Nat :=
  if o.kind ≤ 1 then mmaWeight o.fmt else if o.kind ≤ 4 && o.kind != 2 then mmaWeight (tFmt (b.tctl side o.td)) else 4

/-- R269: does a word compute products, so that few rows mirror it. -/
def MxOp.product (o : MxOp) : Bool := o.kind ≤ 1 || o.kind == 3 || o.kind == 4

/-- R267: the charges of step i on the issuing core and the follower. -/
def MxOp.chargeAt (o : MxOp) (b : Block) (side count i : Nat) : Nat × Nat :=
  let cyc := (((o.steps b side)[i]?).map fun p => p.1).getD 0
  let v := o.rows b side count
  let rows (n : Nat) : Nat := if o.product then chargedRows b.checked (o.kind == 3 || o.kind == 4) n else min n 32
  (charge b.checked cyc (o.weight b side) (rows v.1), if o.pair then charge b.checked cyc (o.weight b side) (rows v.2) else 0)

/-- R269: does a word run mirrored, and so hold a return-buffer entry. -/
def MxOp.mirror (o : MxOp) (b : Block) (side count : Nat) : Bool :=
  let v := o.rows b side count
  b.checked || (o.product && (decide (v.1 ≤ 16) || (o.pair && decide (v.2 ≤ 16))))

/-- R62: the count in a valid-count register. -/
def Warp.count (w : Warp) (v : Nat) : Nat := (w.vcs.getD v 0).toNat

/-- R264: does a MITER at a PC resume the interrupted one. -/
def MitRegs.resumes (s : MitRegs) (warp : Nat) (pc : PC) : Bool := s.mitstat.getLsbD 31 && s.owner == some (warp, pc)

/-- R264: the iterations a MITER at a PC starts from. -/
def MitRegs.startK (s : MitRegs) (warp : Nat) (pc : PC) : Nat := if s.resumes warp pc then s.mitstat.toNat % 256 else 0

/-- R268: is an MX word held back: the array (both arrays in pair mode) runs another word, or its core holds too few grains. -/
def mxHeld (m : Mach) (b : Block) (w : Warp) (lanes : Mask) (g : GWord) : Bool :=
  let s := b.side w.side
  if g.exec w lanes = 0 || pipeOf g.op != 6 then false
  else
    let busy := (m.core s.core).mx.isSome
    match mxOpOf g.instr with
    | none => busy || ((match g.instr with | .tld _ _ _ _ p _ => p | _ => false) && b.paired && (m.core (b.side 1).core).mx.isSome)
    | some o =>
      if o.pair && b.paired && (m.core (b.side 1).core).mx.isSome then true
      else if busy then true
      else if (o.bad b w.side).isSome then false
      else if o.kind = 4 && decide ((b.side w.side).eng.mitcap.toNat ≤ (b.side w.side).eng.startK w.num g.pc) then false
      else
        let ch := o.chargeAt b w.side (w.count o.vc) 0
        decide ((m.core s.core).grains < ch.1) || (o.pair && decide ((m.core (b.side 1).core).grains < ch.2))

/-- A word's tile writes with its flags. -/
abbrev MxOut := List (Nat × Nat × List Host.Cell × Option Bool) × Word

/-- The rows of a result with their numbers. -/
def numbered (rows : List Nat) (m : List (List Nat)) : List (Nat × List Nat) := rows.zip m

/-- R251, R253: the product of one core: rows of D, A and B on a side. -/
def mmaOn (b : Block) (side : Nat) (o : MxOp) (count : Nat) : (Nat × Nat × List Host.Cell × Option Bool) × Word :=
  let td := b.tctl side o.td
  let D := tileRaw td (b.tile side o.td).bytes
  let A := tileMat (b.tctl side o.ta) (b.tile side o.ta).bytes
  let e := b.tctl side o.tb
  let Bt := (List.range (tCols e)).map fun c => (tileMat e (b.tile side o.tb).bytes).map fun r => r.getD c fvZero
  let rows := validRows td count
  let af := tileFmt (mmaAcc o.fmt)
  let r := matFlags (rows.map fun i =>
    ((D.getD i []).zip Bt).map fun p => dotElem af (mmaG o.fmt) p.1 (A.getD i []) p.2)
  ((side, o.td, matCells td (numbered rows r.1), none), r.2)

/-- R253: sixteen 8 x 8 products; element (r, c) belongs to product r / 8 + 4 (c / 8). -/
def mmabOn (b : Block) (side : Nat) (o : MxOp) (count : Nat) : (Nat × Nat × List Host.Cell × Option Bool) × Word :=
  let td := b.tctl side o.td
  let D := tileRaw td (b.tile side o.td).bytes
  let A := tileMat (b.tctl side o.ta) (b.tile side o.ta).bytes
  let e := b.tctl side o.tb
  let Bt := (List.range 32).map fun c => (tileMat e (b.tile side o.tb).bytes).map fun r => r.getD c fvZero
  let k := tCols (b.tctl side o.ta) / 4
  let af := tileFmt (mmaAcc o.fmt)
  let el (r c old : Nat) : Nat × Word :=
    if r / 8 + 4 * (c / 8) < count then
      dotElem af (mmaG o.fmt) old (((A.getD r []).drop (k * (c / 8))).take k) (((Bt.getD (8 * (r / 8) + c % 8) []).drop (k * (c / 8))).take k)
    else (old, 0)
  let r := matFlags (D.zipIdx.map fun p => p.1.zipIdx.map fun q => el p.2 q.2 q.1)
  ((side, o.td, matCells td (numbered (List.range 32) r.1), none), r.2)

/-- R254: td + ts x sigma, rounded once. -/
def mscaleOn (b : Block) (side : Nat) (o : MxOp) (sigma : Nat) : (Nat × Nat × List Host.Cell × Option Bool) × Word :=
  let td := b.tctl side o.td
  let f := (tileFmt (tFmt td)).getD f32
  let D := tileMat td (b.tile side o.td).bytes
  let S := tileMat (b.tctl side o.ta) (b.tile side o.ta).bytes
  let s := f32.value sigma
  let r := matFlags ((D.zip S).map fun p => (p.1.zip p.2).map fun q => sumRound f [(q.1, fvOne), (q.2, s)])
  ((side, o.td, matCells td (numbered (List.range (tRows td)) r.1), none), r.2)

/-- R142, R255: quantise a tile; every byte is rewritten, which clears the poison bit. -/
def tqntOn (b : Block) (side : Nat) (o : MxOp) (sigma : Nat) : (Nat × Nat × List Host.Cell × Option Bool) × Word :=
  let td := b.tctl side o.td
  let w := gsxM (tFmt td)
  let A := tileRaw (b.tctl side o.ta) (b.tile side o.ta).bytes
  let blk (i j : Nat) : List Nat := (List.range 4).flatMap fun r => ((A.getD (4 * i + r) []).drop (4 * j)).take 4
  let r := matFlags ((List.range (memRows td)).map fun i => (List.range (unitsPerRow td)).map fun j => gsxQuant w (blk i j) sigma)
  ((side, o.td, matCells td (numbered (List.range (memRows td)) r.1), some false), r.2)

/-- R143, R255: dequantise a tile. -/
def tdqOn (b : Block) (side : Nat) (o : MxOp) (sigma : Nat) : (Nat × Nat × List Host.Cell × Option Bool) × Word :=
  let td := b.tctl side o.td
  let a := b.tctl side o.ta
  let A := tileRaw a (b.tile side o.ta).bytes
  let r := matFlags ((List.range (tRows td)).map fun i => (List.range (tCols td)).map fun j =>
    gsxDequant (gsxM (tFmt a)) ((A.getD (i / 4) []).getD (j / 4) 0) (4 * (i % 4) + j % 4) sigma)
  ((side, o.td, matCells td (numbered (List.range (tRows td)) r.1), none), r.2)

/-- R257, R422: TZERO, TMOV and MTRN on the valid rows, with the poison bit each leaves. -/
def moveOn (b : Block) (side : Nat) (o : MxOp) (count : Nat) : Nat × Nat × List Host.Cell × Option Bool :=
  let td := b.tctl side o.td
  let rows := validRows td count
  let all := rows.length == memRows td
  let src := (b.tile side o.ta)
  let a := b.tctl side o.ta
  if o.kind = 7 then (side, o.td, rows.flatMap fun r => cellsFrom (r * rowBytes td) (zeros (rowBytes td)), if all then some false else none)
  else
    let A := tileRaw a src.bytes
    let u (i j : Nat) : Nat :=
      if o.kind = 8 then (A.getD i []).getD j 0
      else if isGsx (tFmt td) then gsxTranspose (gsxM (tFmt td)) ((A.getD j []).getD i 0)
      else (A.getD j []).getD i 0
    (side, o.td, matCells td (rows.map fun i => (i, (List.range (unitsPerRow td)).map (u i))), if all then some src.poison else if src.poison && !rows.isEmpty then some true else none)

/-- R252: X of a MITER or A of an MPOLY: the leader's rows and, in pair mode, the follower's below them. -/
def Block.mat (b : Block) (side t : Nat) (pair : Bool) (x y : Word) : Mat :=
  tileMat x (b.tile side t).bytes ++ (if pair then tileMat y (b.tile 1 t).bytes else [])

/-- R252: the tile writes of a whole matrix of encodings, divided at the leader's rows. -/
def splitRows (side t : Nat) (pair : Bool) (x y : Word) (m : List (List Nat)) : List (Nat × Nat × List Host.Cell × Option Bool) :=
  (side, t, matCells x (numbered (List.range (tRows x)) (m.take (tRows x))), none) ::
    (if pair then [(1, t, matCells y (numbered (List.range (tRows y)) (m.drop (tRows x))), none)] else [])

/-- R259: the result of MPOLY. -/
def mpolyOut (b : Block) (side : Nat) (o : MxOp) : MxOut :=
  let x := b.tctl side o.ta
  let y := b.tctl 1 o.ta
  let f := (tileFmt (tFmt x)).getD f32
  let r := horner f (mmaG (tFmt x)) (tCols x) o.n (b.mat side o.ta o.pair x y) (b.side side).eng.coef
  (splitRows side o.td o.pair (b.tctl side o.td) (b.tctl 1 o.td) (r.1.bits f), r.2)

/-- What an MX word other than MITER writes, with its flags. -/
def MxOp.out (o : MxOp) (b : Block) (side count sigma : Nat) : MxOut :=
  let one (r : (Nat × Nat × List Host.Cell × Option Bool) × Word) : MxOut := ([r.1], r.2)
  if o.kind = 0 then
    let l := mmaOn b side o count
    if o.pair then let f := mmaOn b 1 o (count - 32); ([l.1, f.1], l.2 ||| f.2) else one l
  else if o.kind = 1 then one (mmabOn b side o count)
  else if o.kind = 2 then one (mscaleOn b side o sigma)
  else if o.kind = 3 then mpolyOut b side o
  else if o.kind = 5 then one (tqntOn b side o sigma)
  else if o.kind = 6 then one (tdqOn b side o sigma)
  else one (moveOn b side o count, 0)

/-- Tile writes land: bytes over old bytes, and the poison bit where the word sets it (R316). -/
def Block.tileWrites (b : Block) (ws : List (Nat × Nat × List Host.Cell × Option Bool)) : Block :=
  ws.foldl (fun b w => b.updSide w.1 fun s =>
    { s with tiles := modAt s.tiles w.2.1 fun t => { bytes := t.bytes.setCells w.2.2.1, poison := w.2.2.2.getD t.poison } }) b

end Sys2Proof.Machine
end

