-- ==== Sys2Proof/Machine/MxWords.lean ====
section
/-! DEFINITION. The MX words as they issue: those of the array (R247 to R264), TGET and TSET (R256), and TLD and TST (R419, R420). -/

namespace Sys2Proof.Machine

/-- R260: a MITSTAT value. -/
def mitWord (run flags rise phase reason k : Nat) : Word :=
  BitVec.ofNat 32 (run * 2 ^ 31 + flags % 64 * 2 ^ 24 + min 255 rise * 2 ^ 16 + phase * 2 ^ 12 + reason * 2 ^ 8 + k)

/-- The fields of a MITSTAT value: FLAGS, RISE, PHASE, REASON. -/
def mitFlags (v : Word) : Nat := v.toNat / 2 ^ 24 % 64
def mitRise (v : Word) : Nat := v.toNat / 2 ^ 16 % 256
def mitPhase (v : Word) : Nat := v.toNat / 2 ^ 12 % 16
def mitReason (v : Word) : Nat := v.toNat / 2 ^ 8 % 16

/-- R252, R266, R268: a word takes its array, both arrays in pair mode, with the first charge. -/
def Mach.startMx (m : Mach) (b : Block) (pair : Bool) (r : MxRun) (ch : Nat × Nat) : Mach :=
  let m1 := m.updCore (b.side r.side).core fun k => { k with mx := some r, grains := k.grains - ch.1 }
  if pair then
    m1.updCore (b.side 1).core fun k => { k with mx := some { r with follower := true, side := 1, writes := [] }, grains := k.grains - ch.2 }
  else m1

/-- The cycles of step i of a word, doubled in checked mode. -/
def MxOp.stepTime (o : MxOp) (b : Block) (side i : Nat) : Nat :=
  ((((o.steps b side)[i]?).map fun p => p.1).getD 1) * (if b.checked then 2 else 1)

/-- What MITER and MPOLY keep of their start (R247): in pair mode the coefficients and iteration registers are the leader's (log entry 86). -/
def MxOp.iterOf (o : MxOp) (b : Block) (side : Nat) : MxIter :=
  let tile (i t : Nat) : Nat × Nat × Memory := (i, t, (b.tile i t).bytes)
  let e := (b.side side).eng
  let both (i : Nat) : List (Nat × Nat × Memory) := if o.kind = 3 then [] else if o.mode = 1 then [tile i o.td, tile i o.ta] else [tile i o.td]
  { mode := if o.kind = 3 then 3 else o.mode, td := o.td, ta := o.ta, n := o.n, pair := o.pair, tctl := b.tctl side o.td,
    tctlF := b.tctl 1 o.td, step := 1, k := 0, rise := 0, flags := 0, coef := e.coef, cap := e.mitcap.toNat, tol := e.mittol,
    div := e.mitdiv, src := both side ++ if o.pair then both 1 else [] }

/-- R263: the fault of an end at the cap, with CAPFAULT = 1. -/
def capFault (div : Word) (lanes : Mask) (stat : Word) : Option CFault :=
  if div.getLsbD 31 then some { lanes := lanes, cause := 0x09, sub := 4, va := none, pa := none, detail := stat.toNat } else none

/-- R264: a MITER whose count already stands at the cap ends at once. -/
def Cx.miterAtCap (c : Cx) (k rise flags : Nat) : State :=
  let stat := mitWord 0 flags rise 0 2 k
  let fault := capFault (c.b.side c.w.side).eng.mitdiv c.ex stat
  let n := c.nextSeq
  let c1 := ((c.updB fun b => b.updEng c.w.side fun e => { e with mitstat := stat, owner := none }).enter [] .mx [] false []).updW fun w =>
    { w with rb := modWhere w.rb (fun e => e.seq == n) fun e => { e with done := true, fault := fault } }
  if fault.isSome then c1.s else (c1.flags (BitVec.ofNat 32 flags)).s

/-- R261, R264: MITER starts or resumes; the whole path waits at it, as at a wait marker. -/
def Cx.miter (c : Cx) (o : MxOp) : State :=
  let side := c.w.side
  let s := (c.b.side side).eng
  let again := s.resumes c.w.num c.is.here
  let k := s.startK c.w.num c.is.here
  let rise := if again then mitRise s.mitstat else 0
  let flags := if again then mitFlags s.mitstat else 0
  if s.mitcap.toNat ≤ k then c.miterAtCap k rise flags
  else
    let n := c.nextSeq
    let it : MxIter := { o.iterOf c.b side with k := k, rise := rise, flags := BitVec.ofNat 32 flags }
    let r : MxRun :=
      { blk := c.is.blk, warp := c.is.warp, side := side, pc := c.is.here, seq := some n,
        endAt := c.is.base.clock + o.stepTime c.b side 0, writes := [], iter := some it, flags := 0, follower := false, dead := false }
    let stat := mitWord 1 flags rise 1 (if again then mitReason s.mitstat else 0) k
    let c1 := (c.updB fun b => b.updEng side fun e => { e with mitstat := stat, owner := some (c.is.warp, c.is.here) }).enter [] .mx [] false []
    ((c1.upd fun m => m.startMx c.b o.pair r (o.chargeAt c.b side 0 0)).updW fun w =>
      w.updLanes c.is.lanes fun l => if l.run == .ready then { l with run := .miter n } else l).s

/-- R63, R316: does a word read a tile, on the follower too in pair mode, whose poison bit is set; a core with no valid row reads none. -/
def MxOp.poisoned (o : MxOp) (b : Block) (side count : Nat) : Bool :=
  let v := o.rows b side count
  o.reads.any fun t => (decide (0 < v.1) && (b.tile side t).poison) || (o.pair && decide (0 < v.2) && (b.tile 1 t).poison)

/-- R247, R269, R270: any other word of the array: its result is fixed at issue and lands when it ends; a mirrored word holds a return-buffer entry, and its flags wait for its halves to agree (R132). -/
def Cx.mxRun (c : Cx) (o : MxOp) : State :=
  let side := c.w.side
  let count := c.w.count o.vc
  let sigma := match o.sreg with | some r => (c.val r c.low).toNat | none => 0
  let out := o.out c.b side count sigma
  let mirror := o.mirror c.b side count
  let n := c.nextSeq
  let r : MxRun :=
    { blk := c.is.blk, warp := c.is.warp, side := side, pc := c.is.here, seq := if mirror then some n else none,
      endAt := c.is.base.clock + o.stepTime c.b side 0, writes := out.1, iter := if o.kind = 3 then some (o.iterOf c.b side) else none,
      flags := if mirror then out.2 else 0, follower := false, dead := false }
  let c1 := (if mirror then c else c.flags out.2).upd fun m => m.startMx c.b o.pair r (o.chargeAt c.b side count 0)
  if mirror then (c1.enter [] .mx [] false []).s else c1.s

/-- R247, R248: a word of the array. -/
def Cx.mx (c : Cx) (o : MxOp) : State :=
  if o.sreg.any fun r => !c.allU [r] then c.trap 0x03 0 0 0
  else
    match o.bad c.b c.w.side with
    | some k => c.trap 0x08 k 0 c.ex.toNat
    | none =>
      if o.poisoned c.b c.w.side (c.w.count o.vc) then c.consume 0x0F 4 none
      else if o.kind = 4 then c.miter o
      else c.mxRun o

/-- The frame of a word of the array. -/
def State.mxWord (s : State) (h : Hdr) (i : Instr) : Host.Outcome State Fault Refusal :=
  match mxOpOf i with
  | some o => s.word h o.sreg.toList fun c => c.mx o
  | none => .next s

/-- TZERO, R257. -/
def execTzero (h : Hdr) (t : BitVec 4) (v : BitVec 2) (s : State) : Host.Outcome State Fault Refusal := s.mxWord h (.tzero h t v)

/-- TMOV, R257. -/
def execTmov (h : Hdr) (t a : BitVec 4) (v : BitVec 2) (s : State) : Host.Outcome State Fault Refusal := s.mxWord h (.tmov h t a v)

/-- MTRN, R257. -/
def execMtrn (h : Hdr) (t a : BitVec 4) (v : BitVec 2) (s : State) : Host.Outcome State Fault Refusal := s.mxWord h (.mtrn h t a v)

/-- MMA, R251, R252. -/
def execMma (h : Hdr) (t a b f : BitVec 4) (p : Bool) (v : BitVec 2) (s : State) : Host.Outcome State Fault Refusal :=
  s.mxWord h (.mma h t a b f p v)

/-- MMAB, R253. -/
def execMmab (h : Hdr) (t a b f : BitVec 4) (v : BitVec 2) (s : State) : Host.Outcome State Fault Refusal := s.mxWord h (.mmab h t a b f v)

/-- MSCALE, R254. -/
def execMscale (h : Hdr) (t a : BitVec 4) (r : BitVec 6) (s : State) : Host.Outcome State Fault Refusal := s.mxWord h (.mscale h t a r)

/-- MPOLY, R259. -/
def execMpoly (h : Hdr) (t a n : BitVec 4) (p : Bool) (s : State) : Host.Outcome State Fault Refusal := s.mxWord h (.mpoly h t a n p)

/-- MITER.ns, R261. -/
def execMiterNs (h : Hdr) (t : BitVec 4) (p : Bool) (s : State) : Host.Outcome State Fault Refusal := s.mxWord h (.miterNs h t p)

/-- MITER.ninv, R261. -/
def execMiterNinv (h : Hdr) (t a : BitVec 4) (p : Bool) (s : State) : Host.Outcome State Fault Refusal := s.mxWord h (.miterNinv h t a p)

/-- MITER.poly, R261. -/
def execMiterPoly (h : Hdr) (t n : BitVec 4) (p : Bool) (s : State) : Host.Outcome State Fault Refusal := s.mxWord h (.miterPoly h t n p)

/-- TQNT, R255. -/
def execTqnt (h : Hdr) (t a : BitVec 4) (r : BitVec 6) (s : State) : Host.Outcome State Fault Refusal := s.mxWord h (.tqnt h t a r)

/-- TDQ, R255. -/
def execTdq (h : Hdr) (t a : BitVec 4) (r : BitVec 6) (s : State) : Host.Outcome State Fault Refusal := s.mxWord h (.tdq h t a r)

/-- R256: the byte offset a lane's slice word stands at; `col` walks columns. -/
def sliceOff (t : Word) (col : Bool) (j : Nat) : Nat :=
  if col then (j % tRows t * tCols t + j / tRows t) * 4 else 4 * j

/-- R256: the checks of a slice; then the slice number. -/
def Cx.slice (c : Cx) (tile : Nat) (b : BitVec 6) (col : Bool) (i : BitVec 2) (pf : Option (BitVec 23)) (k : Nat → State) : State :=
  let t := c.b.tctl c.w.side tile
  let x := (c.val b.toNat c.low + BitVec.ofNat 32 (pfField pf 0 5 * 4 + i.toNat)).toNat
  if !c.allU [b.toNat] then c.trap 0x03 0 0 0
  else
    match c.b.tileCheck c.w.side tile with
    | some e => c.trap 0x08 e 0 c.ex.toNat
    | none =>
      if col && tFmt t != 1 && tFmt t != 7 then c.trap 0x08 4 0 c.ex.toNat
      else if ceilDiv (tileBytes t) 4 ≤ x * c.W then c.trap 0x08 7 0 c.ex.toNat
      else k x

/-- TGET, R256: each lane's word of the slice; a poisoned tile commits poison (R316). -/
def execTget (h : Hdr) (d : BitVec 6) (t : BitVec 4) (b : BitVec 6) (r : Bool) (i : BitVec 2) (pf : Option (BitVec 23)) (s : State) : Host.Outcome State Fault Refusal :=
  s.word h [d.toNat, b.toNat] fun c =>
    c.slice t.toNat b r i pf fun x =>
      let tc := c.b.tctl c.w.side t.toNat
      let tl := c.b.tile c.w.side t.toNat
      let byte (o : Nat) : Byte := if o < tileBytes tc then Memory.get tl.bytes o else 0
      let word (l : Nat) : Word :=
        let o := sliceOff tc r (x * c.W + l)
        if x * c.W + l < ceilDiv (tileBytes tc) 4 then BitVec.ofNat 32 (leNat ((List.range 4).map fun j => byte (o + j))) else 0
      let n := c.nextSeq
      let fault : Option CFault := if tl.poison then some { lanes := c.ex, cause := 0x0F, sub := 1, va := none, pa := none, detail := 0 } else none
      ((c.long d.toNat [RVal.lanes c.W word]).updW fun w =>
        { w with rb := modWhere w.rb (fun e => e.seq == n) fun e => { e with fault := fault } }).s

/-- TSET, R256: each lane's word into the tile; bytes beyond its byte size are not written. -/
def execTset (h : Hdr) (d : BitVec 6) (t : BitVec 4) (b : BitVec 6) (r : Bool) (i : BitVec 2) (pf : Option (BitVec 23)) (s : State) : Host.Outcome State Fault Refusal :=
  s.word h [d.toNat, b.toNat] fun c =>
    c.slice t.toNat b r i pf fun x =>
      let tc := c.b.tctl c.w.side t.toNat
      let cells := c.lanes.flatMap fun l =>
        let j := x * c.W + l
        if j < ceilDiv (tileBytes tc) 4 then (cellsFrom (sliceOff tc r j) (wordBytes (c.val d.toNat l))).filter fun q => q.1 < tileBytes tc else []
      (c.updB fun blk => blk.updSide c.w.side fun sd =>
        { sd with tiles := modAt sd.tiles t.toNat fun q => { q with bytes := q.bytes.setCells cells } }).s

/-- R173, R420, R165: check the pieces of a word's ranges for all its lanes at once: PROT and BOUNDS trap; a missing page parks every lane of Exec; else the pieces as (va, key, length). -/
def Cx.pieces (c : Cx) (ps : List (Nat × Nat)) (need : Need) (access : Nat) (k : Cx → List (Nat × Nat × Nat) → State) : State :=
  let rs := ps.map fun p => (c.checkGlob c.low p.1 1 need, p.2)
  match firstBad (rs.map Prod.fst) with
  | some (va, cause, sub, pa) => c.badTrap cause sub va pa c.ex
  | none =>
    let misses := rs.filterMap fun r => match r.1 with | .page _ va => some va | _ => none
    if !misses.isEmpty then (c.park (c.lanes.flatMap fun l => misses.map fun va => (l, va)) access c.b.die).s
    else
      let oks := rs.filterMap fun r => match r.1 with | .ok a pte _ _ => some (a.va, a.key, pte, r.2) | _ => none
      k (c.upd fun m => oks.foldl (fun m q => m.touch q.2.2.1 need.w) m) (oks.map fun q => (q.1, q.2.1, q.2.2.2))

/-- The keys of a range of bytes from its pieces, as (va, key) pairs. -/
def pieceKeys (ps : List (Nat × Nat × Nat)) : List (Nat × Nat) := ps.flatMap fun p => (List.range p.2.2).map fun i => (p.1 + i, p.2.1 + i)

/-- The accesses a tile transfer makes for each lane of Exec, one per piece. -/
def Cx.pieceAccs (c : Cx) (ps : List (Nat × Nat × Nat)) : List Access :=
  c.lanes.flatMap fun l => ps.map fun p => { lane := l, va := p.1, loc := .glob p.2.1, size := p.2.2, ops := [] }

/-- R420 checks 1 to 4 of a tile transfer; then the valid memory rows with their addresses. -/
def Cx.tileRows (c : Cx) (t : Nat) (a b : BitVec 6) (pair store : Bool) (vc : Nat) (k : Word → List (Nat × Nat) → State) : State :=
  let side := c.w.side
  let base := (c.pair a.toNat c.low).toNat
  let stride := (c.val b.toNat c.low).toNat
  let tc := c.b.tctl side t
  let rows := validRows tc (c.w.count vc)
  match c.b.tileCheck side t with
  | some e => c.trap 0x08 e 0 c.ex.toNat
  | none =>
    if pair && (!c.b.paired || side != 0) then c.trap 0x08 5 0 c.ex.toNat
    else if pair && c.b.tctl 1 t != tc then c.trap 0x08 4 0 c.ex.toNat
    else if 2 ^ 52 ≤ base then c.trap 0x07 4 base c.ex.toNat
    else if base % 16 ≠ 0 || stride % 16 ≠ 0 then c.trap 0x04 5 base c.ex.toNat
    else if store && decide (stride < rowBytes tc) && decide (1 < rows.length) then c.trap 0x08 4 0 c.ex.toNat
    else k tc (rows.map fun r => (r, base + r * stride))

/-- A word that only moves tile bytes takes its core until it ends (R420); in checked mode it runs mirrored and holds a return-buffer entry (R269). -/
def Cx.moveRun (c : Cx) (pair : Bool) (writes : List (Nat × Nat × List Host.Cell × Option Bool)) : Cx :=
  let r : MxRun :=
    { blk := c.is.blk, warp := c.is.warp, side := c.w.side, pc := c.is.here, seq := if c.b.checked then some c.nextSeq else none,
      endAt := c.is.base.clock, writes := writes, iter := none, flags := 0, follower := false, dead := false }
  let c1 := c.upd fun m => m.startMx c.b pair r (0, 0)
  if c.b.checked then c1.enter [] .mx [] false [] else c1

/-- R380: the aligned 16-byte parts of a translated piece, as accesses. -/
def chunks16 (p : Nat × Nat × Nat) : List Access :=
  (List.range ((p.2.2 + 15) / 16)).map fun i => { lane := 0, va := p.1 + 16 * i, loc := .glob (p.2.1 + 16 * i), size := min 16 (p.2.2 - 16 * i), ops := [] }

/-- R154, R380, R420: the parts a TLD reads: those of another package read as RLDs, with the channel operations they must first see acknowledged (R210). -/
def Mach.tileParts (m : Mach) (b : Block) (ps : List (Nat × Nat × Nat)) : List (Bool × Access) × List (Nat × Nat) :=
  let rs := ps.flatMap fun p => (chunks16 p).map fun a => if keyPkg p.2.1 != m.rmap.pkg then (true, b.direct a) else (false, a, [])
  (rs.map fun r => (r.1, r.2.1), (rs.flatMap fun r => r.2.2).eraseDups)

/-- TLD, R419, R420. -/
def execTld (h : Hdr) (t : BitVec 4) (a b : BitVec 6) (p : Bool) (v : BitVec 2) (s : State) : Host.Outcome State Fault Refusal :=
  s.word h (pairRegs a ++ [b.toNat]) fun c0 =>
    let c := c0.afterFence
    c.tileRows t.toNat a b p false v.toNat fun tc rows =>
      c.pieces (rows.flatMap fun r => pagePieces r.2 (rowBytes tc) 2) { r := true, w := false, x := false } 1 fun c ps =>
        c.settled (c.pieceAccs ps) fun c =>
          match c.s.m.block? c.is.blk with
          | none => c.s
          | some blk =>
            let m := c.s.m
            let parts := m.tileParts blk ps
            if !parts.2.isEmpty then (c.stallWith fun m => m.updBlock c.is.blk fun b => parts.2.foldl (fun b p => b.endHold p.1) b) else
            if ps.any fun p => m.inFlight blk p.2.1 p.2.2 then c.stall else
            let data := parts.1.flatMap fun p => m.readAccess blk p.1 p.2
            let cells := (rows.zip (List.range rows.length)).flatMap fun q => cellsFrom (q.1.1 * rowBytes tc) ((data.drop (q.2 * rowBytes tc)).take (rowBytes tc))
            let bad := parts.1.any fun p => m.poisonedAt blk p.1 p.2
            let bit : Option Bool := if bad then some true else if rows.length = memRows tc then some false else none
            let one (side : Nat) : Nat × Nat × List Host.Cell × Option Bool := (side, t.toNat, cells, bit)
            (c.moveRun p (if p then [one 0, one 1] else [one c.w.side])).s

/-- R322, R420: the bytes a TST stores, sector by sector, as (va of the sector, cells), in row order; the register window takes no write of a row's size. -/
def sectorCells (cells : List (Nat × Nat × Byte)) : List (Nat × List Host.Cell) :=
  let secs := ((cells.filter fun q => !isMmio q.2.1).map fun q => sectorOf q.2.1).eraseDups
  secs.map fun s =>
    let mine := cells.filter fun q => sectorOf q.2.1 == s
    ((mine.map fun q => q.1 - q.2.1 % 128).headD 0, mine.map fun q => (q.2.1, q.2.2))

/-- R180, R420: a sector of a TST: on the block's die it lands now, else it waits for ch0. -/
def Mach.tstSector (id : Nat) (m : Mach) (q : Nat × List Host.Cell) : Mach :=
  match m.block? id, q.2 with
  | some b, (k, _) :: _ =>
    if m.onDie b k then m.landFor b (sectorOf k) q.1 q.2
    else m.updBlock id fun b =>
      let e : SbEnt := { seq := b.sbSeq, sector := sectorOf k, va := q.1, cells := q.2, released := false, tst := true, own := none }
      let b1 : Block := { b with sb := b.sb ++ [e], sbSeq := b.sbSeq + 1 }
      b1.ch0Flush m.rmap.pkg m.clock b1.sb.length
  | _, _ => m

/-- R177, R181, R183: what a block has released to some sectors becomes visible; behind a ST.rel of it to one, all it has released does. -/
def Mach.sectorsVisible (m : Mach) (id : Nat) (secs : List Nat) : Mach :=
  match m.block? id with
  | none => m
  | some b =>
    if b.rels.any fun r => r.cells.any fun x => secs.contains (sectorOf x.1) then m.allVisible id
    else (((b.sb.filter fun e => e.released && secs.contains e.sector).map fun e => e.seq).foldl (fun m q => m.makeVisible id q) m).runRels id

/-- TST, R419, R420. What it writes on its die now seals the block; a sector on ch0 does when it is sent (R311). With no valid row nothing is read (R63). -/
def execTst (h : Hdr) (t : BitVec 4) (a b : BitVec 6) (v : BitVec 2) (s : State) : Host.Outcome State Fault Refusal :=
  s.word h (pairRegs a ++ [b.toNat]) fun c0 =>
    let c := c0.afterFence
    c.tileRows t.toNat a b false true v.toNat fun tc rows =>
      c.pieces (rows.flatMap fun r => pagePieces r.2 (rowBytes tc) 2) { r := false, w := true, x := false } 2 fun c ps =>
        if (c.b.tile c.w.side t.toNat).poison && !rows.isEmpty then c.consume 0x0F 4 none
        else
          c.settled (c.pieceAccs ps) fun c =>
            let src := (c.b.tile c.w.side t.toNat).bytes
            let data := rows.flatMap fun r => src.bytes (r.1 * rowBytes tc) (rowBytes tc)
            let items := sectorCells (((pieceKeys ps).zip data).map fun q => (q.1.1, q.1.2, q.2))
            let keys := items.filterMap fun q => q.2.head?.map Prod.fst
            let c1 := (c.releaseSectors (keys.map sectorOf)).upd fun m => m.sectorsVisible c.is.blk (keys.map sectorOf)
            let c2 := c1.upd fun m => items.foldl (Mach.tstSector c.is.blk) m
            let c3 := c2.updB fun b => { b with sealed := b.sealed || items.any fun q => q.2.any fun x => c2.s.m.onDie c.b x.1 }
            (c3.moveRun false []).s

end Sys2Proof.Machine
end

