-- ==== Sys2Proof/Machine/MxEvents.lean ====
section
/-! DEFINITION. What happens on a core's array between issues: MX words end (R247), MITER and MPOLY take their charges (R267, R268), MITER tests an iteration (R262, R263) or is interrupted (R265), and a mirrored check fails (R269). -/

namespace Sys2Proof.Machine

/-- The MX word of an iteration. -/
def MxIter.op (i : MxIter) : MxOp :=
  { MxOp.plain (if i.mode = 3 then 3 else 4) i.td i.ta with mode := if i.mode = 3 then 0 else i.mode, n := i.n, pair := i.pair }

/-- R247: the block with the tile controls and source tiles as the word reads them. -/
def Block.atStart (b : Block) (side : Nat) (i : MxIter) : Block :=
  let put (v : Word) (s : Side) : Side := { s with tctl := if i.mode = 1 ∨ i.mode = 3 then (s.tctl.set i.td v).set i.ta v else s.tctl.set i.td v }
  let b1 := if i.pair then b.updSide 1 (put i.tctlF) else b
  i.src.foldl (fun b q => b.updSide q.1 fun s => { s with tiles := modAt s.tiles q.2.1 fun t => { t with bytes := q.2.2 } }) (b1.updSide side (put i.tctl))

/-- The arrays a running word holds become free. -/
def Mach.freeMx (m : Mach) (r : MxRun) : Mach :=
  { m with cores := m.cores.map fun k =>
      match k.mx with
      | some q => if q.blk == r.blk && q.warp == r.warp && q.pc == r.pc then { k with mx := none } else k
      | none => k }

/-- The side whose registers a running word uses: a pair-mode word issues on the leader (R252). -/
def MxRun.home (r : MxRun) : Nat := if r.follower then 0 else r.side

/-- Does a MITER or MPOLY run on both cores. -/
def MxRun.paired (r : MxRun) : Bool := r.iter.any fun i => i.pair

/-- Has every step of a running word been charged. -/
def MxRun.charged (r : MxRun) (b : Block) : Bool :=
  match r.iter with
  | some i => decide ((i.op.steps (b.atStart r.side i) r.side).length ≤ i.step)
  | none => true

/-- R132: long CRDs of FPFLAGS that waited for an MX word of the warp take its flags with those known at their issue. -/
def Warp.flagReads (w : Warp) (f : Word) : Warp :=
  { w with rb := w.rb.map fun e =>
      match e.pend with
      | .sample 0x019 => if e.done then e else { e with done := true, vals := e.vals.map fun v => .u (v.get 0 ||| f) }
      | _ => e }

/-- R132: the flags of a MITER or mirrored word are known: its warp takes them unless a later CWR overrides them. -/
def Mach.mxFlags (m : Mach) (r : MxRun) (f : Word) : Mach :=
  m.updWarp r.blk r.warp fun w => (w.flagReads f).queued.both fun w => { w with fpflags := if r.dead then w.fpflags else w.fpflags ||| f }

/-- R247, MX_WORD_END: a word other than MITER that has run its cycles writes its tiles, fills its entry and frees its arrays. -/
def Mach.mxEnd (m : Mach) (core : Nat) : Mach :=
  match (m.core core).mx with
  | none => m
  | some r =>
    if r.follower || r.miter || m.clock < r.endAt then m
    else
      match m.block? r.blk with
      | none => m.freeMx r
      | some b =>
        if b.place != .placed then m.freeMx r
        else if !r.charged b then m
        else
          let m1 := (m.updBlock r.blk fun b => b.tileWrites r.writes).freeMx r
          match r.seq with
          | some n => (m1.fillWith r.blk r.warp n fun e => e).mxFlags r r.flags
          | none => m1

/-- Update the iteration of a running word on its own core. -/
def Mach.updIter (m : Mach) (core : Nat) (endAt : Nat) (f : MxIter → MxIter) : Mach :=
  m.updCore core fun k => { k with mx := k.mx.map fun r => { r with endAt := endAt, iter := r.iter.map f } }

/-- R260: put a phase into MITSTAT. -/
def MitRegs.setPhase (s : MitRegs) (p : Nat) : MitRegs :=
  { s with mitstat := BitVec.ofNat 32 (s.mitstat.toNat - mitPhase s.mitstat * 4096 + p * 4096) }

/-- R267, R268, MITER_PHASE_START: the next step takes its charge once the step before is over and the caches hold it. -/
def Mach.phaseStart (m : Mach) (core : Nat) : Mach :=
  match (m.core core).mx with
  | none => m
  | some r =>
    match r.iter, m.block? r.blk with
    | some i, some b0 =>
      let b := b0.atStart r.side i
      let steps := i.op.steps b r.side
      if r.follower || m.clock < r.endAt || steps.length ≤ i.step then m
      else
        let ch := i.op.chargeAt b r.side 0 i.step
        let other := (b.side 1).core
        if (m.core core).grains < ch.1 || (i.pair && (m.core other).grains < ch.2) then m
        else
          let m1 := m.updCore core fun k => { k with grains := k.grains - ch.1 }
          let m2 := if i.pair then m1.updCore other fun k => { k with grains := k.grains - ch.2 } else m1
          let m3 := m2.updIter core (m.clock + i.op.stepTime b r.side i.step) fun i => { i with step := i.step + 1 }
          let ph := ((steps[i.step]?).map fun p => p.2).getD 0
          if i.mode = 3 then m3 else m3.updBlock r.blk fun b => b.updEng r.home fun e => e.setPhase ph
    | _, _ => m

/-- R260: a held CWR of MITSTAT clears the register after the MITER's own write. -/
def MitRegs.applyHeld (s : MitRegs) : MitRegs := if s.heldClr then { s with mitstat := 0, owner := none, heldClr := false } else s

/-- R260, R264: a MITER's last write of its registers, and then the held CWRs of the cores it ran on. -/
def Block.endEng (b : Block) (r : MxRun) (f : MitRegs → MitRegs) : Block :=
  let b1 := b.updEng r.home fun e => (f e).applyHeld
  if r.paired then b1.updEng 1 MitRegs.applyHeld else b1

/-- R263, R264: a MITER ends or fails: MITSTAT and MITRES, its entry with a fault if it has one, its flags, the path, and the arrays. -/
def Mach.miterOver (m : Mach) (r : MxRun) (stat : Word) (rho : BitVec 64) (flags : Word) (fault : Mask → Option CFault) : Mach :=
  let m1 := m.updBlock r.blk fun b => b.endEng r fun e => { e with mitstat := stat, mitres := rho, owner := none }
  let n := r.seq.getD 0
  let lanes := match (m.warp? r.blk r.warp).bind fun w => w.rb.find? fun e => e.seq == n with | some e => e.exec | none => 0
  let f := fault lanes
  let raised : Word := if f.isSome then 0 else flags
  let m2 := m1.fillWith r.blk r.warp n fun e => { e with fault := f }
  let m3 := (m2.mxFlags r raised).updWarp r.blk r.warp fun w =>
    { w with lanes := w.lanes.map fun l => if l.run == .miter n then { l with run := .ready } else l }
  m3.freeMx r

/-- R263: an accepted iteration: X, MITRES and the count move on. -/
def Mach.miterAccept (m : Mach) (core : Nat) (r : MxRun) (i : MxIter) (y : List (List Nat)) (rho : BitVec 64) (rise : Nat) (flags : Word) : Mach :=
  let ws := splitRows r.side i.td i.pair i.tctl i.tctlF y
  let m1 := m.updBlock r.blk fun b =>
    (b.tileWrites ws).updEng r.home fun e => { e with mitres := rho, mitstat := mitWord 1 flags.toNat rise 5 (mitReason e.mitstat) (i.k + 1) }
  let moved (q : Nat × Nat × Memory) : Nat × Nat × Memory :=
    ws.foldl (fun q w => if w.1 = q.1 ∧ w.2.1 = q.2.1 then (q.1, q.2.1, q.2.2.setCells w.2.2.1) else q) q
  m1.updIter core m.clock fun i => { i with step := 0, k := i.k + 1, rise := rise, flags := flags, src := i.src.map moved }

/-- R263: is the FP64 value a above b. -/
def above (a b : FV) : Bool :=
  match a, b with
  | .fin _ 0 _, .fin _ 0 _ => false
  | _, _ => b.below a

/-- R262, R263, MITER_ITERATION_END: after phase 5 the tests accept, end or fail the MITER. -/
def Mach.iterationEnd (m : Mach) (core : Nat) : Mach :=
  match (m.core core).mx with
  | none => m
  | some r =>
    match r.iter, m.block? r.blk with
    | some i, some b0 =>
      let b := b0.atStart r.side i
      if r.follower || i.mode == 3 || m.clock < r.endAt || i.step == 0 || !r.charged b0 then m
      else
        let s := (b.side r.home).eng
        let f := (tileFmt (tFmt i.tctl)).getD f32
        let x := b.mat r.side i.td i.pair i.tctl i.tctlF
        let a := b.mat r.side i.ta i.pair i.tctl i.tctlF
        let y := miterStep i.mode f (mmaG (tFmt i.tctl)) (tCols i.tctl) i.n x a i.coef
        let res := residual y.1 x
        let rho := f64.value res.1
        let rhoBits := BitVec.ofNat 64 res.1
        let finite := y.1.finite && (match rho with | .fin .. => true | _ => false)
        let bexp := i.div.toNat / 256 % 256
        let count := i.div.toNat % 256
        let rise := if decide (0 < i.k) && above rho (f64.value s.mitres.toNat) then i.rise + 1 else 0
        let flags := i.flags ||| y.2 ||| res.2
        let fail (reason sub : Nat) : Mach :=
          let stat := mitWord 0 0 0 5 reason i.k
          m.miterOver r stat rhoBits 0 fun ex => some { lanes := ex, cause := 0x09, sub := sub, va := none, pa := none, detail := stat.toNat }
        if !finite then fail 3 1
        else if bexp != 255 && above rho (.fin false 1 ((bexp : Int) - 127)) then fail 4 2
        else if count != 0 && decide (count ≤ rise) then fail 5 3
        else
          let m1 := m.miterAccept core r i (y.1.bits f) rhoBits rise flags
          if !above rho (f32.value i.tol.toNat) then
            m1.miterOver r (mitWord 0 flags.toNat rise 0 1 (i.k + 1)) rhoBits flags fun _ => none
          else if i.cap ≤ i.k + 1 then
            let stat := mitWord 0 flags.toNat rise 0 2 (i.k + 1)
            m1.miterOver r stat rhoBits flags fun ex => capFault i.div ex stat
          else m1
    | _, _ => m

/-- R265: a running MITER is interrupted: its iteration is abandoned, MITSTAT keeps RUN and the phase with REASON 6, and its path stands at it again. DESIGN CHOICE (log entry 80): R132 does not say what a CRD of FPFLAGS that waits for it returns; it is filled now, with none of the MITER's flags, which the resumed MITER raises. The spec does not say what becomes of words chained after the MITER: they have executed, and execute again with it (DESIGN CHOICE, log entry 87). -/
def Mach.abandonMiter (m : Mach) (core : Nat) : Mach :=
  match (m.core core).mx with
  | none => m
  | some r =>
    if !r.miter then m
    else
      let n := r.seq.getD 0
      let m1 := m.updBlock r.blk fun b => b.endEng r fun e => { e with mitstat := BitVec.ofNat 32 (e.mitstat.toNat - mitReason e.mitstat * 256 + 6 * 256) }
      let m2 := m1.updWarp r.blk r.warp fun w =>
        let w1 := w.flagReads 0
        { w1 with rb := w1.rb.filter fun e => e.seq != n,
                  lanes := w1.lanes.map fun l => if l.run == .miter n then { l with run := .ready, pc := r.pc } else l }
      m2.freeMx r

/-- R269: the mirrored halves of a running mirrored word disagree: td keeps its contents, and MCHK is delivered at the commit of its entry; a MITER fails its iteration. -/
def Mach.mirrorFail (m : Mach) (core : Nat) : Mach :=
  match (m.core core).mx with
  | none => m
  | some r =>
    let mchk (ex : Mask) : Option CFault := some { lanes := ex, cause := 0x10, sub := 3, va := none, pa := none, detail := 0 }
    match m.block? r.blk with
    | none => m
    | some b =>
      if r.follower then m
      else if r.miter then
        let s := (b.side r.home).eng
        if !(r.iter.any fun i => i.op.mirror (b.atStart r.side i) r.side 0) then m
        else m.miterOver r (mitWord 0 0 0 (mitPhase s.mitstat) 7 (s.mitstat.toNat % 256)) s.mitres 0 mchk
      else
        match r.seq with
        | none => m
        | some n => ((m.fillWith r.blk r.warp n fun e => { e with fault := mchk e.exec }).mxFlags r 0).freeMx r

/-- MX_WORD_END, R247. -/
def execMxWordEnd (core : Nat) (s : State) : Host.Outcome State Fault Refusal := s.event fun m => m.mxEnd core

/-- MITER_PHASE_START, R268. -/
def execMiterPhaseStart (core : Nat) (s : State) : Host.Outcome State Fault Refusal := s.event fun m => m.phaseStart core

/-- MITER_ITERATION_END, R263. -/
def execMiterIterationEnd (core : Nat) (s : State) : Host.Outcome State Fault Refusal := s.event fun m => m.iterationEnd core

end Sys2Proof.Machine
end

