-- ==== Sys2Proof/Machine/MapEvents.lean ====
section
/-! DEFINITION. Boot (R16 to R18, R332), map events (R28 to R32), the loss of cores, slices, channels, ports and dies (R28 to R30, R39), and power (R25, R266, R335). -/

namespace Sys2Proof.Machine

/-- R21: the STATE of a compute die from its masks. -/
def DieEnt.judged (e : DieEnt) : DieEnt :=
  if e.state = 1 ∨ e.state = 2 then
    { e with state := if e.cores = 0 then 3 else if e.cores = 2 ^ 20 - 1 ∧ e.slices = 2 ^ 16 - 1 ∧ e.channels = 2 ^ 32 - 1 then 1 else 2 }
  else e

/-- R14, R23: the links of a plane: those of the compute dies, and the FE's. -/
def planeLinks (p : Nat) : List Nat := (List.range 8).map (fun d => 8 * p + d) ++ [24 + p]

/-- R17: does a plane have a live link to the FE and to a live compute die. -/
def ResMap.planeUp (r : ResMap) (p : Nat) : Bool :=
  r.linkState (24 + p) != 0 &&
    (List.range 8).any fun d => r.linkState (8 * p + d) != 0 && (match r.dies[d]? with | some e => e.state == 1 || e.state == 2 | none => false)

/-- R23: the STATE of a plane that is not lost. -/
def ResMap.planeState (r : ResMap) (p : Nat) : Nat := if (planeLinks p).all fun i => r.linkState i == 1 then 1 else 2

/-- R23: planes follow their links. -/
def ResMap.judged (r : ResMap) : ResMap :=
  { r with planes := r.planes.zipIdx.map fun q => if q.1.1 = 0 then q.1 else (r.planeState q.2, q.1.2) }

/-- R303, R447: a block whose restore waits gives its place back and is saved as before. -/
def Mach.unreserve (m : Mach) (b : Block) : Mach :=
  if b.place != .restoring then m
  else
    let m1 := (m.leaveCores b).updBlock b.id fun b => { b with place := .saved }
    b.sides.foldl (fun m s => m.grants s.core s.bank) m1

/-- R265, R302: the block stops issuing; its running MITER is interrupted. A restore that waits is given up. -/
def Mach.freeze (m : Mach) (id : Nat) : Mach :=
  match m.block? id with
  | none => m
  | some b =>
    if b.place == .restoring then m.unreserve b
    else
    let m1 := m.updBlock id fun b => { b with stopped := true }
    b.sides.foldl
      (fun m s => match (m.core s.core).mx with | some r => if r.blk == id then m.abandonMiter s.core else m | none => m) m1

/-- R36, R302: every block of a context on the cores is to be saved. -/
def Mach.freezeCtx (m : Mach) (ctx : Nat) : Mach :=
  ((m.blocks.filter fun b => b.ctx == ctx && b.onCores).map fun b => b.id).foldl Mach.freeze m

/-- R31: no version is left: the package is failed, and every context is suspended, its blocks stopped to be saved, until package reset. -/
def Mach.exhausted (m : Mach) : Mach :=
  if m.bootState = 3 then m
  else
    let m1 := { m with bootState := 3, bootReason := 5, ctxs := m.ctxs.map (fun (c : Ctx) => { c with suspMap := true }) }
    ((m.ctxs.map fun c => c.id).foldl Mach.freezeCtx m1).log (feLog 0x16 0 none none 0 0) none

/-- R11, R31: the die that reports an event: the component's own die, the compute end of a link, the FX die of a plane or port, the FE for power (log entry 8). -/
def MapEvent.die (e : MapEvent) : Nat :=
  if e.kind ≤ 3 then e.obj
  else if e.kind ≤ 5 then (linkEnds e.obj).1
  else if e.kind = 6 then 9 + e.obj
  else if e.kind = 7 then 9 + portPlane e.obj
  else 8

/-- R31: put a report into a list in order of die id, then of kind. -/
def MapEvent.insert (e : MapEvent) : List MapEvent → List MapEvent
  | [] => [e]
  | x :: xs => if e.die * 256 + e.kind < x.die * 256 + x.kind then e :: x :: xs else x :: MapEvent.insert e xs

/-- R31: reports of one cycle take their versions in order of die id, then of kind. -/
def Mach.orderCycle (m : Mach) : Mach :=
  let now := m.rmap.hist.filter fun e => e.time == m.clock
  let sorted := now.reverse.foldl (fun l e => e.insert l) []
  let fixed := sorted.zipIdx.map fun p => { p.1 with ver := m.rmap.ver - now.length + 1 + p.2 }
  let again (q : Nat × Nat × Nat) : Nat × Nat × Nat :=
    if q.2.2 = m.clock then (match fixed.find? fun e => e.ver == q.1 with | some e => (q.1, e.kind, q.2.2) | none => q) else q
  { m with rmap := { m.rmap with hist := fixed.reverse ++ m.rmap.hist.filter fun e => e.time != m.clock },
           ctxs := m.ctxs.map (fun (c : Ctx) => { c with events := c.events.map again }) }

/-- R26, R28, R31, R32: post an event: the map's version and history, what it leaves uncovered in every context, and the notice to the host. The image follows, and MAPVER after it (R32). -/
def Mach.postEvent (m : Mach) (kind obj idx : Nat) (f : ResMap → ResMap) : Mach :=
  if m.rmap.ver = 0 then m
  else if m.rmap.ver = 2 ^ 32 - 1 then m.exhausted
  else
    let v := m.rmap.ver + 1
    let e : MapEvent := { ver := v, kind := kind, obj := obj, idx := idx, time := m.clock }
    let r := (f m.rmap).judged
    let m1 := { m with
      rmap := { r with ver := v, hist := (e :: r.hist).take 16 },
      ctxs := m.ctxs.map (fun (c : Ctx) => { c with events := c.events ++ [(v, kind, m.clock)] }) }
    (if m.rmap.hist.any fun e => e.time == m.clock then m1.orderCycle else m1).notice 1 0xFF v 0

/-- R25, R335: LIMIT, and CAUSE for a limit. -/
def Mach.limitNow (m : Mach) : Nat := min (min m.hostCap m.boardCap) 2400

def Mach.powerCause (m : Mach) (limit : Nat) : Nat :=
  (if m.hostCap = limit ∧ limit < 2400 then 1 else 0) + (if m.hot ∨ m.rmap.templim < m.temp then 2 else 0) +
    (if m.boardCap = limit ∧ limit < 2400 then 4 else 0)

/-- R335: a cap has changed: a new LIMIT posts kind 8 or 9. -/
def Mach.newCap (m : Mach) : Mach :=
  let l := m.limitNow
  if l = m.rmap.limit then m
  else
    m.postEvent (if l < m.rmap.limit then 8 else 9) 8 0 fun r =>
      { r with limit := l, rate := r.ratemax * l / 2400, cause := m.powerCause l }

/-- R16 steps 1, 2, 4, 5: a die's entry. -/
def dieAt (d : Nat) (p : DieReport) : DieEnt :=
  let e : DieEnt := { DieEnt.absent with hwver := if p.answers then p.hwver else 0, serial := if p.answers then p.serial else 0 }
  if !p.answers || !p.kindOk then e
  else if d < 8 then
    DieEnt.judged { e with state := 1, cores := p.cores.toNat, slices := p.slices.toNat, channels := p.channels.toNat }
  else { e with state := 1 }

/-- R241: the highest version this package and the other end both advertise: the package implements 1.0 and 1.1 of BDP and of Igroxel. -/
def commonVersion (vers : List Nat) : Option Nat := [0x0101, 0x0100].find? fun v => vers.contains v

/-- R16 step 3, R241: a link's entry; a link to an absent die is lost. -/
def linkAt (dies : List DieEnt) (i : Nat) (p : LinkReport) : LinkEnt :=
  let here (d : Nat) : Bool := match dies[d]? with | some e => e.state != 0 | none => false
  match commonVersion p.vers with
  | some v =>
    if p.trained && here (linkEnds i).1 && here (linkEnds i).2 && p.modmask.toNat % 2 ^ linkBuilt i != 0 then
      { state := 1, modmask := p.modmask.toNat % 2 ^ linkBuilt i, width := 64, replays := 0, bdp := v }
    else LinkEnt.none_
  | none => LinkEnt.none_

/-- R24, R241: a port's entry; an Igroxel port with no common version stays unconnected. -/
def portAt (i : Nat) (p : PortReport) : PortEnt :=
  if !p.up then PortEnt.none_
  else if i < 36 then
    match commonVersion p.vers with
    | some v => { state := 1, ver := v, peerPkg := p.peerPkg, peerPort := p.peerPort }
    | none => PortEnt.none_
  else { state := 1, ver := 0, peerPkg := 0xFF, peerPort := 0xFF }

/-- R16 to R18, R25: version 1 of the map. -/
def mapOne (r : BootReport) (limit cause : Nat) : ResMap :=
  let dies := (r.dies.zipIdx.map fun p => dieAt p.2 p.1).take 11
  let links := (r.links.zipIdx.map fun p => linkAt dies p.2 p.1).take 26
  let base : ResMap := { ResMap.empty with ver := 1, dies := dies, links := links }
  let plane (p : Nat) : Nat × Nat := if base.planeUp p then (base.planeState p, 256) else (0, 0)
  { base with
    planes := [plane 0, plane 1], ports := (r.ports.zipIdx.map fun p => portAt p.2 p.1).take 44, limit := limit,
    rate := r.ratemax * limit / 2400, templim := r.templim, cause := cause, ratemax := r.ratemax,
    pkg := (r.ident.map fun p => p.1).getD 0, dom := (r.ident.map fun p => p.2).getD 1 }

/-- R18: is a package identity invalid. -/
def badIdent (i : Option (Nat × Nat)) : Bool := match i with | some (p, d) => decide (d ≤ p ∨ d = 0 ∨ 64 < d) | none => false

/-- R17, R18, R324, R332: the step and reason of a failed boot. -/
def bootFailure (r : BootReport) (map : ResMap) : Option (Nat × Nat) :=
  if !r.imageOk then some (0, 4)
  else if badIdent r.ident then some (1, 6)
  else if !r.feOk then some (4, 1)
  else if !(map.dies.take 8).any fun e => e.state == 1 || e.state == 2 then some (6, 2)
  else if !map.planes.any fun p => p.1 != 0 then some (6, 3)
  else none

/-- R12: is core c of the package in the map's live masks. -/
def ResMap.coreLive (r : ResMap) (c : Nat) : Bool :=
  match r.dies[c / 20]? with
  | some e => (e.state == 1 || e.state == 2) && e.cores.testBit (c % 20)
  | none => false

/-- R16, R324, R334: the machine right after package reset; memory keeps its contents (log entry 1), key 0 is a new one (log entry 28), and a staged image runs (R330). -/
def Mach.afterReset (m : Mach) : Mach :=
  { Mach.reset with mem := m.mem, poison := m.poison, sealKeys := m.sealKeys, keyTab := m.keyTab ++ [.root (m.boots + 1)], boots := m.boots + 1, keys := [(0, m.keyTab.length)],
                    image := m.staged.getD m.image }

/-- R332: does the root of trust accept an image: its key is the one whose hash is fused, and its signature verifies. -/
def imageValid (image : List Byte) : Bool :=
  let p := Config.imageParts image
  sha384 p.key == Config.fusedHash && ecdsaOk (pointOf p.key) p.signed p.r p.s

/-- R16, R332: Favos begins to boot the package; its image is verified before step 1. -/
def Mach.boot (m : Mach) (r : BootReport) : Mach :=
  let m1 := m.afterReset
  { m1 with booting := some { r with imageOk := imageValid m1.image } }

/-- R16 to R18, R324: Favos goes on: the step begun last fails, or the next begins, and after step 6 the map and the host interface stand. A step takes a cycle (log entry 45). -/
def Mach.favos (m : Mach) : Mach :=
  match m.booting with
  | none => m
  | some r =>
    let map := mapOne r m.limitNow (m.powerCause m.limitNow)
    match bootFailure r map with
    | some (step, reason) =>
      if m.bootStep = step then { m with bootState := 3, bootReason := reason, booting := none } else { m with bootStep := m.bootStep + 1 }
    | none =>
      if m.bootStep = 6 then
        { m with bootState := 2, rmap := map, pubBody := map, pubVer := map.ver, booting := none,
                 cores := m.cores.zipIdx.map fun p => { p.1 with live := map.coreLive p.2 } }
      else { m with bootStep := m.bootStep + 1 }

/-- R27, R32: the map image follows the map: the trailer and the body are the map's, the header version is the body's a cycle later, and MAPVER of every context then follows the header. -/
def Mach.publish (m : Mach) : Mach :=
  let v := m.pubBody.ver
  { m with pubVer := v, pubBody := m.rmap, ctxs := m.ctxs.map (fun (c : Ctx) => { c with mapver := max c.mapver v }) }

/-- PACKAGE_RESET, R16. -/
def execPackageReset (r : BootReport) (s : State) : Host.Outcome State Fault Refusal := .next { m := s.m.boot r, iss := none, inputs := s.inputs }

/-- Change a die's entry. -/
def ResMap.updDie (r : ResMap) (d : Nat) (f : DieEnt → DieEnt) : ResMap := { r with dies := modAt r.dies d f }

/-- R29, R312: blocks on a retired core consume MCHK, sub-cause 0x05; one whose restore waits stays saved. -/
def Mach.retireBlocks (m : Mach) (c : Nat) : Mach :=
  (m.onCore c).foldl (fun m b => if b.place == .restoring then m.unreserve b else m.consume b.id none 0x10 5 none none none 0) m

/-- The live dies of a grid's mask other than one. -/
def Mach.diesLeft (m : Mach) (g : Grid) (d : Nat) : List Nat := g.dies.filter fun k => k != d && m.dieLive k

/-- R39, R272: a grid fails: no further block is placed, and the context receives a LAUNCH record. -/
def Mach.failGrid (m : Mach) (n sub : Nat) : Mach :=
  match m.grid? n with
  | none => m
  | some g =>
    if g.failed.isSome || g.killed then m
    else
      let m1 := m.updGrid n fun g => { g with failed := some sub, chunks := [] }
      let gone := (m1.blocks.filter fun b => b.grid == n && b.place == .rolled).map fun b => b.id
      let m2 := gone.foldl (fun m id => m.updBlock id fun b => b.strip .gone) m1
      let left := (m2.blocks.filter fun b => b.grid == n && (b.place == .placed || b.place == .saved || b.place == .restoring)).length
      (m2.updGrid n fun g => { g with left := left }).log (feLog 0x15 sub (some g.ctx) (some n) 0 g.tlNum) none

/-- R39: a block that waits for a place and has no die left ends with its failed grid. -/
def Mach.loseWaiting (m : Mach) (id : Nat) : Mach :=
  match m.block? id with
  | some b =>
    if b.place == .saved then (m.updBlock id fun b => b.strip .gone).updGrid b.grid fun g => { g with left := g.left - 1 } else m
  | none => m

/-- R39, R222: a grid's work on a lost die goes to the live dies left in its mask; a saved block whose streams are not drained escalates. -/
def Mach.handOver (m : Mach) (d : Nat) (g : Grid) : Mach :=
  let mine (b : Block) : Bool := b.grid == g.num && b.die == d
  let stuck := (m.blocks.filter fun b => mine b && b.place == .saved && !b.drained).map fun b => b.id
  match stuck with
  | id :: _ =>
    (match m.block? id with
     | some b => m.escalate b { Mach.blockLog b 0x10 5 2 none none none none 0 with core := none }
     | none => m)
  | [] =>
    let left := m.diesLeft g d
    let waiting := m.blocks.filter fun b => mine b && (b.place == .rolled || b.place == .saved)
    let chunks := g.chunks.filter fun c => c.1 == d
    if waiting.isEmpty && chunks.isEmpty then m
    else
      match left with
      | [] => waiting.foldl (fun m b => m.loseWaiting b.id) (m.failGrid g.num 7)
      | k :: _ =>
        let moved := chunks.zipIdx.map fun p => (left.getD (p.2 % left.length) k, p.1.2)
        let m1 := m.updGrid g.num fun g => { g with chunks := g.chunks.filter (fun c => c.1 != d) ++ moved }
        waiting.foldl (fun m b => m.updBlock b.id fun b => { b with die := k }) m1

/-- R39, R222: a die is lost: every incomplete grid hands its work over, a failed one too for its saved blocks. -/
def Mach.dieLost (m : Mach) (d : Nat) : Mach :=
  (m.grids.filter fun g => !g.complete && !g.killed).foldl
    (fun m g => match m.grid? g.num with | some g => m.handOver d g | none => m) m

/-- CORE_RETIRED, R28, R29. -/
def Mach.retireCore (m : Mach) (d core : Nat) : Mach :=
  match m.rmap.dies[d]? with
  | none => m
  | some e =>
    if 8 ≤ d ∨ 20 ≤ core ∨ !(e.state == 1 || e.state == 2) ∨ !e.cores.testBit core then m
    else
      let m1 := m.postEvent 1 d core fun r => r.updDie d fun e => DieEnt.judged { e with cores := e.cores - 2 ^ core }
      let m2 := (m1.updCore (20 * d + core) fun k => { k with live := false }).retireBlocks (20 * d + core)
      if m2.dieLive d then m2 else m2.dieLost d

def execCoreRetired (die core : Nat) (s : State) : Host.Outcome State Fault Refusal := s.event fun m => m.retireCore die core

/-- R315: mark sectors poisoned, each with a record on a die's log. -/
def Mach.poisonAll (m : Mach) (die sub : Nat) (pas : List Nat) : Mach :=
  pas.foldl
    (fun m pa =>
      let s := sectorOf (keyOf m.rmap.pkg pa)
      ((m.addPoison s).observe s).log
        { cause := 0x0F, sub := sub, die := die, ctx := none, core := none, warp := none, flags := 0, rolls := none, va := none,
          pa := some (pa / 128 * 128), pc := none, grid := none, detail := 0 } none) m

/-- R157: the home slice of a line of a die: from the address, and on to the first live slice. -/
def DieEnt.homeSlice (e : DieEnt) (pa : Nat) : Option Nat :=
  let h := (pa / 2 ^ 10 % 16) ^^^ (pa / 2 ^ 14 % 16)
  ((List.range 16).map fun i => (h + i) % 16).find? fun s => e.slices.testBit s

/-- R28, R53, R162: the L1 and stash copies of the lines of a slice are invalidated after write-back. -/
def Mach.dropSlice (m : Mach) (e : DieEnt) (die slice : Nat) : Mach :=
  let mine (s : Nat) : Bool := homeOf (s * 128) == (m.rmap.pkg, die) && e.homeSlice (keyPa (s * 128)) == some slice
  (m.dropUndoIf mine).observeIf mine

/-- L2_SLICE_RETIRED, R28, R157: the slice's dirty sectors that cannot be read are poisoned, the others stand in memory, and the copies of its lines are invalidated. -/
def execL2SliceRetired (die slice : Nat) (unread : List Nat) (s : State) : Host.Outcome State Fault Refusal :=
  s.event fun m =>
    match m.rmap.dies[die]? with
    | none => m
    | some e =>
      if 8 ≤ die ∨ 16 ≤ slice ∨ e.state == 0 ∨ !e.slices.testBit slice then m
      else
        ((m.postEvent 2 die slice fun r => r.updDie die fun e => DieEnt.judged { e with slices := e.slices - 2 ^ slice }).dropSlice e die slice).poisonAll
          die 6 (unread.filter fun pa => pa / 2 ^ 36 == die && e.homeSlice pa == some slice)

/-- HBM_CHANNEL_FAILING, R30: the host is asked to vacate the top of the die's span. -/
def execHbmChannelFailing (die chan : Nat) (s : State) : Host.Outcome State Fault Refusal :=
  s.event fun m =>
    match m.rmap.dies[die]? with
    | none => m
    | some e =>
      if 8 ≤ die ∨ 32 ≤ chan ∨ !e.channels.testBit chan ∨ m.chanReq.any (fun q => q.1 == die && q.2.1 == chan) then m
      else ({ m with chanReq := m.chanReq ++ [(die, chan, false)] }).notice 5 0xFF (die * 256 + chan) 0

/-- BOARD_CAP_CHANGE, R335. -/
def execBoardCapChange (watts : Nat) (s : State) : Host.Outcome State Fault Refusal :=
  s.event fun m => Mach.newCap { m with boardCap := watts }

/-- R335: RATE_now for a temperature, with whether the rate is held at 0 until the package cools. -/
def rateFor (m : Mach) (t : Nat) : Nat × Bool :=
  let l := m.rmap.templim
  if l + 10 ≤ t then (0, true)
  else if m.hot && l ≤ t then (0, true)
  else if t ≤ l then (m.rmap.rate, false)
  else (m.rmap.rate * (l + 10 - t) / 10, false)

/-- R266: is the clock at a period boundary whose grains are not granted yet. -/
def Mach.grantDue (m : Mach) : Bool := m.rmap.ver != 0 && m.clock % 256 == 0 && decide (m.period < m.clock / 256)

/-- TOKEN_GRANT, R266, R335. -/
def Mach.grantTokens (m : Mach) (t : Nat) : Mach :=
  if !m.grantDue then m
  else
    let r := rateFor m t
    let live := (m.cores.filter fun k => k.live).length
    { m with
      temp := t, hot := r.2, rateNow := r.1, period := m.clock / 256,
      cores := m.cores.map fun k => if k.live then { k with grains := min 4096 (k.grains + r.1 * 256 / max 1 live) } else k }

def execTokenGrant (temp : Nat) (s : State) : Host.Outcome State Fault Refusal := s.event fun m => m.grantTokens temp

end Sys2Proof.Machine
end

