-- ==== Sys2Proof/Machine/Routes.lean ====
section
/-! DEFINITION. Routes over the fabric and what is on the wire: live links and planes (R14, R23), the spraying of packets (R227, R228), message classes and flits (R224), the limits of buffer lending (R233), and the retention buffer (R232). -/

namespace Sys2Proof.Machine

/-- R23: is a link live, with its plane if it has one. -/
def Mach.linkUp (m : Mach) (i : Nat) : Bool :=
  m.rmap.linkState i != 0 && (match linkPlane i with | some p => (m.rmap.planes.getD p (0, 0)).1 != 0 | none => true)

/-- R22: the bandwidth of a link per direction in GB/s. -/
def Mach.linkBw (m : Mach) (i : Nat) : Nat := match m.rmap.links[i]? with | some e => e.bw | none => 0

/-- R227: one of some planes by weight; which one is the source's to pick (log entry 27). -/
def pickWeighted (n : Nat) : List (Nat × Nat) → Option Nat
  | [] => none
  | (p, w) :: rest => if rest.isEmpty || n < w then some p else pickWeighted (n - w) rest

/-- R227: the plane a message takes, by a key that names it. -/
def sprayed (key : Nat) (opts : List (Nat × Nat)) : Option Nat := pickWeighted (Config.spray key (opts.map fun o => o.2).sum) opts

/-- R228, R241: the live Igroxel ports of a plane to a package; a package numbered 32 or above needs version 1.1. -/
def Mach.portsTo (m : Mach) (dpkg plane : Nat) : List Nat :=
  (m.rmap.ports.zipIdx.filter fun q =>
    q.2 < 36 && q.1.state == 1 && q.1.peerPkg == dpkg && portPlane q.2 == plane && (dpkg < 32 || 0x0101 ≤ q.1.ver)).map fun q => q.2

/-- R227, R228: the planes a packet from a compute die may take, with their weights: the bandwidth of the narrower of its two links, or for another package that of the source die's link. -/
def Mach.planesTo (m : Mach) (src dpkg ddie : Nat) : List (Nat × Nat) :=
  (List.range 2).filterMap fun p =>
    if dpkg = m.rmap.pkg then
      if m.linkUp (8 * p + src) && m.linkUp (8 * p + ddie) then some (p, min (m.linkBw (8 * p + src)) (m.linkBw (8 * p + ddie))) else none
    else if m.linkUp (8 * p + src) && !(m.portsTo dpkg p).isEmpty then some (p, m.linkBw (8 * p + src))
    else none

/-- R226: the way between a compute die and the FE: its direct link, else a plane and its FE link, as links with the direction taken. -/
def Mach.feRoute (m : Mach) (die : Nat) : Option (List (Nat × Bool)) :=
  if m.linkUp (16 + die) then some [(16 + die, true)]
  else ((List.range 2).find? fun p => m.linkUp (8 * p + die) && m.linkUp (24 + p)).map fun p => [(8 * p + die, true), (24 + p, false)]

/-- R226 to R228: the route of a packet from a compute die to a destination: the links it crosses, each with its direction (true: to the second endpoint of R14), and the port it leaves by; none when no live route exists. -/
def Mach.routeFor (m : Mach) (key src dpkg ddie : Nat) : Option (List (Nat × Bool) × Option Nat) :=
  if dpkg = m.rmap.pkg ∧ ddie = src then some ([], none)
  else if dpkg = m.rmap.pkg ∧ ddie = 8 then (m.feRoute src).map fun r => (r, none)
  else
    (sprayed key (m.planesTo src dpkg ddie)).map fun p =>
      if dpkg = m.rmap.pkg then ([(8 * p + src, true), (8 * p + ddie, false)], none)
      else
        let ports := m.portsTo dpkg p
        ([(8 * p + src, true)], ports[Config.spray (key + 1) ports.length % max 1 ports.length]?)

/-- R227, R228: is there a live route from a compute die to a destination. -/
def Mach.reachable (m : Mach) (die dpkg ddie : Nat) : Bool := (m.routeFor 0 die dpkg ddie).isSome

/-- R227: the way of a contribution to its slot's plane: the die's link to it, else through the FE. -/
def Mach.slotRoute (m : Mach) (die plane : Nat) : Option (List (Nat × Bool)) :=
  if m.linkUp (8 * plane + die) then some [(8 * plane + die, true)]
  else if m.linkUp (16 + die) && m.linkUp (24 + plane) then some [(16 + die, true), (24 + plane, true)]
  else none

/-- R239: does a die have a live route to a plane's slots. -/
def Mach.planeRoute (m : Mach) (die plane : Nat) : Bool := (m.slotRoute die plane).isSome

/-- The way back. -/
def backward (r : List (Nat × Bool)) : List (Nat × Bool) := (r.map fun h => (h.1, !h.2)).reverse

/-- R224: the flits of a channel operation: a flit carries 232 bytes of payload. -/
def ChOp.flits (o : ChOp) : Nat := match o with | .seg _ cs bad => max 1 ((cs.length + 128 * bad.length + 231) / 232) | _ => 1

/-- R224: the bytes a packet takes on the wire and in the retention buffer. -/
def Packet.bytes (p : Packet) : Nat := 256 * p.op.flits

/-- R224: the plane a contribution goes to. -/
def Contrib.plane (c : Contrib) : Nat := c.desc.toNat / 2 ^ 8 % 2

/-- R216, R239: an answer the source die gives itself: its destination is unreachable, or its contribution has no route. -/
def Ack.isLocal (a : Ack) : Bool :=
  match a with
  | .upto _ _ _ _ (some (0x0D, _, _)) => true
  | .value _ _ _ _ _ _ _ _ _ (some (0x0D, _, _, _)) => true
  | _ => false

/-- The contribution an answer belongs to. -/
def Mach.contribOf (m : Mach) (blk ch first : Nat) : Option Contrib := m.heldCon.find? fun c => c.blk == blk && c.ch == ch && c.first == first

/-- R227: the way an acknowledgement or a result takes to its source; none when no live route exists. -/
def Mach.ackRoute (m : Mach) (a : Ack) : Option (List (Nat × Bool)) :=
  let strm (s : Strm) (key : Nat) : Option (List (Nat × Bool)) := (m.routeFor key s.die s.dpkg s.ddie).map fun r => backward r.1
  if a.isLocal then some []
  else
    match a with
    | .upto _ s mark n _ => strm s (mark + n)
    | .retry _ s mark => strm s mark
    | .value _ s mark n _ _ _ _ _ _ => strm s (mark + n)
    | .rred blk ch first _ _ _ _ => match m.contribOf blk ch first with | some c => (m.slotRoute c.die c.plane).map backward | none => some []

/-- R233: which messages of a class are on the wire: on each link they cross, those before them leave room under the class's limit; a message is its links and its bytes. -/
def onWire (lim : Nat × Bool → Nat) : List (List (Nat × Bool) × Nat) → List ((Nat × Bool) × Nat) → List Bool
  | [], _ => []
  | (hops, n) :: rest, used =>
    let load (h : Nat × Bool) : Nat := ((used.filter fun u => u.1 == h).map fun u => u.2).sum
    (hops.all fun h => decide (load h + n ≤ lim h)) :: onWire lim rest (used ++ hops.map fun h => (h, n))

/-- The port of a link that receives in a direction. -/
def LinkRun.dir (k : LinkRun) (toB : Bool) : LinkDir := if toB then k.dirB else k.dirA

def LinkRun.updDir (k : LinkRun) (toB : Bool) (f : LinkDir → LinkDir) : LinkRun := if toB then { k with dirB := f k.dirB } else { k with dirA := f k.dirA }

/-- R233: the limit of a class in a direction of a link. -/
def Mach.limit (m : Mach) (c : Nat) (h : Nat × Bool) : Nat := (((m.links.getD h.1 LinkRun.empty).dir h.2).lim).getD c 0

/-- R224: packets, class 3, with the links they cross. -/
def Mach.netLoads (m : Mach) : List (List (Nat × Bool) × Nat) := m.net.map fun p => (p.route, p.bytes)

/-- R224: the class of an answer: a reduction's result is class 5, an acknowledgement class 4. -/
def Ack.cls (a : Ack) : Nat := match a with | .rred .. => 5 | _ => 4

/-- R224: contributions and results, class 5; answers of class 4 keep their places with no load. -/
def Mach.conLoads (m : Mach) : List (List (Nat × Bool) × Nat) :=
  m.contribs.map (fun c => ((m.slotRoute c.die c.plane).getD [], 256)) ++
    m.acks.map fun a => if a.cls = 5 then ((m.ackRoute a).getD [], 256) else ([], 0)

/-- R241: acknowledgements a flit of a route carries: 14 where every link speaks BDP 1.1, else one. -/
def Mach.acksPerFlit (m : Mach) (hops : List (Nat × Bool)) : Nat :=
  if hops.all fun h => match m.rmap.links[h.1]? with | some e => decide (0x0101 ≤ e.bdp) | none => false then 14 else 1

/-- R241: how many acknowledgements of a route still travel in the flit whose first one has arrived. -/
def Mach.openOn (m : Mach) (hops : List (Nat × Bool)) : Nat := match m.ackOpen.find? fun p => p.1 == hops with | some p => p.2 | none => 0

/-- R224, R241: acknowledgements, class 4: those of one route share flits, in the order in which they were sent. -/
def Mach.ackLoads (m : Mach) : List (List (Nat × Bool) × Nat) :=
  let rs := m.acks.map fun a => if a.cls = 4 then (m.ackRoute a).getD [] else []
  rs.zipIdx.map fun p =>
    let before := (rs.take p.2).count p.1
    let n := m.openOn p.1
    (p.1, if before < n ∨ (before - n) % m.acksPerFlit p.1 ≠ 0 then 0 else 256)

/-- R233: can packet i of those under way arrive. -/
def Mach.netReady (m : Mach) (i : Nat) : Bool := (onWire (m.limit 3) m.netLoads []).getD i false

/-- R233: can contribution i arrive. -/
def Mach.conReady (m : Mach) (i : Nat) : Bool := (onWire (m.limit 5) m.conLoads []).getD i false

/-- R227, R233: can acknowledgement i arrive: it is on the wire, or it is a result whose route is gone, which the source die answers (R239). -/
def Mach.ackReady (m : Mach) (i : Nat) : Bool :=
  match m.acks[i]? with
  | none => false
  | some a =>
    match m.ackRoute a, a with
    | some _, .rred .. => (onWire (m.limit 5) m.conLoads []).getD (m.contribs.length + i) false
    | some _, _ => (onWire (m.limit 4) m.ackLoads []).getD i false
    | none, .rred .. => true
    | none, _ => false

/-- R233: the bytes of a class on the wire in one direction of a link. -/
def flightOf (lim : Nat × Bool → Nat) (ls : List (List (Nat × Bool) × Nat)) (h : Nat × Bool) : Nat :=
  (((ls.zip (onWire lim ls [])).filter fun p => p.2 && p.1.1.contains h).map fun p => p.1.2).sum

/-- R233: the bytes in flight by class. -/
def Mach.flights (m : Mach) (h : Nat × Bool) : List Nat :=
  [0, 0, 0, flightOf (m.limit 3) m.netLoads h, flightOf (m.limit 4) m.ackLoads h, flightOf (m.limit 5) m.conLoads h, 0, 0]

/-- R234: does a link owe flits. -/
def Mach.owes (m : Mach) (i : Nat) : Bool := (m.netLoads ++ m.conLoads ++ m.ackLoads).any fun l => l.1.any fun h => h.1 == i

/-- R225: is a report of a failing flit about a message of a class. -/
def lossOf (l : FlitLoss) (c : Nat) : Bool :=
  match l with
  | .packet _ => c == 3
  | .ack _ => c == 4 || c == 5
  | .contrib _ => c == 5
  | _ => false

/-- R225: flits of a class have passed, numbered modulo 4,096: `seq` is the first one still missing, from which a replay starts; a message that passes no longer fails. -/
def LinkDir.pass (d : LinkDir) (c flits : Nat) : LinkDir :=
  { d with
    fails := d.fails.filter fun p => !lossOf p.1 c,
    recv := modAt d.recv c fun r => r + 256 * flits,
    seq := (d.seq + flits) % 4096,
    sent := (d.sent ++ (List.range flits).map fun i => ((d.seq + i) % 4096, c)).drop (d.sent.length + flits - 64) }

/-- R225, R233, R234: a message of a class has crossed its links. -/
def Mach.crossed (m : Mach) (c flits : Nat) (hops : List (Nat × Bool)) : Mach :=
  hops.foldl (fun m h => { m with links := modAt m.links h.1 fun k => { k.updDir h.2 (fun d => d.pass c flits) with quiet := none } }) m

/-- R241: an acknowledgement has crossed its links: the first of a flit moves the flit, and the others of it come with it. -/
def Mach.ackCrossed (m : Mach) (a : Ack) (hops : List (Nat × Bool)) : Mach :=
  if a.cls = 5 then m.crossed 5 1 hops
  else if hops.isEmpty then m
  else
    let left (n : Nat) : List (List (Nat × Bool) × Nat) := (if n = 0 then [] else [(hops, n)]) ++ m.ackOpen.filter fun p => p.1 != hops
    match m.openOn hops with
    | n + 1 => { m with ackOpen := left n }
    | 0 =>
      let others := (m.acks.filter fun x => x.cls == 4 && m.ackRoute x == some hops).length
      { m.crossed 4 1 hops with ackOpen := left (min others (m.acksPerFlit hops - 1)) }

/-- R232: the bytes a die's streams and contributions hold in its retention buffer. -/
def Mach.retained (m : Mach) (die : Nat) : Nat :=
  ((m.retain.filter fun p => p.strm.die == die).map Packet.bytes).sum + 256 * (m.heldCon.filter fun c => c.die == die).length

/-- R232: the packets of a copy's source reads from other dies, one for each sector. -/
def Mach.copyPackets (m : Mach) (b : Block) (q : Copy) : Nat :=
  ((q.src.filter fun p => !m.onDie b p.2.1).map fun p => (p.2.1 % 128 + p.2.2 + 127) / 128).sum

/-- R232: the bytes the copies of a die hold there. -/
def Mach.copyRetained (m : Mach) (die : Nat) : Nat :=
  256 * ((m.blocks.filter fun b => b.die == die).map fun b => (b.copies.map fun q => m.copyPackets b q).sum).sum

/-- R232: has the retention buffer of a die room for a packet of n bytes of its streams. -/
def Mach.retainRoom (m : Mach) (die n : Nat) : Bool := decide (m.retained die + n ≤ 4194304)

/-- R13: is a physical address of the package's memory backed. -/
def Mach.backed (m : Mach) (pa : Nat) : Bool :=
  match m.rmap.dies[pa / 2 ^ 36]? with
  | some d => pa < 2 ^ 39 && pa % 2 ^ 36 < d.capacity
  | none => false

end Sys2Proof.Machine
end

