-- ==== Sys2Proof/Machine/CopyWords.lean ====
section
/-! DEFINITION. CPY (R164 to R168, R348): the checks of each lane's copy, the copy left outstanding against its tag, and its completion. -/

namespace Sys2Proof.Machine

/-- R165: one lane's copy request. -/
structure CopyReq where
  lane : Nat
  src  : Nat
  dst  : Nat
  n    : Nat
  deriving DecidableEq, Repr

def Cx.copyReq (c : Cx) (a : BitVec 6) (b : BitVec 5) (l : Nat) : CopyReq :=
  { lane := l, src := (c.pair a.toNat l).toNat, dst := (c.val (2 * b.toNat) l).toNat, n := (c.val (2 * b.toNat + 1) l).toNat }

/-- R165: a stash-window range as pieces of at most 1,024 bytes, each inside one mapping: (va, length); none where a byte is not mapped. -/
def Block.stashPieces (b : Block) (o len : Nat) : Nat → Option (List (Nat × Nat))
  | 0 => some []
  | n + 1 =>
    if len = 0 then some []
    else
      let k := min len (1024 - o % 1024)
      match b.stashVa o, Block.stashPieces b (o + k) (len - k) n with
      | some va, some rest => some ((va, k) :: rest)
      | _, _ => none

/-- R165: the checks before translation, in the rule's order: cause, sub-cause and address. -/
def Cx.copyBad (c : Cx) (kind : Nat) (q : CopyReq) : Option (Nat × Nat × Nat) :=
  let side := c.w.side
  if 2 ^ 52 ≤ q.src then some (0x07, 4, q.src)
  else if q.n = 0 ∨ 65536 < q.n then some (0x07, 7, q.src)
  else if q.src % 16 ≠ 0 then some (0x04, 3, q.src)
  else if q.n % 16 ≠ 0 then some (0x04, 3, q.src)
  else if kind ≠ 2 ∧ q.dst % 16 ≠ 0 then some (0x04, 3, q.dst)
  else if kind = 0 then (if c.b.shTotal < q.dst + q.n then some (0x07, 2, q.dst) else none)
  else if kind = 1 then (if (c.b.stashPieces q.dst q.n 65).isNone then some (0x07, 2, q.dst) else none)
  else if 16 ≤ q.dst then some (0x08, 4, 0)
  else
    match c.b.tileCheck side q.dst with
    | some k => some (0x08, k, 0)
    | none => if q.n ≠ tileBytes (c.b.tctl side q.dst) then some (0x08, 4, 0) else none

/-- R165, R169: the pieces of a copy's source, and of its destination when it is in the stash. -/
def Cx.copyPieces (c : Cx) (kind : Nat) (q : CopyReq) : List (Nat × Nat) × List (Nat × Nat) :=
  (pagePieces q.src q.n 2, if kind = 1 then (c.b.stashPieces q.dst q.n 65).getD [] else [])

/-- R165, R173: what the checks of one lane find. -/
def Cx.copyChecks (c : Cx) (kind : Nat) (q : CopyReq) : List LaneRes :=
  match c.copyBad kind q with
  | some e => [.bad q.lane e.2.2 e.1 e.2.1 none]
  | none =>
    let p := c.copyPieces kind q
    p.1.map (fun r => c.checkGlob q.lane r.1 1 { r := true, w := false, x := false }) ++
      p.2.map fun r => c.checkGlob q.lane r.1 1 { r := false, w := true, x := false }

/-- R171: the accesses a copy writes through: those of its stash destination. -/
def Cx.copyWrites (c : Cx) (kind : Nat) (reqs : List CopyReq) (accs : List (Access × PteRef × Bool × Bool)) : List (Access × PteRef × Bool × Bool) :=
  let outs := reqs.flatMap fun q => (c.copyPieces kind q).2.map fun r => (q.lane, r.1)
  accs.filter fun x => outs.contains (x.1.lane, x.1.va)

/-- The translated pieces a list of checks found, with their lengths. -/
def okPieces (ps : List (Nat × Nat)) (rs : List LaneRes) : List (Nat × Nat × Nat) :=
  (ps.zip rs).filterMap fun p => match p.2 with | .ok a _ _ _ => some (a.va, a.key, p.1.2) | _ => none

/-- R165: start the copy of one lane. -/
def Cx.startCopy (c : Cx) (tag kind : Nat) (q : CopyReq) (c1 : Cx) : Cx :=
  let rs := c.copyChecks kind q
  let p := c.copyPieces kind q
  let new : Copy :=
    { tag := tag, kind := kind, side := c.w.side, dst := q.dst, src := okPieces p.1 rs, into := okPieces p.2 (rs.drop p.1.length), pos := 0, bad := [], warp := c.is.warp }
  c1.updB fun b => { b with copies := b.copies ++ [new] }

/-- CPY, R165: `kind` 0 .sh, 1 .st, 2 .tile. What the lanes must perform first (an acquire, R185, R192) performs; the tag's ready bit falls when a copy starts (R166). -/
def Cx.cpy (c : Cx) (tag kind : Nat) (a : BitVec 6) (b : BitVec 5) : State :=
  if c.b.ntags ≤ tag then c.trap 0x14 1 0 0
  else
    let reqs := c.lanes.map fun l => c.copyReq a b l
    let rs := reqs.flatMap fun q => c.copyChecks kind q
    match verdict rs with
    | .trap cause sub va pa mask => c.badTrap cause sub va pa mask
    | .go accs misses => c.settled (accs.map fun a => a.1) fun c =>
      let go := reqs.filter fun q => !misses.any fun p => p.1 == q.lane
      let c1 := c.park misses 16 c.b.die
      let mine := accs.filter fun x => !misses.any fun p => p.1 == x.1.lane
      let c2 := (c1.upd fun m => (m.touchAll mine false).touchAll (c.copyWrites kind reqs mine) true).updB fun b => { b with ready := if go.isEmpty then b.ready else b.ready &&& ~~~bit tag }
      (go.foldl (fun k q => c.startCopy tag kind q k) c2).s

/-- CPY.sh, R165. -/
def execCpySh (h : Hdr) (t a : BitVec 6) (b : BitVec 5) (s : State) : Host.Outcome State Fault Refusal :=
  s.word h (pairRegs a ++ [2 * b.toNat, 2 * b.toNat + 1]) fun c => c.cpy t.toNat 0 a b

/-- CPY.st, R165. -/
def execCpySt (h : Hdr) (t a : BitVec 6) (b : BitVec 5) (s : State) : Host.Outcome State Fault Refusal :=
  s.word h (pairRegs a ++ [2 * b.toNat, 2 * b.toNat + 1]) fun c => c.cpy t.toNat 1 a b

/-- CPY.tile, R165. -/
def execCpyTile (h : Hdr) (t a : BitVec 6) (b : BitVec 5) (s : State) : Host.Outcome State Fault Refusal :=
  s.word h (pairRegs a ++ [2 * b.toNat, 2 * b.toNat + 1]) fun c => c.cpy t.toNat 2 a b

/-- R192, R322: the byte a copy reads: released data of the block still on its way over the home; the register window serves no read of its size. -/
def Mach.copyByte (m : Mach) (b : Block) (key : Nat) : Byte :=
  if isMmio key then Config.errByte m.clock key
  else m.readByte { b with sb := b.sb.filter fun e => e.released || e.tst, rels := [] } key

/-- R168: a copy's bytes as (offset, byte), those of poisoned sectors left out, and the poisoned sectors. -/
def Mach.copyData (m : Mach) (b : Block) (q : Copy) : List (Nat × Byte) × List Nat :=
  let keys := (pieceKeys q.src).map fun p => p.2
  let bad := ((keys.map sectorOf).filter fun s => m.badFor b s || q.bad.contains s).eraseDups
  ((keys.zipIdx.filter fun p => !bad.contains (sectorOf p.1)).map fun p => (p.2, m.copyByte b p.1), bad)

/-- R168: a poisoned source sector of a copy is logged, and latched with the tag when nothing is yet. -/
def Mach.copyPoison (m : Mach) (id tag s : Nat) : Mach :=
  match m.block? id with
  | none => m
  | some b =>
    (m.log (Mach.blockLog b 0x0F 2 0 none none (some (keyPa (s * 128))) none 0) none).updBlock id fun b =>
      if b.tagErr.any fun t => t.1 == tag then b else { b with tagErr := b.tagErr ++ [(tag, keyPa (s * 128))] }

/-- R165: the bytes of a copy into the shared window or a tile reach their destination. -/
def Mach.copyWrite (m : Mach) (id : Nat) (q : Copy) (data : List (Nat × Byte)) (bad : Bool) : Mach :=
  if q.kind = 0 then
    m.updBlock id fun b => Block.pbWake { b with shared := b.shared.setCells (data.map fun p => (q.dst + p.1, p.2)) }
  else
    m.updBlock id fun b => b.updSide q.side fun s =>
      { s with tiles := modAt s.tiles q.dst fun t => { bytes := t.bytes.setCells data, poison := bad } }

/-- The 16-byte chunks of a copy into the stash: the sources' keys and the destinations' (va, key), in order. -/
def Copy.chunks (q : Copy) : List (Nat × Nat × Nat) :=
  let every16 {α : Type} (l : List α) : List α := (l.zipIdx.filter fun p => p.2 % 16 == 0).map fun p => p.1
  ((every16 (pieceKeys q.src)).zip (every16 (pieceKeys q.into))).map fun p => (p.1.2, p.2)

/-- R178, R182: chunks of a copy into the stash enter the store buffer while the quota leaves room, a poisoned source sector's being left out; answers how many it has dealt with, `prev` being the source sector before. -/
def Mach.copyStash (id tag : Nat) (bad : List Nat) : List (Nat × Nat × Nat) → Option Nat → Nat → Mach → Mach × Nat
  | [], _, n, m => (m, n)
  | (src, va, key) :: rest, prev, n, m =>
    let s := sectorOf src
    if bad.contains s || ((m.block? id).any fun b => m.badFor b s) then
      Mach.copyStash id tag bad rest (some s) (n + 1) (if prev = some s then m else m.copyPoison id tag s)
    else
      let m1 := if m.roomFor id (sectorOf key) then m else m.makeRoom id
      if m1.roomFor id (sectorOf key) then
        let bs := match m1.block? id with | some b => (List.range 16).map fun i => m1.copyByte b (src + i) | none => []
        Mach.copyStash id tag bad rest (some s) (n + 1) (m1.bufferStore id va key bs)
      else (m1, n)

/-- R165, R168, R316: one copy writes all its bytes, a copy into the stash as many as the quota leaves room for; a poisoned source sector is skipped, latched and logged. Answers what is left of it. -/
def Mach.copyOne (m : Mach) (id : Nat) (q : Copy) : Mach × Option Copy :=
  match m.block? id with
  | none => (m, none)
  | some b =>
    if q.kind = 1 then
      let todo := q.chunks.drop q.pos
      let prev := match q.pos with | 0 => none | n + 1 => (q.chunks[n]?).map fun c => sectorOf c.1
      let r := Mach.copyStash id q.tag q.bad todo prev 0 m
      (r.1, if r.2 = todo.length then none else some { q with pos := q.pos + r.2 })
    else
      let d := m.copyData b q
      (d.2.foldl (fun m s => m.copyPoison id q.tag s) (m.copyWrite id q d.1 (!d.2.isEmpty)), none)

/-- R308, R348: in checked mode what a copy read is recorded in its warp's load-value queue. DEDUCED (log entry 95): it enters as the copy completes, under a number no long result has, and leaves with the warp's next commit, since the shadow shares what the copy wrote. -/
def Mach.recordCopy (m : Mach) (id : Nat) (q : Copy) : Mach :=
  match m.block? id with
  | none => m
  | some b =>
    let words := (pieceKeys q.src).map fun p => RVal.u ((m.copyByte b p.2).setWidth 32)
    m.updWarp id q.warp fun w => { w with shadow := w.shadow.map fun sh => { sh with queue := sh.queue ++ [(2 ^ 64 + q.tag, words)] } }

/-- The copies of a list, one after the other, and what is left of them. -/
def Mach.copyMany (id : Nat) : List Copy → Mach → Mach × List Copy
  | [], m => (m, [])
  | q :: qs, m =>
    let r := (m.recordCopy id q).copyOne id q
    let s := Mach.copyMany id qs r.1
    (s.1, r.2.toList ++ s.2)

/-- R227: has a copy a live route to the home of each piece of its source (log entry 27). -/
def Mach.copyRoutes (m : Mach) (b : Block) (q : Copy) : Bool := q.src.all fun p => m.onDie b p.2.1 || m.reachable b.die (homeOf p.2.1).1 (homeOf p.2.1).2

/-- R187, R192, R227, R232: can the copies of a tag read their sources: nothing other blocks of the die released to them is still on its way, they have live routes and no request lost, and the retention buffer takes the packets of reads from other dies. -/
def Mach.copyReady (m : Mach) (b : Block) (tag : Nat) : Bool :=
  !b.copies.any fun q => q.tag == tag && (q.src.any (fun p => m.inFlight b p.2.1 p.2.2) || !m.copyRoutes b q || !q.lost.isEmpty ||
    (m.copyPackets b q != 0 && !m.retainRoom b.die (256 * m.copyPackets b q)))

/-- R166, R192, R363: the copies of a tag complete: what the block released on its die lands first, the bytes are written, the tag is ready, waiting paths go on, and a block that waited for its copies exits; a copy into the stash that finds no room in the store buffer stays outstanding. DESIGN CHOICE (log entry 77): the copies write one after the other as they stand in the list, all their bytes at their completion, so that of two copies outstanding at once, or a copy and a store, the later completion's bytes stay; R166 leaves open which do. -/
def Mach.copyEnd (m : Mach) (id tag : Nat) : Mach :=
  match m.block? id with
  | none => m
  | some b =>
    let mine := b.copies.filter fun q => q.tag == tag
    if mine.isEmpty || b.place != .placed || !m.copyReady b tag then m
    else
      let r := Mach.copyMany id mine (m.allVisible id)
      let m2 := r.1.updBlock id fun b =>
        { b with copies := (b.copies.filter fun q => q.tag != tag) ++ r.2, ready := if r.2.isEmpty then b.ready ||| bit tag else b.ready }
      if r.2.isEmpty then (m2.tagWake id).blockExit id else m2

/-- COPY_COMPLETE, R166. -/
def execCopyComplete (blk tag : Nat) (s : State) : Host.Outcome State Fault Refusal := s.event fun m => m.copyEnd blk tag

end Sys2Proof.Machine
end

