-- ==== Sys2Proof/Machine/HostRegs.lean ====
section
/-! DEFINITION. The register window as the host writes it (R322, R325, R326), doorbells and command fetch (R327, R328), which command records are malformed (R329 to R331), completion records (R329), and timeline completions (R193). -/

namespace Sys2Proof.Machine

/-- Change a queue. -/
def Mach.updQueue (m : Mach) (q : Nat) (f : Queue → Queue) : Mach := { m with queues := modAt m.queues q f }

def Mach.queue (m : Mach) (q : Nat) : Queue := m.queues.getD q Queue.empty

/-- R329: completions the ring has room for are written in order, with their PHASE; n bounds them. -/
def Mach.cplFlush (m : Mach) (q : Nat) : Nat → Mach
  | 0 => m
  | n + 1 =>
    let k := m.queue q
    match k.held with
    | [] => m
    | x :: xs =>
      if (k.cplcount + 2 ^ 32 - k.cplhead) % 2 ^ 32 < 2 ^ k.logs then
        let rec_ := x.set 7 (BitVec.ofNat 8 (1 - k.cplcount / 2 ^ k.logs % 2))
        let m1 := m.hostWrite (k.cplbase + 32 * (k.cplcount % 2 ^ k.logs)) rec_
        Mach.cplFlush (m1.updQueue q fun k => { k with cplcount := k.cplcount + 1, held := xs }) q n
      else m

/-- R329: post a completion record. -/
def Mach.postCpl (m : Mach) (q seq opcode sub status tag result tlv : Nat) : Mach :=
  let x := leBytes 4 seq ++ leBytes 1 opcode ++ leBytes 1 sub ++ leBytes 1 status ++ zeros 1 ++ leBytes 8 tag ++ leBytes 8 result ++ leBytes 8 tlv
  let m1 := m.updQueue q fun k => { k with held := k.held ++ [x] }
  m1.cplFlush q (m1.queue q).held.length

/-- R193: the counter takes every completed number in order; n bounds them. -/
def Timeline.advance (t : Timeline) : Nat → Timeline
  | 0 => t
  | n + 1 => if t.fin.contains (t.count + 1) then Timeline.advance { t with count := t.count + 1, fin := t.fin.filter fun k => k != t.count + 1 } n else t

/-- TIMELINE_ADVANCE, R193: waiting TLWAITs may complete. -/
def execTimelineAdvance (ctx tl : Nat) (s : State) : Host.Outcome State Fault Refusal :=
  s.event fun m => (m.updCtx ctx fun c => { c with tls := modAt c.tls tl fun t => t.advance t.fin.length }).tlWake ctx

/-- Fields of a command record (R327). -/
def Cmd.op (c : Cmd) : Nat := fieldAt c.raw 0 1
def Cmd.tl (c : Cmd) : Nat := fieldAt c.raw 1 1
def Cmd.tag (c : Cmd) : Nat := fieldAt c.raw 8 8
def Cmd.f (c : Cmd) (off n : Nat) : Nat := fieldAt c.raw off n

/-- R331: the operand bytes of an opcode, as (offset, length). -/
def cmdOperands (op : Nat) : List (Nat × Nat) :=
  match op with
  | 0x01 => [(0x10, 8)]
  | 0x02 => [(0x10, 8), (0x18, 8), (0x20, 8)]
  | 0x03 => [(0x10, 1), (0x18, 8)]
  | 0x04 => [(0x10, 1), (0x11, 1), (0x14, 4), (0x18, 8), (0x20, 8), (0x28, 4), (0x2C, 4)]
  | 0x05 => [(0x10, 1), (0x14, 4), (0x18, 4), (0x1C, 2), (0x20, 16)]
  | 0x20 => [(0x10, 1), (0x12, 2), (0x14, 4), (0x18, 8), (0x20, 8), (0x28, 8)]
  | 0x21 => [(0x10, 1)]
  | 0x22 => [(0x10, 1), (0x14, 4), (0x18, 8)]
  | 0x23 => [(0x10, 8), (0x18, 1)]
  | 0x24 => [(0x10, 1), (0x11, 1), (0x14, 4)]
  | 0x25 => [(0x10, 1), (0x14, 4)]
  | 0x26 => [(0x10, 1), (0x11, 1)]
  | 0x27 => [(0x10, 1), (0x14, 4)]
  | 0x28 => [(0x10, 1), (0x11, 1), (0x14, 4)]
  | 0x29 => [(0x10, 1)]
  | 0x2A => [(0x10, 1)]
  | 0x2B => [(0x10, 1), (0x11, 1), (0x18, 8)]
  | 0x2C => [(0x10, 1), (0x18, 8)]
  | 0x2D => [(0x10, 1)]
  | 0x2E => [(0x10, 4)]
  | 0x2F => [(0x10, 8), (0x18, 8)]
  | 0x30 => [(0x10, 8), (0x18, 8)]
  | _ => []

/-- R330: is an opcode a context command, or an admin command. -/
def isCtxOp (op : Nat) : Bool := decide (1 ≤ op ∧ op ≤ 5)
def isAdminOp (op : Nat) : Bool := decide (0x20 ≤ op ∧ op ≤ 0x30)

/-- R330, R331: is an operand out of range. -/
def cmdRangeBad (c : Cmd) : Bool :=
  let f := c.f
  let wide (v : Nat) : Bool := decide (2 ^ 52 ≤ v)
  match c.op with
  | 0x01 => f 0x10 8 % 128 != 0 || wide (f 0x10 8)
  | 0x02 => wide (f 0x10 8) || wide (f 0x18 8) || f 0x20 8 % 16 != 0 || decide (2 ^ 40 < f 0x20 8)
  | 0x03 => decide (32 ≤ f 0x10 1)
  | 0x04 =>
    decide (f 0x10 1 < 36) || decide (43 < f 0x10 1) || decide (2 < f 0x11 1) || decide (2 ^ 24 ≤ f 0x14 4) || wide (f 0x18 8) ||
      wide (f 0x20 8) || decide (2 ^ 31 < f 0x2C 4)
  | 0x05 =>
    decide (f 0x10 1 < 36) || decide (43 < f 0x10 1) || decide (2 ^ 24 ≤ f 0x14 4) || decide (2 ^ 24 ≤ f 0x18 4) ||
      decide (f 0x1C 2 < 1024) || decide (4096 < f 0x1C 2)
  | 0x20 =>
    decide (64 ≤ f 0x10 1) || f 0x12 2 == 0 || f 0x14 4 == 0 || decide (256 < f 0x14 4) || f 0x18 8 % 4096 != 0 || wide (f 0x18 8) ||
      f 0x20 8 % 65536 != 0 || wide (f 0x20 8) || f 0x28 8 % 65536 != 0 || wide (f 0x28 8)
  | 0x22 => decide (64 ≤ f 0x10 1) || f 0x18 8 % 65536 != 0 || wide (f 0x18 8)
  | 0x23 => f 0x10 8 % 65536 != 0 || decide (2 ^ 39 ≤ f 0x10 8) || decide (1 < f 0x18 1)
  | 0x24 => decide (1 < f 0x11 1)
  | 0x26 => decide (7 < f 0x10 1) || decide (31 < f 0x11 1)
  | 0x28 => decide (64 ≤ f 0x10 1) || decide (1 < f 0x11 1)
  | 0x2B => decide (1 < f 0x10 1) || f 0x18 8 % 64 != 0 || wide (f 0x18 8)
  | 0x2C => f 0x10 1 == 0 || decide (127 < f 0x10 1) || f 0x18 8 % 8 != 0 || wide (f 0x18 8)
  | 0x2D => f 0x10 1 == 0 || decide (127 < f 0x10 1)
  | 0x2E => decide (f 0x10 4 < 300) || decide (2400 < f 0x10 4)
  | 0x2F => wide (f 0x10 8) || wide (f 0x18 8) || f 0x18 8 % 64 != 0
  | 0x30 => f 0x10 8 % 4096 != 0 || wide (f 0x10 8)
  | _ => decide (64 ≤ f 0x10 1)

/-- R329 to R331: is a command malformed on its queue. -/
def cmdBad (c : Cmd) (qctx : Nat) : Bool :=
  let used (i : Nat) : Bool := (cmdOperands c.op).any fun p => p.1 ≤ i && i < p.1 + p.2
  let admin := isAdminOp c.op
  !(if qctx = 0xFF then admin else isCtxOp c.op) ||
    ((List.range 48).any fun i => !used (16 + i) && (c.raw.getD (16 + i) 0) != 0) || fieldAt c.raw 2 2 != 0 ||
    (if admin || c.op == 1 then c.tl != 0xFF else (c.tl != 0xFF && decide (32 ≤ c.tl))) || cmdRangeBad c

/-- R326, R329: a command completes: its record, LASTCOMP, LASTERR and ERRSTAT, and its timeline number. -/
def Mach.finishCmd (m : Mach) (c : Cmd) (sub status result tlv : Nat) : Mach :=
  let m1 := m.postCpl c.q c.seq c.op sub status c.tag result tlv
  let m2 := m1.updQueue c.q fun k =>
    let done := c.seq :: k.done
    let step (p : Nat × List Nat) (_ : Nat) : Nat × List Nat :=
      let n := (p.1 + 1) % 2 ^ 32
      if p.2.contains n then (n, p.2.filter fun x => x != n) else p
    let r := (List.range done.length).foldl step (k.lastcomp, done)
    { k with lastcomp := r.1, done := r.2, lasterr := if status = 0 then k.lasterr else c.seq,
             errstat := if status = 0 then k.errstat else status * 256 + sub }
  let m3 := { m2 with cmds := m2.cmds.filter fun x => !(x.q == c.q && x.seq == c.seq) }
  if c.tlNum = 0 then m3 else m3.tlFinish c.ctx c.tl c.tlNum

/-- R193, R327, R329: accept a command: it takes its timeline number, if it names a timeline; a malformed one completes at once with STATUS 2. -/
def Mach.acceptCmd (m : Mach) (q seq : Nat) (raw : List Byte) : Mach :=
  let k := m.queue q
  let c : Cmd := { q := q, seq := seq, raw := raw, started := false, tlNum := 0, wait := [], pos := 0, ctx := k.ctx }
  let m1 := m.updQueue q fun k => { k with lastacc := seq, nextexp := (seq + 1) % 2 ^ 32 }
  let m2 := { m1 with cmds := m1.cmds ++ [c] }
  if cmdBad c k.ctx then m2.finishCmd c 0 2 0 0
  else if 32 ≤ c.tl then m2
  else if m1.tlFull k.ctx c.tl then (m2.log (feLog 0x15 1 (some k.ctx) none 0 0) none).finishCmd c 0 2 0 0
  else
    let r := m1.numberTl k.ctx c.tl
    { r.2 with cmds := r.2.cmds ++ [{ c with tlNum := r.1 }] }

/-- R327: fetch while NEXTEXP differs from DOORBELL; n bounds the slots. -/
def Mach.fetchCmds (m : Mach) (q : Nat) : Nat → Mach
  | 0 => m
  | n + 1 =>
    let k := m.queue q
    if k.nextexp = k.doorbell then m
    else
      let raw := m.hostRead (k.cmdbase + 64 * (k.nextexp % 2 ^ k.logs)) 64
      if fieldAt raw 4 4 = k.nextexp then Mach.fetchCmds (m.acceptCmd q k.nextexp raw) q n
      else
        (m.postCpl q (fieldAt raw 4 4) (fieldAt raw 0 1) 0 1 (fieldAt raw 8 8) k.nextexp 0).updQueue q fun k => { k with halted := true }

/-- DOORBELL, R328. -/
def Mach.doorbell (m : Mach) (q v : Nat) : Mach :=
  let k := m.queue q
  let n := (v + 2 ^ 32 - k.nextexp) % 2 ^ 32
  if !k.enable || m.bootState != 2 || decide (2 ^ 32 ≤ v) || n == 0 then m
  else if n ≤ 2 ^ k.logs then (m.updQueue q fun k => { k with doorbell := v, halted := false }).fetchCmds q n
  else (m.postCpl q v 0 0 2 0 k.nextexp 0).updQueue q fun k => { k with halted := true }

def execDoorbell (q v : Nat) (s : State) : Host.Outcome State Fault Refusal := s.event fun m => m.doorbell q v

/-- QUEUE_ENABLE, R326: refused while commands are incomplete or the configuration is invalid. -/
def Mach.enableQueue (m : Mach) (q : Nat) : Mach :=
  let k := m.queue q
  let ok := !k.enable && m.bootState == 2 && k.lastcomp == k.lastacc && decide (6 ≤ k.logs ∧ k.logs ≤ 16) && k.cmdbase % 4096 == 0 &&
    k.cplbase % 4096 == 0 && !decide (64 ≤ k.ctx ∧ k.ctx ≤ 254) && (k.ctx != 0xFF || q == 0) && decide (1 ≤ k.ver / 16)
  if ok then
    m.updQueue q fun k =>
      { k with enable := true, nextexp := 0, doorbell := 0, lastacc := 2 ^ 32 - 1, lastcomp := 2 ^ 32 - 1, lasterr := 2 ^ 32 - 1,
               errstat := 0, cplcount := 0, held := [], done := [], halted := false }
  else m

def execQueueEnable (q : Nat) (s : State) : Host.Outcome State Fault Refusal := s.event fun m => m.enableQueue q

/-- QUEUE_DISABLE, R326: accepted commands go on. -/
def Mach.disableQueue (m : Mach) (q : Nat) : Mach := m.updQueue q fun k => { k with enable := false }

def execQueueDisable (q : Nat) (s : State) : Host.Outcome State Fault Refusal := s.event fun m => m.disableQueue q

/-- RING_HEAD_WRITE, R325. -/
def Mach.ringHead (m : Mach) (i v : Nat) : Mach :=
  let m1 := { m with rings := modAt m.rings i fun r => { r with head := v % 2 ^ 32 } }
  (m1.ringFlush i (m1.rings.getD i Ring.empty).held.length).ringNotes i

def execRingHeadWrite (ring v : Nat) (s : State) : Host.Outcome State Fault Refusal := s.event fun m => m.ringHead ring v

/-- CPLHEAD_WRITE, R329. -/
def Mach.cplHead (m : Mach) (q v : Nat) : Mach :=
  let m1 := m.updQueue q fun k => { k with cplhead := v % 2 ^ 32 }
  m1.cplFlush q (m1.queue q).held.length

def execCplheadWrite (q v : Nat) (s : State) : Host.Outcome State Fault Refusal := s.event fun m => m.cplHead q v

/-- Bytes written over old ones at an offset. -/
def overlay (old : List Byte) (off : Nat) (new : List Byte) : List Byte :=
  old.zipIdx.map fun p => if off ≤ p.2 ∧ p.2 < off + new.length then new.getD (p.2 - off) 0 else p.1

/-- R325: a write to a ring's registers. -/
def Mach.ringWrite (m : Mach) (i off : Nat) (bs : List Byte) : Mach :=
  let r := m.rings.getD i Ring.empty
  let new := overlay r.bytes off bs
  let m1 := { m with rings := modAt m.rings i fun r => { r with base := fieldAt new 0 8, logs := fieldAt new 8 4 } }
  m1.ringHead i (fieldAt new 12 4)

/-- R326: a write to a queue's registers: configuration while disabled, then ENABLE, then DOORBELL and CPLHEAD. -/
def Mach.queueWrite (m : Mach) (q off : Nat) (bs : List Byte) : Mach :=
  let k := m.queue q
  let new := overlay k.bytes off bs
  let hits (o n : Nat) : Bool := decide (off < o + n ∧ o < off + bs.length)
  let ver := fieldAt new 0x13 1
  let m1 := if k.enable then m else m.updQueue q fun k =>
    { k with cmdbase := fieldAt new 0 8, cplbase := fieldAt new 8 8, logs := fieldAt new 0x10 1, ctx := fieldAt new 0x11 1,
             ver := if 16 ≤ ver then 0x10 else ver }
  let m2 := if hits 0x12 1 then (if fieldAt new 0x12 1 % 2 = 1 then m1.enableQueue q else m1.disableQueue q) else m1
  let m3 := if hits 0x14 4 then m2.doorbell q (fieldAt new 0x14 4) else m2
  if hits 0x2C 4 then m3.cplHead q (fieldAt new 0x2C 4) else m3

/-- R322: an aligned 4-byte or 8-byte write of the window; another size or a misaligned one gets an error completion and changes nothing, and so do offsets that hold no writable register. -/
def Mach.regWrite (m : Mach) (off size v : Nat) : Mach :=
  if (size != 4 && size != 8) || off % size != 0 then m
  else
    let bs := leBytes size v
    if 0x2000 ≤ off ∧ off < 0x2060 then m.ringWrite ((off - 0x2000) / 32) (off % 32) bs
    else if 0x10000 ≤ off ∧ off < 0x14000 then m.queueWrite ((off - 0x10000) / 64) (off % 64) bs
    else m

def execHostRegisterWrite (off size v : Nat) (s : State) : Host.Outcome State Fault Refusal := s.event fun m => m.regWrite off size v

end Sys2Proof.Machine
end

