-- ==== Sys2Proof/Machine/NetEvents.lean ====
section
/-! DEFINITION. Channel traffic: which head entry is sent and how (R203 to R207, R213, R227, R228, R232), how an Escapement applies packets (R209, R214, R445), and what an acknowledgement does at its source (R208, R215, R216, R220). -/

namespace Sys2Proof.Machine

/-- R235: the code of a destination in a pair. -/
def pairCode (dpkg ddie : Nat) : Nat := dpkg * 16 + ddie

/-- R235: is the pair of a source die and a destination in its handshake. -/
def Mach.inHandshake (m : Mach) (die dpkg ddie : Nat) : Bool :=
  m.pairs.any fun p => p.src == die && p.dst == pairCode dpkg ddie && p.st != 0

/-- R205: the table index a destination uses: its own entry, a free one, or the least recently used drained one; none is the ninth-destination stall. -/
def Mach.destFor (m : Mach) (b : Block) (c : Chan) (dest : Nat × Nat) : Option Nat :=
  match c.dests.findIdx? fun d => d.valid && (d.pkg, d.die) == dest with
  | some i => some i
  | none =>
    match c.dests.findIdx? fun d => !d.valid with
    | some i => some i
    | none =>
      let age (d : DestEnt) : Nat := (c.issued + 2 ^ 32 - d.lastUse) % 2 ^ 32
      (bestBy (fun p => age p.1) (c.dests.zipIdx.filter fun p => m.drainedEnt b c p.1)).map fun p => p.2

/-- R205, R214: may one more packet go to a destination through table index i. -/
def Chan.windowOpen (c : Chan) (i : Nat) (dest : Nat × Nat) : Bool :=
  match c.dests[i]? with
  | some d => if d.valid && (d.pkg, d.die) == dest then d.retryAt.isNone && decide ((d.next + 65536 - d.ack) % 65536 < 256) else true
  | none => false

/-- What the head of a channel does next: nothing; pop as a contribution; go as one packet of an operation to a destination through a table index; wait for a page of a bulk copy; or end a bulk copy with a fault. -/
inductive SendStep where
  | none
  | contrib (x : ChEnt)
  | packet (x : ChEnt) (dest : Nat × Nat) (i : Nat) (op : ChOp) (len : Nat) (ptes : List (PteRef × Bool)) (latch : Option Nat)
  | page (va access : Nat)
  | stop (x : ChEnt) (sub va : Nat) (pa : Option Nat)
  deriving DecidableEq, Repr

/-- R205, R207, R232, R235: may an entry be sent to a destination now. -/
def Mach.sendTo (m : Mach) (b : Block) (c : Chan) (x : ChEnt) (dest : Nat × Nat) (op : ChOp) (len : Nat) (ptes : List (PteRef × Bool)) (latch : Option Nat) : SendStep :=
  if b.joinHeld c x dest || m.inHandshake b.die dest.1 dest.2 || !m.retainRoom b.die (256 * op.flits + m.copyRetained b.die) then .none
  else
    match m.destFor b c dest with
    | some i => if c.windowOpen i dest then .packet x dest i op len ptes latch else .none
    | none => .none

/-- R350, R351: the pieces of a range as translations. -/
def Mach.trPieces (m : Mach) (ctx : Nat) (ps : List (Nat × Nat)) (n : Need) : List (Nat × Nat × Tr) :=
  ps.map fun p => (p.1, p.2, m.translate ctx p.1 n)

/-- R351: the first fault of a segment's pages: a missing page as (va, none), or a PROT with its sub-cause and address. -/
def Mach.trFault (m : Mach) (src : Bool) (ts : List (Nat × Nat × Tr)) : Option (Nat × Option (Nat × Option Nat)) :=
  ts.findSome? fun t =>
    match t.2.2 with
    | .page => some (t.1, none)
    | .prot s pa => some (t.1, some (s, pa))
    | .ok k _ _ _ => if src && keyPkg k != m.rmap.pkg then some (t.1, some (9, some (keyPa k))) else none

/-- The bytes of translated pieces as (va, key, length). -/
def trOk (ts : List (Nat × Nat × Tr)) : List (Nat × Nat × Nat) :=
  ts.filterMap fun t => match t.2.2 with | .ok k _ _ _ => some (t.1, k, t.2.1) | _ => none

/-- The page-table entries of translated pieces. -/
def trPtes (w : Bool) (ts : List (Nat × Nat × Tr)) : List (PteRef × Bool) :=
  ts.filterMap fun t => match t.2.2 with | .ok _ p _ _ => some (p, w) | _ => none

/-- R350: the places a bulk copy both reads and writes, by the pages as they are mapped now. -/
def Mach.copyOverlap (m : Mach) (b : Block) (src dst len : Nat) : Nat → Bool :=
  let span (va : Nat) (n : Need) : List (Nat × Nat × Nat) := trOk (m.trPieces b.ctx (pagePieces va len (len / 65536 + 2)) n)
  let ins := span src { r := true, w := false, x := false }
  let outs := span dst { r := false, w := true, x := false }
  let within (ps : List (Nat × Nat × Nat)) (k : Nat) : Bool := ps.any fun p => p.2.1 ≤ k && decide (k < p.2.1 + p.2.2)
  fun k => within ins k && within outs k

/-- R205, R350, R351: the next segment of a bulk copy: what falls in one 1,024-byte destination line. Bytes of the destination that are source bytes too receive free values (R6, log entry 78). -/
def Mach.segmentStep (m : Mach) (b : Block) (c : Chan) (x : ChEnt) (src dst len done : Nat) : SendStep :=
  let k := min (len - done) (1024 - (dst + done) % 1024)
  let ts := m.trPieces b.ctx (pagePieces (src + done) k 2) { r := true, w := false, x := false }
  let td := m.trPieces b.ctx [(dst + done, k)] { r := false, w := true, x := false }
  match m.trFault true ts, m.trFault false td with
  | some (va, some (sub, pa)), _ => .stop x sub va pa
  | none, some (va, some (sub, pa)) => .stop x sub va pa
  | some (va, none), _ => .page va 16
  | none, some (va, none) => .page va 2
  | none, none =>
    let from_ := pieceKeys (trOk ts)
    let into := pieceKeys (trOk td)
    let bad := ((from_.zip into).filterMap fun p => if m.poison.contains (sectorOf p.1.2) then some (sectorOf p.2.2) else none).eraseDups
    let latch := (from_.find? fun p => m.poison.contains (sectorOf p.2)).map fun p => keyPa p.2
    let d := m.drawAt b.ctx
    let both := m.copyOverlap b src dst len
    let cells := (from_.zip into).zipIdx.filterMap fun q =>
      if bad.contains (sectorOf q.1.2.2) then none
      else some (q.1.2.2, if both q.1.2.2 then (Config.freeWord d.1 (d.2 + q.2)).setWidth 8 else m.copyByte b q.1.1.2)
    let home := match into with | q :: _ => homeOf q.2 | [] => (0, 0)
    if (trOk ts).any fun p => m.inFlight b p.2.1 p.2.2 then .none
    else m.sendTo b c x home (.seg (dst + done) cells bad) k (trPtes false ts ++ trPtes true td) latch

/-- R203 to R207: what the head of a channel does next. -/
def Mach.sendStep (m : Mach) (b : Block) (ch : Nat) : SendStep :=
  let c := b.chan ch
  if b.place == .saved || b.place == .restoring || b.place == .rolled then .none
  else
    match c.queue with
    | [] => .none
    | x :: rest =>
      let held := match x.hold with | some t => decide (m.clock < t) && rest.isEmpty | none => false
      if held || b.waitsOn x.waits then .none
      else
        match x.op with
        | .join _ _ => .none
        | .rred .. => if b.joinHeld c x (x.dpkg, x.ddie) || !m.retainRoom b.die (256 + m.copyRetained b.die) then .none else .contrib x
        | .cpyr src dst len done _ _ => m.segmentStep b c x src dst len done
        | op => m.sendTo b c x (x.dpkg, x.ddie) op 0 [] none

/-- R216, R320: the DETAIL of a channel packet error. -/
def packetDetail (pkg : Nat) (s : Strm) : Nat :=
  pkg + s.die * 2 ^ 8 + s.core % 20 * 2 ^ 16 + s.slot * 2 ^ 24 + s.ch * 2 ^ 32 + s.ddie * 2 ^ 40

/-- R216: a packet that met an error is logged with its source, its addresses and its cause. -/
def Mach.logPacket (m : Mach) (die : Nat) (p : Packet) (cause sub va pa : Nat) : Mach :=
  let b := m.block? p.blk
  m.log { cause := cause, sub := sub, die := min die 8, ctx := b.map fun b => b.ctx, core := none, warp := none, flags := 0, rolls := none,
          va := some va, pa := some pa, pc := none, grid := b.map fun b => b.grid, detail := packetDetail m.rmap.pkg p.strm } none

/-- R216: the addresses of a store of one sector whose base is at va: those of its lowest byte. -/
def storePlace (s va : Nat) (cs : List Host.Cell) : Nat × Nat :=
  let o := (cs.foldl (fun n c => min n (c.1 - s * 128)) 128) % 128
  (va + o, keyPa (s * 128 + o))

/-- The addresses of an operation. -/
def ChOp.place (o : ChOp) : Nat × Nat :=
  match o with
  | .store s va cs => storePlace s va cs
  | .atom _ k va _ _ _ _ => (va, keyPa k)
  | .seg va cs _ => (va, match cs with | c :: _ => keyPa c.1 | [] => 0)
  | _ => (0, 0)

/-- R216, R228: the error response of an unreachable destination: latched for stores, delivered at commit for an atomic. -/
def Packet.unreachable (p : Packet) : Ack :=
  let n := (p.seq + 1) % 65536
  match p.op with
  | .atom _ k va _ w s l => .value p.blk p.strm p.mark n w s l [0, 0] false (some (0x0D, 3, va, keyPa k))
  | o => .upto p.blk p.strm p.mark n (some (0x0D, o.place.1, o.place.2))

/-- R216: an error for a channel: latched while its block is placed or saved, counted against the grid once the block is gone. -/
def Mach.latchErr (m : Mach) (id ch : Nat) (e : Nat × Nat × Nat) : Mach :=
  match m.block? id with
  | none => m
  | some b =>
    if b.place == .gone then m.updGrid b.grid fun g => { g with execErr := true }
    else m.updBlock id fun b => b.updChan ch fun c => { c with err := if c.err.isNone then some e else c.err }

/-- R207: the join tags of a packet: for each standing condition, the last covered packet sent to its own destination and not yet acknowledged. -/
def Block.joinTags (b : Block) (c : Chan) (first : Nat) (dest : Nat × Nat) : List (Nat × Nat) :=
  c.conds.filterMap fun j =>
    if j.after < first then
      (((b.chan j.chB).sent.filter fun s => s.first ≤ j.upto && !s.rred && (s.dpkg, s.ddie) == dest).getLast?).map fun s => (j.chB, s.seq)
    else none

/-- R207, R208: after a change of a block's channels: joins settle and waiting drains go on. -/
def Mach.chanSettle (m : Mach) (id : Nat) : Mach := m.updBlock id fun b => b.settleJoins.drainWake

/-- R205: the head entry after a packet: it leaves the queue, or a bulk copy moves on. -/
def ChEnt.after (x : ChEnt) (len : Nat) : List ChEnt :=
  match x.op with
  | .cpyr src dst n done tl k => if done + len < n then [{ x with op := .cpyr src dst n (done + len) tl k }] else []
  | _ => []

/-- R213, R219: the table entry of a packet's stream after it is sent. -/
def DestEnt.used (d : DestEnt) (dest : Nat × Nat) (last : Nat) : DestEnt × Bool × Nat × Nat :=
  let fresh := !(d.valid && (d.pkg, d.die) == dest)
  let start := fresh || d.start
  let seq := if fresh then 0 else d.next
  let mark := if start then last % 2 ^ 32 else d.mark
  ({ valid := true, start := false, pkg := dest.1, die := dest.2, next := (seq + 1) % 65536, ack := if fresh then 0 else d.ack,
     lastUse := last % 2 ^ 32, mark := mark, retryAt := none }, start, seq, mark)

/-- R205, R213, R232: send one packet; it stays in the retention buffer until acknowledged, and the block is sealed (R311). -/
def Mach.sendPacket (m : Mach) (id ch : Nat) (x : ChEnt) (dest : Nat × Nat) (i : Nat) (op : ChOp) (len : Nat) (ptes : List (PteRef × Bool)) (latch : Option Nat) : Mach :=
  match m.block? id with
  | none => m
  | some b =>
    let c := b.chan ch
    let u := (c.dests.getD i DestEnt.empty).used dest x.last
    let s := b.side 0
    let tl := match x.op with | .cpyr _ _ _ _ t k => some (t, k) | _ => none
    let way := m.routeFor m.nextPkt b.die dest.1 dest.2
    let p : Packet :=
      { route := (way.map fun r => r.1).getD [], port := way.bind fun r => r.2, id := m.nextPkt, blk := id, strm := { die := b.die, core := s.core, slot := s.slot, ch := ch, dpkg := dest.1, ddie := dest.2 },
        seq := u.2.2.1, mark := u.2.2.2, epoch := b.epoch, start := u.2.1, first := x.first, op := op, tags := b.joinTags c x.first dest, sentAt := m.clock }
    let m1 := ptes.foldl (fun m q => m.touch q.1 q.2) m
    let m2 := m1.updBlock id fun b =>
      { b.updChan ch (fun c =>
          { c with
            queue := x.after len ++ c.queue.drop 1,
            dests := c.dests.set i u.1,
            sent := c.sent ++ [{ first := x.first, dpkg := dest.1, ddie := dest.2, seq := p.seq, rred := false, src := x.src, tl := tl }] }) with
        sealed := true }
    let ok := way.isSome
    let m3 := { m2 with nextPkt := m.nextPkt + 1, retain := m2.retain ++ [p], net := if ok then m2.net ++ [p] else m2.net,
                        acks := if ok then m2.acks else m2.acks ++ [p.unreachable] }
    let m4 := if ok then m3 else m3.logPacket b.die p 0x0D 3 op.place.1 op.place.2
    let m5 := match latch with
      | some pa =>
        (m4.latchErr id ch (0x0F, op.place.1, pa)).log (Mach.blockLog b 0x0F 2 0 none (some op.place.1) (some pa) none (packetDetail m.rmap.pkg p.strm)) none
      | none => m4
    m5.chanSettle id

/-- R238, R443: a slot error is logged as a notice, with its slot and index as its physical address, the word's PC, and the status the lane is sent. -/
def Mach.logSlot (m : Mach) (c : Contrib) (sub : Nat) (stat : Word) : Mach :=
  let n := c.desc.toNat
  let b := m.block? c.blk
  let pc := ((b.bind fun b => b.warp? c.warp).bind fun w => w.rb.find? fun e => e.seq == c.seq).map fun e => e.pc
  m.log { cause := 0x0E, sub := sub, die := c.die, ctx := b.map fun b => b.ctx, core := b.map fun b => (b.side 0).core % 20, warp := some c.warp,
          flags := 2 + (match b with | some b => if b.sealed then 16 else 0 | none => 0), rolls := b.map fun b => b.rolls, va := none,
          pa := some (0xFFFF * 2 ^ 32 + n / 2 ^ 8 % 2 * 2 ^ 16 + n % 2 ^ 8 * 2 ^ 8 + n / 2 ^ 16 % 64), pc := pc,
          grid := b.map fun b => b.grid, detail := stat.toNat } none

/-- R238: a contribution's answer. -/
def Contrib.answer (c : Contrib) (vals : List Word) : Ack := .rred c.blk c.ch c.first c.warp c.seq c.lane vals

/-- R238: the unusable answer. -/
def unusable : List Word := [0, 0x0D000000#32, 0, 0]

/-- R205, R227, R239: send a contribution; one that cannot reach its plane is answered by the source die. -/
def Mach.sendContrib (m : Mach) (id ch : Nat) (x : ChEnt) : Mach :=
  match m.block? id, x.op with
  | some b, .rred op desc v w seq lane =>
    let c : Contrib := { id := m.nextPkt, blk := id, ch := ch, first := x.first, die := b.die, op := op, desc := desc, v := v, warp := w, seq := seq, lane := lane, sentAt := m.clock }
    let m1 := m.updBlock id fun b =>
      { b.updChan ch (fun k =>
          { k with queue := k.queue.drop 1,
                   sent := k.sent ++ [{ first := x.first, dpkg := x.dpkg, ddie := x.ddie, seq := 0, rred := true, src := none, tl := none }] }) with
        sealed := true }
    let m2 :=
      if m.planeRoute b.die (desc.toNat / 256 % 2) then
        { m1 with nextPkt := m.nextPkt + 1, contribs := m1.contribs ++ [c], heldCon := m1.heldCon ++ [c] }
      else Mach.logSlot { m1 with acks := m1.acks ++ [c.answer unusable] } c 2 0x0D000000#32
    m2.chanSettle id
  | _, _ => m

/-- R216, R351: a bulk copy ends: no further segment is sent, the channel latches the failing cause, the context gets a record, and its timeline operation completes. -/
def Mach.stopCopy (m : Mach) (id ch : Nat) (sub va : Nat) (pa : Option Nat) : Mach :=
  match m.block? id with
  | none => m
  | some b =>
    match (b.chan ch).queue with
    | x :: _ =>
      (match x.op with
       | .cpyr _ _ _ _ tl n =>
         let m1 := m.updBlock id fun b => b.updChan ch fun c => { c with queue := c.queue.drop 1 }
         let m2 := (m1.latchErr id ch (0x06, va, pa.getD 0)).log (Mach.blockLog b 0x06 sub 0 none (some va) pa none 0) none
         (m2.chanSettle id).copyDone id ch tl n
       | _ => m)
    | [] => m

/-- R295: would a fault on a page change the pending record: there is none, or it lacks an ACCESS bit. -/
def Mach.wantsPage (m : Mach) (die ctx va access : Nat) : Bool :=
  !m.faults.any fun f => f.die == die && f.ctx == ctx && f.va / 65536 == va / 65536 && f.answer.isNone &&
    (BitVec.ofNat 8 access &&& ~~~BitVec.ofNat 8 f.access) == 0

/-- Is a fault record of a page pending. -/
def Mach.faultPending (m : Mach) (die ctx va : Nat) : Bool :=
  m.faults.any fun f => f.die == die && f.ctx == ctx && f.va / 65536 == va / 65536 && f.answer.isNone

/-- R192: before a bulk copy reads, what its block has released on its die is visible. -/
def Mach.readyHead (m : Mach) (id ch : Nat) : Mach :=
  match (m.block? id).bind fun b => (b.chan ch).queue.head? with
  | some x => (match x.op with | .cpyr .. => m.allVisible id | _ => m)
  | none => m

/-- R6: a segment draws the free values it may hold. -/
def Mach.drewSegment (m : Mach) (ctx : Nat) (op : ChOp) : Mach := match op with | .seg .. => m.drew ctx 1024 | _ => m

/-- R205, R351: act on the head of a channel. -/
def Mach.sendHead (m : Mach) (id ch : Nat) : Mach :=
  let m := m.readyHead id ch
  match m.block? id with
  | none => m
  | some b =>
    match m.sendStep b ch with
    | .none => m
    | .contrib x => m.sendContrib id ch x
    | .packet x dest i op len ptes latch => (m.drewSegment b.ctx op).sendPacket id ch x dest i op len ptes latch
    | .page va access =>
      if (m.grid? b.grid).any fun g => g.killed then m.stopCopy id ch 8 va none
      else (m.addFault b.die b.ctx va access b.die false).1
    | .stop _ sub va pa => m.stopCopy id ch sub va pa

/-- Can the head of a channel act: a page it waits for is asked for once. -/
def Mach.canSend (m : Mach) (b : Block) (ch : Nat) : Bool :=
  match m.sendStep b ch with
  | .none => false
  | .page va access => m.wantsPage b.die b.ctx va access || (m.grid? b.grid).any fun g => g.killed
  | _ => true

/-- PACKET_SEND, R205. -/
def execPacketSend (blk ch : Nat) (s : State) : Host.Outcome State Fault Refusal := s.event fun m => m.sendHead blk ch

/-- MERGE_HOLD_EXPIRY, R204: a hold of 32 cycles is over. -/
def Mach.holdExpiry (m : Mach) (id ch : Nat) : Mach :=
  m.updBlock id fun b => b.updChan ch fun c =>
    { c with queue := c.queue.map fun x => match x.hold with | some t => if t ≤ m.clock then { x with hold := none } else x | none => x }

def execMergeHoldExpiry (blk ch : Nat) (s : State) : Host.Outcome State Fault Refusal := s.event fun m => m.holdExpiry blk ch

/-- CH0_ROOM_ENQUEUE, R446; a saved block's entries wait for its restore. -/
def Mach.ch0Room (m : Mach) (id : Nat) : Mach :=
  m.updBlock id fun b => if b.place == .saved || b.place == .restoring then b else b.ch0Flush m.rmap.pkg m.clock b.sb.length

def execCh0RoomEnqueue (blk : Nat) (s : State) : Host.Outcome State Fault Refusal := s.event fun m => m.ch0Room blk

/-- ENTRY_VISIBLE_AT_DIE_SCOPE, R181. -/
def execEntryVisibleAtDieScope (blk seq : Nat) (s : State) : Host.Outcome State Fault Refusal :=
  s.event fun m => (m.makeVisible blk seq).runRels blk

/-- R322: stores that reach the register window: each aligned group of 8 bytes is one register write, and so is an aligned group of 4 bytes alone (log entry 84). -/
def Mach.mmioStore (m : Mach) (cs : List Host.Cell) : Mach :=
  let bytes (o n : Nat) : List Byte := (List.range n).filterMap fun i => (cs.find? fun c => keyPa c.1 - mmioBase == o + i).map fun c => c.2
  let write (m : Mach) (o n : Nat) : Mach := if (bytes o n).length = n then m.regWrite o n (leNat (bytes o n)) else m
  let groups := ((cs.map fun c => (keyPa c.1 - mmioBase) / 8).eraseDups)
  (sortBy id groups).foldl (fun m g => if (bytes (8 * g) 8).length = 8 then write m (8 * g) 8 else write (write m (8 * g) 4) (8 * g + 4) 4) m

/-- R209, R216, R315: bytes of one sector reach their home; answers whether the home refused them. A stash holds no range of another die dirty, so a kill takes none of them back (R162). -/
def Mach.homeStore (m : Mach) (s : Nat) (cs : List Host.Cell) : Mach × Bool :=
  if isMmio (s * 128) then (m.mmioStore cs, false) else m.land s cs

/-- R322, R350, R351: a segment lands sector by sector; poisoned source sectors land poisoned; the register window takes no write of its size. -/
def Mach.landSegment (m : Mach) (cs : List Host.Cell) (bad : List Nat) : Mach × Option Nat :=
  let secs := (cs.map fun c => sectorOf c.1).eraseDups
  let m1 := bad.foldl (fun (m : Mach) s => (m.addPoison s).observe s) m
  secs.foldl
    (fun (r : Mach × Option Nat) s =>
      let q := if isMmio (s * 128) then (r.1, false) else r.1.homeStore s (cs.filter fun c => sectorOf c.1 == s)
      (q.1, if q.2 && r.2.isNone then some (keyPa (s * 128)) else r.2))
    (m1, none)

/-- R209, R210, R215, R216: the home applies a packet; answers the acknowledgement, cumulative to n. -/
def Mach.applyPacket (m : Mach) (p : Packet) (n : Nat) : Mach × Ack :=
  let die := p.strm.ddie
  let good : Ack := .upto p.blk p.strm p.mark n none
  match p.op with
  | .store s va cs =>
    let r := m.homeStore s cs
    let at_ := storePlace s va cs
    if r.2 then (r.1.logPacket die p 0x0F 3 at_.1 at_.2, .upto p.blk p.strm p.mark n (some (0x0F, at_.1, at_.2))) else (r.1, good)
  | .seg va cs bad =>
    let r := m.landSegment cs bad
    (match r.2 with
     | some pa => (r.1.logPacket die p 0x0F 3 va pa, .upto p.blk p.strm p.mark n (some (0x0F, va, pa)))
     | none => (r.1, good))
  | .atom op k va ops w seq lane =>
    let size := if op = 1 ∨ op = 3 ∨ op = 13 then 8 else 4
    if die = 8 then (m.logPacket die p 0x06 7 va (keyPa k), .value p.blk p.strm p.mark n w seq lane [0, 0] false (some (0x06, 7, va, keyPa k)))
    else
      (match m.atomStep op size k ops with
       | none => (m.logPacket die p 0x0F 1 va (keyPa k), .value p.blk p.strm p.mark n w seq lane [0, 0] false (some (0x0F, 1, va, keyPa k)))
       | some (old, m1) =>
         (m1, .value p.blk p.strm p.mark n w seq lane (oldWords size old) (atomFails op old (atomOperands op ops).1) none))
  | _ => (m, good)

/-- R445: is start mark a of epoch x newer than mark b of epoch y: in serial order while one block holds the identity; blocks that take it up in turn follow each other (log entry 34). -/
def newer (x a y b : Nat) : Bool :=
  if x = y then decide (1 ≤ (a + 2 ^ 32 - b) % 2 ^ 32 ∧ (a + 2 ^ 32 - b) % 2 ^ 32 ≤ 2 ^ 31) else decide (y < x)

/-- R207: are a packet's join tags satisfied: each named packet is acknowledged already, or its stream's context has passed it. -/
def Mach.tagsMet (m : Mach) (p : Packet) : Bool :=
  p.tags.all fun t =>
    let s : Strm := { p.strm with ch := t.1 }
    match m.retain.find? fun q => q.blk == p.blk && q.strm == s && q.seq == t.2 with
    | none => true
    | some q => m.esc.any fun e => e.strm == s && e.epoch == p.epoch && e.mark == q.mark && e.began && decide ((e.next + 65535 - t.2) % 65536 < 32768)

/-- R214: the next waiting packet an Escapement can apply, with its context. -/
def Mach.escNext (m : Mach) : Option (EscCtx × Packet) :=
  m.esc.findSome? fun e =>
    if e.began then
      (match e.waiting.find? fun p => p.seq == e.next with
       | some p => if m.tagsMet p then some (e, p) else none
       | none => none)
    else none

/-- Change a stream context. -/
def Mach.updEsc (m : Mach) (k : EscCtx) (f : EscCtx → EscCtx) : Mach :=
  { m with esc := modWhere m.esc (fun e => e.strm == k.strm && e.epoch == k.epoch && e.mark == k.mark) f }

/-- R209, R214: apply waiting packets while one is next in its stream; n bounds them. -/
def Mach.escRun (m : Mach) : Nat → Mach
  | 0 => m
  | n + 1 =>
    match m.escNext with
    | none => m
    | some (e, p) =>
      let nx := (e.next + 1) % 65536
      let m1 := m.updEsc e fun e => { e with next := nx, waiting := e.waiting.filter fun q => q.seq != p.seq, idleAt := m.clock }
      let r := m1.applyPacket p nx
      Mach.escRun { r.1 with acks := r.1.acks ++ [r.2] } n

/-- The packets waiting in all contexts. -/
def Mach.waitingPkts (m : Mach) : Nat := (m.esc.map fun e => e.waiting.length).sum

/-- R214: a packet waits in its context, at most 256 of them, each number once. -/
def EscCtx.hold (e : EscCtx) (p : Packet) (clock : Nat) : EscCtx :=
  if e.waiting.any (fun q => q.seq == p.seq) || decide (256 ≤ e.waiting.length) then { e with idleAt := clock }
  else { e with waiting := e.waiting ++ [p], idleAt := clock }

/-- R214: a duplicate is acknowledged again: with the answer that was lost, if one was. -/
def Mach.ackAgain (m : Mach) (e : EscCtx) (p : Packet) : Mach :=
  let mine (a : Ack) : Bool :=
    match a with
    | .upto b s k n _ => b == p.blk && s == p.strm && k == p.mark && n == (p.seq + 1) % 65536
    | .value b s k n _ _ _ _ _ _ => b == p.blk && s == p.strm && k == p.mark && n == (p.seq + 1) % 65536
    | _ => false
  match m.lostAcks.find? mine with
  | some a => { m with acks := m.acks ++ [a], lostAcks := m.lostAcks.filter fun x => !mine x }
  | none => { m with acks := m.acks ++ [.upto p.blk p.strm p.mark e.next none] }

/-- R214: a new context for a packet's stream. -/
def EscCtx.opened (p : Packet) (clock : Nat) : EscCtx :=
  { strm := p.strm, blk := p.blk, epoch := p.epoch, mark := p.mark, next := if p.start then p.seq else 0, began := p.start, waiting := [p], idleAt := clock }

/-- R214, R445: what a destination does with a packet that arrives. -/
def Mach.takePacket (m : Mach) (p : Packet) : Mach :=
  let same := m.esc.filter fun e => e.strm == p.strm
  match same.find? fun e => e.epoch == p.epoch && e.mark == p.mark with
  | some e =>
    if e.began then
      let back := (e.next + 65535 - p.seq) % 65536
      if back < 256 then m.ackAgain e p else m.updEsc e fun e => e.hold p m.clock
    else if p.start then
      let m1 := { m with esc := m.esc.filter fun x => x.strm != p.strm || (x.epoch == p.epoch && x.mark == p.mark) }
      m1.updEsc e fun e => { e.hold p m.clock with began := true, next := p.seq }
    else m.updEsc e fun e => e.hold p m.clock
  | none =>
    if same.any fun e => !newer p.epoch p.mark e.epoch e.mark then m
    else
      let others := if p.start then m.esc.filter fun e => e.strm != p.strm else m.esc
      let room := (others.filter fun e => (e.strm.dpkg, e.strm.ddie) == (p.strm.dpkg, p.strm.ddie)).length < 4096
      if room then { m with esc := others ++ [EscCtx.opened p m.clock] }
      else if p.start then { m with acks := m.acks ++ [.retry p.blk p.strm p.mark] }
      else m

/-- Drop the first packet with an id. -/
def dropPkt (id : Nat) (ps : List Packet) : List Packet :=
  match ps with
  | [] => []
  | p :: rest => if p.id = id then rest else p :: dropPkt id rest

/-- R233: the place of the first packet under way with a number, if it is on the wire. -/
def Mach.netAt (m : Mach) (id : Nat) : Option Packet :=
  match m.net.findIdx? fun p => p.id == id with
  | some i => if m.netReady i then m.net[i]? else none
  | none => none

/-- ESCAPEMENT_PACKET_ARRIVAL, R214: a packet that the limits of its links have let go arrives. -/
def Mach.packetArrives (m : Mach) (id : Nat) : Mach :=
  match m.netAt id with
  | none => m
  | some p =>
    let m1 := Mach.takePacket ({ m with net := dropPkt id m.net }.crossed 3 p.op.flits p.route) p
    m1.escRun m1.waitingPkts

def execEscapementPacketArrival (pkt : Nat) (s : State) : Host.Outcome State Fault Refusal := s.event fun m => m.packetArrives pkt

/-- R220, R304: where a channel record's bytes stand in a context's save area. -/
def Mach.recordVa (m : Mach) (b : Block) (off : Nat) : Nat :=
  match m.ctx? b.ctx with | some c => c.csabase + 0x10000 + b.lslot * 0x400000 + off | none => off

/-- R148, R447: the first fault of the pieces of a context save area: a missing page as (va, none), or what kills, as a cause, a sub-cause and a physical address. -/
def Mach.areaFault (m : Mach) (ts : List (Nat × Nat × Tr)) : Option (Nat × Option (Nat × Nat × Option Nat)) :=
  match beyond (ts.map fun t => t.1) with
  | some va => some (va, some (0x07, 4, none))
  | none => (m.trFault false ts).map fun p => (p.1, p.2.map fun q => (0x06, q.1, q.2))

/-- R447: write bytes of a block's record in the context's name; a missing page asks the host, and another fault kills the grid. Answers false while it waits. -/
def Mach.recordWrite (m : Mach) (id off : Nat) (bs : List Byte) : Mach × Bool :=
  match m.block? id with
  | none => (m, true)
  | some b =>
    let ts := m.trPieces b.ctx (pagePieces (m.recordVa b off) bs.length (bs.length / 65536 + 2)) { r := false, w := true, x := false }
    match m.areaFault ts with
    | none =>
      let cells := ((pieceKeys (trOk ts)).zip bs).map fun p => (p.1.2, p.2)
      ((trPtes true ts).foldl (fun m q => m.touch q.1 q.2) (m.putCells cells), true)
    | some (va, none) => ((m.addFault b.die b.ctx va 128 b.die false).1, false)
    | some (va, some (cause, sub, pa)) =>
      (m.killGrid b.grid (Mach.blockLog b cause sub 0 none (some va) pa none 0) none, true)

/-- R215: how far an acknowledgement moves a stream: the old and new acknowledged numbers, when its stream is current and it lies in the window. -/
def Mach.ackMove (m : Mach) (blk : Nat) (s : Strm) (mark n : Nat) : Option (Nat × Nat × Nat) :=
  (m.block? blk).bind fun b =>
    match (b.chan s.ch).dests.zipIdx.find? fun p => p.1.valid && (p.1.pkg, p.1.die) == (s.dpkg, s.ddie) && p.1.mark == mark && !p.1.start with
    | some (d, i) => if (n + 65536 - d.ack) % 65536 ≤ (d.next + 65536 - d.ack) % 65536 then some (i, d.ack, n) else none
    | none => none

/-- Does number q lie below n, counted from the acknowledged number. -/
def seqBelow (ack n q : Nat) : Bool := decide ((q + 65536 - ack) % 65536 < (n + 65536 - ack) % 65536)

/-- An atomic stays outstanding until its value arrives. -/
def Packet.isAtom (p : Packet) : Bool := match p.op with | .atom .. => true | _ => false

/-- R193, R208, R215: packets leave the retention buffer and their channel's count. -/
def Mach.packetsDone (m : Mach) (blk : Nat) (s : Strm) (mine : Packet → Bool) : Mach :=
  let gone := m.retain.filter fun p => p.blk == blk && p.strm == s && mine p
  let out (q : SentOp) : Bool := gone.any fun p => p.first == q.first && p.seq == q.seq && !q.rred && (q.dpkg, q.ddie) == (s.dpkg, s.ddie)
  let tls : List (Nat × Nat) := match m.block? blk with | some b => ((b.chan s.ch).sent.filter out).filterMap (fun (q : SentOp) => q.tl) | none => []
  let m1 := { m with retain := m.retain.filter fun p => !(p.blk == blk && p.strm == s && mine p) }
  let m2 := m1.updBlock blk fun b => b.updChan s.ch fun c => { c with sent := c.sent.filter fun q => !out q }
  tls.eraseDups.foldl (fun (m : Mach) (t : Nat × Nat) => m.copyDone blk s.ch t.1 t.2) m2

/-- R215: an acknowledgement cumulative to n, with the number of the atomic whose value it carries: the source keeps the largest acknowledged number, and an atomic leaves with its own value. -/
def Mach.ackStream (m : Mach) (blk : Nat) (s : Strm) (mark n : Nat) (own : Option Nat) : Mach :=
  let m1 := match own with | some q => m.packetsDone blk s fun p => p.mark == mark && p.seq == q | none => m
  let m2 :=
    match m1.ackMove blk s mark n with
    | none => m1
    | some (i, old, new) =>
      (m1.packetsDone blk s fun p => p.mark == mark && seqBelow old new p.seq && !p.isAtom).updBlock blk fun b => b.updChan s.ch fun c =>
        { c with dests := modAt c.dests i fun d => { d with ack := new, retryAt := none } }
  m2.chanSettle blk

/-- R210, R216: an atomic's value, or the fault it commits, fills its lane's place; the entry is filled with its last lane. -/
def Entry.laneValue (e : Entry) (W lane : Nat) (vals : List Word) (fail : Bool) (bad : Option CFault) : Entry :=
  match e.pend with
  | .chan left accs =>
    let olds := if e.vals.isEmpty then e.dests.map fun _ => RVal.u 0 else e.vals
    let news := olds.zipIdx.map fun p => RVal.lanes W fun l => if l = lane then vals.getD p.2 0 else p.1.get l
    let left' := left &&& ~~~bit lane
    let fault := match bad, e.fault with
      | some f, none => some f
      | some f, some g => if g.cause = f.cause then some { g with lanes := g.lanes ||| f.lanes } else some g
      | none, g => g
    { e with vals := news, pend := .chan left' accs, done := left' == 0, fail := if fail && opOf e.word != 0x62 then e.fail ||| bit lane else e.fail, fault := fault }
  | _ => e

/-- Fill a lane of an entry that waits for its channel. -/
def Mach.fillLane (m : Mach) (blk w seq lane : Nat) (vals : List Word) (fail : Bool) (bad : Option CFault) : Mach :=
  let W := match m.block? blk with | some b => b.width | none => 0
  m.updWarp blk w fun x => Warp.queued { x with rb := modWhere x.rb (fun e => e.seq == seq && !e.done) fun e => e.laneValue W lane vals fail bad }

/-- R219: FLAGS of a channel record. -/
def Mach.chanFlags (m : Mach) (b : Block) (ch : Nat) : Nat :=
  let st := m.chStat b ch
  1 + (if st.testBit 31 then 2 else 0) + (if st.testBit 30 then 4 else 0) + if st.testBit 29 then 8 else 0

/-- R219: the acknowledged number and the error fields of a saved block's channel record. -/
def Mach.recordAck (m : Mach) (blk : Nat) (s : Strm) (n : Option Nat) (err : Option (Nat × Nat × Nat)) : Mach × Bool :=
  match m.block? blk with
  | none => (m, true)
  | some b =>
    if b.place != .saved then (m, true)
    else
      let base := 0x1000 + 0x1000 * s.ch
      let i := ((b.chan s.ch).dests.findIdx? fun d => d.valid && (d.pkg, d.die) == (s.dpkg, s.ddie)).getD 0
      let r := match n with | some v => m.recordWrite blk (base + 0x40 + 16 * i + 6) (leBytes 2 v) | none => (m, true)
      match err, (b.chan s.ch).err with
      | some (cause, va, pa), none =>
        if r.2 then
          let r1 := r.1.recordWrite blk (base + 8) (leBytes 1 cause)
          let r2 := r1.1.recordWrite blk (base + 0x10) (leBytes 8 va ++ leBytes 8 pa)
          (r2.1.recordWrite blk (base + 1) (leBytes 1 (2 + m.chanFlags b s.ch)))
        else r
      | _, _ => r

/-- R215, R216, R220: one acknowledgement takes effect at its source; an error of an exited block counts against its grid. -/
def Mach.takeAck (m : Mach) (a : Ack) : Mach × Bool :=
  match a with
  | .upto blk s mark n err =>
    let r := m.recordAck blk s ((m.ackMove blk s mark n).map fun q => q.2.2) err
    if !r.2 then r
    else
      let m1 := match err with
        | some e => r.1.latchErr blk s.ch e
        | none => r.1
      (m1.ackStream blk s mark n none, true)
  | .retry blk s mark =>
    (m.updBlock blk fun b => b.updChan s.ch fun c =>
      { c with dests := c.dests.map fun d => if d.valid && (d.pkg, d.die) == (s.dpkg, s.ddie) && d.mark == mark then { d with retryAt := some (m.clock + 1024) } else d }, true)
  | .value blk s mark n w seq lane vals fail bad =>
    let r := m.recordAck blk s ((m.ackMove blk s mark n).map fun q => q.2.2) none
    if !r.2 then r
    else
      let f := bad.map fun q => { lanes := bit lane, cause := q.1, sub := q.2.1, va := some q.2.2.1, pa := some q.2.2.2, detail := 0 : CFault }
      let gone := match m.block? blk with | some b => b.place == .gone | none => true
      let m1 := if gone && bad.isSome then (match m.block? blk with | some b => r.1.updGrid b.grid fun g => { g with execErr := true } | none => r.1) else r.1
      ((m1.fillLane blk w seq lane vals fail f).ackStream blk s mark n (some ((n + 65535) % 65536)), true)
  | .rred blk ch first w seq lane vals =>
    let m0 := if (vals.getD 1 0).toNat / 2 ^ 24 != 0 then
        (match m.block? blk with | some b => (if b.place == .gone then m.updGrid b.grid fun g => { g with execErr := true } else m) | none => m)
      else m
    let m1 := (m0.fillLane blk w seq lane vals false none).updBlock blk fun b => b.updChan ch fun c =>
      { c with sent := c.sent.filter fun q => !(q.rred && q.first == first) }
    (Mach.chanSettle { m1 with heldCon := m1.heldCon.filter fun c => !(c.blk == blk && c.ch == ch && c.first == first) } blk, true)

/-- R220: does an acknowledgement go to a block whose save has begun and is not complete, or whose restore has begun and whose record has not been read. -/
def Mach.ackHeld (m : Mach) (a : Ack) : Bool :=
  let blk := match a with | .upto b _ _ _ _ => b | .retry b _ _ => b | .value b _ _ _ _ _ _ _ _ _ => b | .rred b _ _ _ _ _ _ => b
  (m.block? blk).any fun b => b.place == .restoring || (b.place == .placed && b.stopped)

/-- R239: a result whose route is gone: the source die answers in its place, and logs it unless this answer has been logged. -/
def Mach.reroute (m : Mach) (a : Ack) : Mach × Ack :=
  match a, m.ackRoute a with
  | .rred blk ch first w seq lane vals, none =>
    if vals = unusable then (m, a)
    else ((match m.contribOf blk ch first with | some c => m.logSlot c 2 0x0D000000#32 | none => m), .rred blk ch first w seq lane unusable)
  | _, _ => (m, a)

/-- STREAM_ACK, R215, R227: the acknowledgement in flight at a place arrives over a live route; one for a saved block waits while its record cannot be written (R447). -/
def Mach.ackArrives (m : Mach) (i : Nat) : Mach :=
  match m.acks[i]? with
  | none => m
  | some a =>
    if !m.ackReady i then m
    else
      let q := m.reroute a
      let m0 := { q.1 with acks := m.acks.eraseIdx i }
      let r := if m.ackHeld a then (m0, false) else (m0.ackCrossed a ((m.ackRoute a).getD [])).takeAck q.2
      if r.2 then r.1 else { r.1 with acks := r.1.acks ++ [a] }

def execStreamAck (ack : Nat) (s : State) : Host.Outcome State Fault Refusal := s.event fun m => m.ackArrives ack

/-- R216, R228: a retained packet whose destination is unreachable receives an error response. -/
def Mach.failPacket (m : Mach) (p : Packet) : Mach :=
  Mach.logPacket { m with acks := m.acks ++ [p.unreachable], net := dropPkt p.id m.net } p.strm.die p 0x0D 3 p.op.place.1 p.op.place.2

/-- R227, R228, R232: a packet goes out again over a live route, picked anew, or receives its error response. -/
def Mach.sendAgain (m : Mach) (p : Packet) : Mach :=
  match m.routeFor (p.id + m.clock) p.strm.die p.strm.dpkg p.strm.ddie with
  | some r => { m with net := m.net ++ [{ p with route := r.1, port := r.2 }] }
  | none => m.failPacket p

/-- START_RETRY, R214: the refused START goes out again after at least 1,024 cycles. -/
def Mach.startRetry (m : Mach) (id ch : Nat) : Mach :=
  match m.block? id with
  | none => m
  | some b =>
    let due := (b.chan ch).dests.filter fun d => d.valid && (match d.retryAt with | some t => decide (t ≤ m.clock) | none => false)
    let again := m.retain.filter fun p => p.blk == id && p.strm.ch == ch && p.start && due.any fun d => (d.pkg, d.die) == (p.strm.dpkg, p.strm.ddie) && d.mark == p.mark
    let m1 := m.updBlock id fun b => b.updChan ch fun c =>
      { c with dests := c.dests.map fun d => match d.retryAt with | some t => if t ≤ m.clock then { d with retryAt := none } else d | none => d }
    again.foldl (fun (m : Mach) p => m.sendAgain p) m1

def execStartRetry (blk ch : Nat) (s : State) : Host.Outcome State Fault Refusal := s.event fun m => m.startRetry blk ch

/-- ESCAPEMENT_CONTEXT_FREE, R214. -/
def Mach.escFree (m : Mach) (i : Nat) : Mach :=
  match m.esc[i]? with
  | none => m
  | some e => if e.waiting.isEmpty && decide (e.idleAt + 65536 ≤ m.clock) then { m with esc := m.esc.eraseIdx i } else m

def execEscapementContextFree (esc : Nat) (s : State) : Host.Outcome State Fault Refusal := s.event fun m => m.escFree esc

/-- R232: the lost requests of copies, as (number, cycle at which it goes out again). -/
def Mach.lostAsks (m : Mach) : List (Nat × Nat) := m.blocks.flatMap fun b => b.copies.flatMap fun q => q.lost.map fun x => (x.1, x.2.2)

/-- R232: a lost request of a copy goes out again. -/
def Mach.resendCopy (m : Mach) (id : Nat) : Mach :=
  let keep (x : Nat × Nat × Nat) : Bool := x.1 != id || decide (m.clock < x.2.2)
  { m with blocks := m.blocks.map fun b => { b with copies := b.copies.map (fun (q : Copy) => { q with lost := q.lost.filter keep }) } }

/-- RETENTION_RESEND, R232: a packet, contribution or copy request not acknowledged within 100,000 cycles goes out again as it was. -/
def Mach.resend (m : Mach) (id : Nat) : Mach :=
  match m.retain.find? fun p => p.id == id && decide (p.sentAt + 100000 ≤ m.clock) with
  | some p =>
    Mach.sendAgain { m with retain := modWhere m.retain (fun q => q.id == id) (fun (q : Packet) => { q with sentAt := m.clock }) } p
  | none =>
    match m.heldCon.find? fun c => c.id == id && decide (c.sentAt + 100000 ≤ m.clock) with
    | some c =>
      { m with contribs := m.contribs ++ [c], heldCon := modWhere m.heldCon (fun q => q.id == id) (fun (q : Contrib) => { q with sentAt := m.clock }) }
    | none => m.resendCopy id

def execRetentionResend (pkt : Nat) (s : State) : Host.Outcome State Fault Refusal := s.event fun m => m.resend pkt

/-- R218: send everything of a block that may be sent, ending every hold; n bounds the sends of one channel. -/
def Mach.sendAll (m : Mach) (id ch : Nat) : Nat → Mach
  | 0 => m
  | n + 1 =>
    match m.block? id with
    | none => m
    | some b =>
      match m.sendStep b ch with
      | .none => m
      | .page _ _ => m.sendHead id ch
      | _ => Mach.sendAll (m.sendHead id ch) id ch n

end Sys2Proof.Machine
end

