-- ==== Sys2Proof/Machine/PredWords.lean ====
section
/-! DEFINITION. Predicate words (R392, R398, R427) and the words that look across lanes: SHAPE, UNIF, SHFL, VOTE, MATCH, REDW (R76, R147, R384, R401, R411, R428). -/

namespace Sys2Proof.Machine

/-- R398: PLOP's function by FN: 0 AND, 1 OR, 2 XOR, 3 MOV. -/
def plopMask (fn : Nat) (x y : Mask) : Mask :=
  match fn with
  | 0 => x &&& y
  | 1 => x ||| y
  | 2 => x ^^^ y
  | _ => x

/-- PLOP, R398: PD, FN, PA, PB, NB. -/
def execPlop (h : Hdr) (p f q r : BitVec 3) (n : Bool) (s : State) : Host.Outcome State Fault Refusal :=
  s.word h [] fun c =>
    let y := c.w.pred r.toNat
    (c.shortPred p.toNat (plopMask f.toNat (c.w.pred q.toNat) (if n then ~~~y else y))).s

/-- R392: a lane's predicates as bits 7..0; bit 7 is p7. -/
def predBits (w : Warp) (l : Nat) : Word :=
  (List.range 7).foldl (fun k i => if (w.pred i).getLsbD l then k ||| BitVec.ofNat 32 (2 ^ i) else k) 0x80

/-- P2V, R392. -/
def execP2v (h : Hdr) (d : BitVec 6) (s : State) : Host.Outcome State Fault Refusal :=
  s.word h [d.toNat] fun c => (c.short d.toNat (RVal.lanes c.W fun l => predBits c.w l)).s

/-- V2P, R427. -/
def execV2p (h : Hdr) (a : BitVec 6) (s : State) : Host.Outcome State Fault Refusal :=
  s.word h [a.toNat] fun c =>
    ((List.range 7).foldl (fun (c : Cx) i => c.shortPred i (maskOf fun l => (c.val a.toNat l).getLsbD i)) c).s

/-- SHAPE, R76. -/
def execShape (h : Hdr) (d a : BitVec 6) (s : State) : Host.Outcome State Fault Refusal :=
  s.word h [d.toNat, a.toNat] fun c => (c.long d.toNat [.u (BitVec.ofNat 32 (c.reg a.toNat).code)]).s

/-- UNIF, R76. -/
def execUnif (h : Hdr) (d a : BitVec 6) (s : State) : Host.Outcome State Fault Refusal :=
  s.word h [d.toNat, a.toNat] fun c => (c.long d.toNat [.u (c.val a.toNat c.low)]).s

/-- R411: SHFL with the source lane of lane l given by `src l selector`, none when out of range. -/
def Cx.shuffle (c : Cx) (d a b : BitVec 6) (pf : Option (BitVec 23)) (src : Nat → Nat → Option Nat) : State :=
  let x := c.reg a.toNat
  let sel (l : Nat) : Nat := if pf.isSome then pfField pf 0 6 else (c.val b.toNat l).toNat
  let v (l : Nat) : Word :=
    match src l (sel l) with
    | some j => if c.ex.getLsbD j then x.get j else x.get l
    | none => x.get l
  (c.long d.toNat [if x.isU then x else RVal.lanes c.W v]).s

/-- The registers a SHFL names. -/
def shflRegs (d a b : BitVec 6) (pf : Option (BitVec 23)) : List Nat :=
  [d.toNat, a.toNat] ++ if pf.isSome then [] else [b.toNat]

/-- SHFL.lane, R411. -/
def execShflLane (h : Hdr) (d a b : BitVec 6) (pf : Option (BitVec 23)) (s : State) : Host.Outcome State Fault Refusal :=
  s.word h (shflRegs d a b pf) fun c => c.shuffle d a b pf fun _ n => some (n % c.W)

/-- SHFL.swap, R411. -/
def execShflSwap (h : Hdr) (d a b : BitVec 6) (pf : Option (BitVec 23)) (s : State) : Host.Outcome State Fault Refusal :=
  s.word h (shflRegs d a b pf) fun c => c.shuffle d a b pf fun l n => some (l ^^^ (n % c.W))

/-- SHFL.below, R411. -/
def execShflBelow (h : Hdr) (d a b : BitVec 6) (pf : Option (BitVec 23)) (s : State) : Host.Outcome State Fault Refusal :=
  s.word h (shflRegs d a b pf) fun c => c.shuffle d a b pf fun l n => if n ≤ l then some (l - n) else none

/-- SHFL.above, R411. -/
def execShflAbove (h : Hdr) (d a b : BitVec 6) (pf : Option (BitVec 23)) (s : State) : Host.Outcome State Fault Refusal :=
  s.word h (shflRegs d a b pf) fun c => c.shuffle d a b pf fun l n => if l + n < c.W then some (l + n) else none

/-- R428: the lanes of Exec whose source predicate is true. -/
def Cx.ballot (c : Cx) (p : BitVec 3) : Mask := c.ex &&& c.w.pred p.toNat

/-- R428: a predicate vote. -/
def Cx.votePred (c : Cx) (p : BitVec 3) (v : Bool) : State :=
  (c.enter [.pred p.toNat] .value [.u (if v then 1 else 0)] false []).s

/-- VOTE.all, R428: s is PS, p is PD. -/
def execVoteAll (h : Hdr) (q p : BitVec 3) (s : State) : Host.Outcome State Fault Refusal :=
  s.word h [] fun c => c.votePred p (c.ballot q == c.ex)

/-- VOTE.any, R428. -/
def execVoteAny (h : Hdr) (q p : BitVec 3) (s : State) : Host.Outcome State Fault Refusal :=
  s.word h [] fun c => c.votePred p (c.ballot q != 0)

/-- VOTE.eq, R428. -/
def execVoteEq (h : Hdr) (q p : BitVec 3) (s : State) : Host.Outcome State Fault Refusal :=
  s.word h [] fun c => c.votePred p (c.ballot q == 0 || c.ballot q == c.ex)

/-- VOTE.ballot.lo, R428. -/
def execVoteBallotLo (h : Hdr) (d : BitVec 6) (q : BitVec 3) (s : State) : Host.Outcome State Fault Refusal :=
  s.word h [d.toNat] fun c => (c.long d.toNat [.u (lo32 (c.ballot q))]).s

/-- VOTE.ballot.hi, R428. -/
def execVoteBallotHi (h : Hdr) (d : BitVec 6) (q : BitVec 3) (s : State) : Host.Outcome State Fault Refusal :=
  s.word h [d.toNat] fun c => (c.long d.toNat [.u (hi32 (c.ballot q))]).s

/-- MATCH, R384. -/
def execMatchW (h : Hdr) (d a : BitVec 6) (s : State) : Host.Outcome State Fault Refusal :=
  s.word h (pairRegs d ++ [a.toNat]) fun c =>
    let x := c.reg a.toNat
    let same (l : Nat) : Mask := c.ex &&& maskOf fun k => x.get k == x.get l
    (c.long d.toNat [RVal.lanes c.W fun l => lo32 (same l), RVal.lanes c.W fun l => hi32 (same l)]).s

/-- R147, R401: one combination of REDW with its flags: 0 add.i32, 1 add.f32, 2 min.i32, 3 max.i32, 4 min.n32, 5 max.n32, 6 min.f32, 7 max.f32, 8 and, 9 or, 10 xor. -/
def redPair (op : Nat) (ftz : Bool) (x y : Word) : Word × Word :=
  let i (v : Int) : Word := BitVec.ofInt 32 v
  let fl (r : Nat × Word) : Word × Word := (BitVec.ofNat 32 r.1, r.2)
  match op with
  | 0 => (x + y, 0)
  | 1 => fl (f32.addF 0 ftz x.toNat y.toNat)
  | 2 => (i (min x.toInt y.toInt), 0)
  | 3 => (i (max x.toInt y.toInt), 0)
  | 4 => (BitVec.ofNat 32 (min x.toNat y.toNat), 0)
  | 5 => (BitVec.ofNat 32 (max x.toNat y.toNat), 0)
  | 6 => fl (f32.minmax ftz false x.toNat y.toNat)
  | 7 => fl (f32.minmax ftz true x.toNat y.toNat)
  | 8 => (x &&& y, 0)
  | 9 => (x ||| y, 0)
  | _ => (x ^^^ y, 0)

/-- R147: one level of the tree, with the flags raised so far. -/
def redLevel (op : Nat) (ftz : Bool) : List (Option Word) → Word → List (Option Word) × Word
  | x :: y :: rest, fl =>
    let r := redLevel op ftz rest fl
    (match x, y with
     | some a, some b => let p := redPair op ftz a b; (some p.1 :: r.1, r.2 ||| p.2)
     | some a, none => (some a :: r.1, r.2)
     | none, y => (y :: r.1, r.2))
  | xs, fl => (xs, fl)

/-- R147: n levels of the tree. -/
def redTree (op : Nat) (ftz : Bool) : Nat → List (Option Word) → Word → Word × Word
  | 0, xs, fl => (match xs with | some x :: _ => (x, fl) | _ => (0, fl))
  | n + 1, xs, fl => let r := redLevel op ftz xs fl; redTree op ftz n r.1 r.2

/-- REDW, R401. DESIGN CHOICE (log entry 98): flags come from the combinations alone (R401), so a lone signalling NaN becomes the canonical NaN (R130) without INVALID. -/
def execRedw (h : Hdr) (d a b : BitVec 6) (s : State) : Host.Outcome State Fault Refusal :=
  s.word h [d.toNat, a.toNat] fun c =>
    let op := b.toNat
    let float := op = 1 || op = 6 || op = 7
    let x := c.reg a.toNat
    let leaf (l : Nat) : Option Word :=
      if c.ex.getLsbD l then some (if float then BitVec.ofNat 32 (f32.input c.ftz (x.get l).toNat) else x.get l) else none
    let r := redTree op c.ftz (if c.W = 16 then 4 else if c.W = 32 then 5 else 6) ((List.range c.W).map leaf) 0
    let root : Word := if float && (f32.value r.1.toNat).isNan then BitVec.ofNat 32 f32.nan else r.1
    ((c.long d.toNat [.u root]).flags r.2).s

end Sys2Proof.Machine
end

