-- ==== Sys2Proof/Machine/Fabric.lean ====
section
/-! DEFINITION. The fabric: link and plane loss (R229, R234), replay and uncorrectable flits (R225, R231), buffer lending (R233), the resynchronising handshake (R235), and reduction slots (R236 to R239). -/

namespace Sys2Proof.Machine

/-- R14, R231: the die that receives over a link in a direction, and logs what it discards; for an Igroxel port the die of its plane, when the package receives. -/
def linkDie (i : Nat) (toB : Bool) : Nat := if i < 26 then (if toB then (linkEnds i).2 else (linkEnds i).1) else 9 + portPlane (i - 26)

/-- R226: the coherence plane of a line between two dies: that of PA bit 10, or the other one when either die lacks a live link to it. -/
def Mach.cohPlane (m : Mach) (line a b : Nat) : Nat :=
  let p := line % 2
  if m.linkUp (8 * p + a) && m.linkUp (8 * p + b) then p else 1 - p

/-- R226: does the coherence traffic of a line take a link: its home or another die on the line's plane, or the way to the FE. -/
def Mach.cohOn (m : Mach) (line link : Nat) : Bool :=
  let home := line * 1024 / 2 ^ 36
  let d := link % 8
  if link < 16 then (if d = home then (List.range 8).any fun k => k != home && m.cohPlane line home k == link / 8 else m.cohPlane line home d == link / 8)
  else match m.feRoute home with | some r => r.any fun h => h.1 == link | none => false

/-- R229: does a line's coherence plane differ between two maps, for its home and one other die, or some other die when it is not known. -/
def Mach.planeMoves (old new : Mach) (line : Nat) (peer : Option Nat) : Bool :=
  let home := line * 1024 / 2 ^ 36
  ((match peer with | some d => [d] | none => List.range 8).filter fun d => d != home).any fun d => old.cohPlane line home d != new.cohPlane line home d

/-- A line's directory entry changes, or is made. -/
def Mach.updDir (m : Mach) (line : Nat) (f : DirEnt → DirEnt) : Mach :=
  let d := (m.dir.find? fun d => d.line == line).getD { line := line, peer := none, suspect := none, ackAt := 0, reissue := none }
  { m with dir := f d :: m.dir.filter fun d => d.line != line }

/-- R231: an invalidation acknowledgement is lost: the line is suspect, and every cluster that may hold it is invalidated again. -/
def Mach.suspectLine (m : Mach) (line : Nat) : Mach :=
  let mine (s : Nat) : Bool := s / 8 == sectorOf (keyOf m.rmap.pkg (line * 1024)) / 8
  (((m.dropUndoIf mine).observeIf mine).updDir line fun d =>
    { d with suspect := some (m.clock + 10000), ackAt := m.clock + Config.ackDelay line m.clock })

/-- R229: the remap after a loss: requests without a response are reissued on the new plane, lost write-backs leave their sectors poisoned at the home, and lost invalidation acknowledgements make their lines suspect. The sectors and lines are those whose messages were on the lost path. -/
def Mach.remap (m old : Mach) (lost acks : List Nat) : Mach :=
  let m1 := { m with dir := modWhere m.dir (fun d => old.planeMoves m d.line d.peer) (fun (d : DirEnt) => { d with reissue := none }) }
  let m2 := (lost.filter fun pa => m.backed pa && old.planeMoves m (pa / 1024) none).foldl (fun (m : Mach) pa => m.poisonAll (pa / 2 ^ 36) 5 [pa]) m1
  (acks.filter fun line => old.planeMoves m line none).foldl (fun (m : Mach) line => m.suspectLine line) m2

/-- R231: an answer is lost: a result is sent again for its contribution sent again, an acknowledgement for a duplicate. -/
def Mach.loseAck (m : Mach) (a : Ack) : Mach := match a with | .rred .. => m | a => { m with lostAcks := m.lostAcks ++ [a] }

/-- R229, R235: what is on the wire of lost links is lost with them; it is sent again from its source. -/
def Mach.dropOn (m old : Mach) (dead : Nat → Bool) : Mach :=
  let on (r : List (Nat × Bool)) : Bool := r.any fun h => dead h.1
  let gone := m.acks.filter fun a => on ((old.ackRoute a).getD [])
  gone.foldl (fun m a => m.loseAck a)
    { m with
      ackOpen := m.ackOpen.filter fun p => !on p.1,
      net := m.net.filter fun p => !on p.route,
      contribs := m.contribs.filter fun c => !on ((old.slotRoute c.die c.plane).getD []),
      acks := m.acks.filter fun a => !on ((old.ackRoute a).getD []) }

/-- R235: the FE sends LINKLOST to every compute die. -/
def Mach.announceLoss (m : Mach) (i : Nat) : Mach := { m with mgmt := m.mgmt ++ (List.range 8).map fun d => (i, d, 0) }

/-- LINK_LOST, R28, R229, R235: the event is posted, and LINKLOST is sent in the same cycle; `lost` and `acks` are the sectors of write-backs, and the lines of invalidation acknowledgements, that were on the link. -/
def Mach.loseLink (m : Mach) (i : Nat) (lost acks : List Nat) : Mach :=
  if m.rmap.linkState i = 0 then m
  else
    let m1 := m.postEvent 5 i 0 fun r => { r with links := modAt r.links i fun e => { e with state := 0 } }
    let m2 := (m1.dropOn m fun k => k == i).remap m lost acks
    m2.announceLoss i

def execLinkLost (l : PathLoss) (s : State) : Host.Outcome State Fault Refusal := s.event fun m => m.loseLink l.which l.lost l.acks

/-- R234: has a link owed flits and delivered none for 1,000 cycles. -/
def Mach.silent (m : Mach) (i : Nat) : Bool :=
  match (m.links.getD i LinkRun.empty).quiet with | some t => m.owes i && decide (t + 1000 ≤ m.clock) | none => false

/-- R229: the machine finds a link lost in this cycle, with what it carried (log entry 20). -/
def Mach.dropLink (m : Mach) (i : Nat) : Mach := m.loseLink i (Config.lostOn i m.clock).1 (Config.lostOn i m.clock).2

/-- LINK_SILENCE_TIMEOUT, R234: no flit for 1 us while flits are owed. -/
def execLinkSilenceTimeout (link : Nat) (s : State) : Host.Outcome State Fault Refusal :=
  s.event fun m => if m.silent link then m.dropLink link else m

/-- R234: a replay of the last 1 ms. -/
def recentReplay (clock : Nat) (r : Nat × Nat) : Bool := decide (clock < r.2 + 1000000)

/-- R234: more than 64 replays on one module in 1 ms. -/
def Mach.halvingDue (m : Mach) (i : Nat) : Bool :=
  m.rmap.linkState i != 0 && (match m.links[i]? with
    | some k => (List.range 8).any fun d => decide (64 < (k.reps.filter fun r => r.1 == d && recentReplay m.clock r).length)
    | none => false)

/-- LINK_HALVING, R28, R234: a link over its threshold retrains at half width; a halved one is lost. -/
def Mach.halveLink (m : Mach) (i : Nat) : Mach :=
  if !m.halvingDue i then m
  else
    let m1 := { m with links := modAt m.links i fun k => { k with reps := [] } }
    if m.rmap.linkState i = 1 then
      m1.postEvent 4 i 0 fun r => { r with links := modAt r.links i fun e => { e with state := 2, width := 32 } }
    else m1.dropLink i

def execLinkHalving (link : Nat) (s : State) : Host.Outcome State Fault Refusal := s.event fun m => m.halveLink link

/-- Change a slot of a plane. -/
def Mach.updSlot (m : Mach) (plane slot : Nat) (f : RSlot → RSlot) : Mach :=
  { m with slots := modAt m.slots plane fun ss => modAt ss slot f }

def Mach.slot (m : Mach) (plane slot : Nat) : RSlot := (m.slots.getD plane []).getD slot RSlot.empty

/-- R238, R239: an unusable contribution is answered and logged. -/
def Mach.refuseContrib (m : Mach) (c : Contrib) : Mach :=
  Mach.logSlot { m with acks := m.acks ++ [c.answer unusable] } c 2 0x0D000000#32

/-- R239: an open slot of a lost plane completes at once. -/
def Mach.slotGone (m : Mach) (plane slot : Nat) : Mach :=
  let k := m.slot plane slot
  if k.state = 1 then
    k.got.foldl (fun (m : Mach) p => m.refuseContrib p.2)
      (m.updSlot plane slot fun k => { k with state := 2, result := 0, status := 0x0D000000#32, freeAt := m.clock + 1048576 })
  else m

/-- PLANE_LOST, R28, R229, R239: as for a lost link; its message names no link. -/
def Mach.losePlane (m : Mach) (p : Nat) (lost acks : List Nat) : Mach :=
  if 2 ≤ p ∨ (m.rmap.planes.getD p (0, 0)).1 = 0 then m
  else
    let m0 := m.postEvent 6 p 0 fun r => { r with planes := modAt r.planes p fun _ => (0, 0) }
    let m1 := (m0.dropOn m fun k => linkPlane k == some p).remap m lost acks
    let m2 := (List.range 256).foldl (fun m k => m.slotGone p k) m1
    m2.announceLoss (26 + p)

def execPlaneLost (l : PathLoss) (s : State) : Host.Outcome State Fault Refusal := s.event fun m => m.losePlane l.which l.lost l.acks

/-- PORT_LOST, R28, R228: packets on the port are lost and go out again over the remaining ports (R232); those of a package that has become unreachable receive error responses. -/
def Mach.losePort (m : Mach) (port : Nat) : Mach :=
  match m.rmap.ports[port]? with
  | none => m
  | some e =>
    if e.state != 1 then m
    else
      let m1 := m.postEvent 7 port 0 fun r => { r with ports := modAt r.ports port fun p => { p with state := 2 } }
      let m2 := { m1 with net := m1.net.filter fun p => p.port != some port, links := modAt m1.links (26 + port) fun _ => LinkRun.empty }
      (m2.retain.filter fun p => !m2.reachable p.strm.die p.strm.dpkg p.strm.ddie).foldl (fun (m : Mach) p => m.failPacket p) m2

def execPortLost (port : Nat) (s : State) : Host.Outcome State Fault Refusal := s.event fun m => m.losePort port

/-- R231, R317: the receiver's die logs an uncorrectable flit: as POISON 0x05 with the sector when it carried data, else with no cause of its own (log entry 57); a port whose peer receives logs nothing here. -/
def Mach.logFlit (m : Mach) (k : LinkModule) (pa : Option Nat) : Mach :=
  if 26 ≤ k.link ∧ k.toB then m
  else
  m.log { cause := if pa.isSome then 0x0F else 0xFF, sub := if pa.isSome then 5 else 0xFF, die := linkDie k.link k.toB, ctx := none, core := none, warp := none, flags := 0, rolls := none, va := none,
          pa := pa.map fun a => a / 128 * 128, pc := none, grid := none, detail := 0 } none

/-- The other die of a coherence message of a line on a link, when the link tells. -/
def peerOn (link line : Nat) : Option Nat := if link < 16 && link % 8 != line * 1024 / 2 ^ 36 then some (link % 8) else none

/-- R231: the data of a copy is lost: its source sector counts as poisoned for it. -/
def Mach.copyLost (m : Mach) (blk tag s : Nat) : Mach :=
  m.updBlock blk fun b => { b with copies := b.copies.map (fun (q : Copy) => if q.tag = tag then { q with bad := s :: q.bad } else q) }

/-- R231, R232: the request for a source sector of a copy is lost, if it crosses the link; it goes out again after 100,000 cycles. -/
def Mach.askLost (m : Mach) (on : List (Nat × Bool) → Bool) (blk tag pa : Nat) : Mach :=
  let s := sectorOf (keyOf m.rmap.pkg pa)
  match m.block? blk with
  | none => m
  | some b =>
    let asks (q : Copy) : Bool := q.tag == tag && q.src.any fun p => decide (sectorOf p.2.1 ≤ s ∧ s * 128 < p.2.1 + p.2.2)
    if (b.copies.any asks) && (match m.routeFor s b.die m.rmap.pkg (pa / 2 ^ 36) with | some r => on r.1 | none => false) then
      { m.updBlock blk fun b => { b with copies := b.copies.map (fun (q : Copy) => if asks q then { q with lost := q.lost ++ [(m.nextPkt, s, m.clock + 100000)] } else q) }
        with nextPkt := m.nextPkt + 1 }
    else m

/-- R231: an acknowledgement's message crosses an Igroxel port when its stream goes to another package over it. -/
def Mach.ackPort (m : Mach) (a : Ack) (port : Nat) : Bool :=
  match a with
  | .upto _ s _ _ _ | .retry _ s _ | .value _ s _ _ _ _ _ _ _ _ => s.dpkg != m.rmap.pkg && ((m.portsTo s.dpkg 0) ++ m.portsTo s.dpkg 1).contains port
  | .rred .. => false

/-- R231: what follows from what an uncorrectable flit of a link carried: data is poisoned where it lands, and a message is lost when it crosses the link. -/
def Mach.flitLost (m : Mach) (k : LinkModule) (l : FlitLoss) : Mach :=
  let link := k.link
  let on (r : List (Nat × Bool)) : Bool := r.contains (link, k.toB)
  let m1 := m.logFlit k none
  let s (pa : Nat) : Nat := sectorOf (keyOf m.rmap.pkg pa)
  match l with
  | .none => m
  | .data pa => m.poisonAll (linkDie link k.toB) 5 [pa]
  | .fill core pa => { m.logFlit k (some pa) with l1Bad := m.l1Bad ++ [(core, s pa)] }
  | .copy blk tag pa => (m.logFlit k (some pa)).copyLost blk tag (s pa)
  | .copyAsk blk tag pa => m1.askLost on blk tag pa
  | .dir line => if m.cohOn line link then (m1.suspectLine line).updDir line fun d => { d with peer := peerOn link line } else m1
  | .coherence line => if m.cohOn line link then m1.updDir line fun d => { d with peer := peerOn link line, reissue := some (m.clock + 10000) } else m1
  | .packet id => { m1 with net := m.net.filter fun p => !(p.id == id && (on p.route || (k.toB && p.port.any fun q => link == 26 + q))) }
  | .contrib id => { m1 with contribs := m.contribs.filter fun c => !(c.id == id && on ((m.slotRoute c.die c.plane).getD [])) }
  | .ack i =>
    (match m.acks[i]? with
     | some a =>
       let hops := (m.ackRoute a).getD []
       if on hops || (26 ≤ link && !k.toB && m.ackPort a (link - 26)) then
         Mach.loseAck { m1 with acks := m.acks.eraseIdx i, ackOpen := m.ackOpen.filter fun p => p.1 != hops } a
       else m1
     | none => m1)
  | .management =>
    match m.mgmt.findIdx? fun p => p.2.2 == 0 && on (backward ((m.feRoute p.2.1).getD [])) with
    | some i => { m1 with mgmt := modAt m.mgmt i fun p => (p.1, p.2.1, m.clock + 10000) }
    | none => m1

/-- R225: how often a flit of a direction has failed its CRC in a row with this time. -/
def LinkDir.failing (d : LinkDir) (l : FlitLoss) : Nat := (match d.fails.find? fun p => p.1 == l with | some p => p.2 | none => 0) + 1

/-- R225: a flit fails its CRC again; one that has failed eight replays in a row is discarded, and its number passes. -/
def LinkDir.failed (d : LinkDir) (l : FlitLoss) : LinkDir :=
  let others := d.fails.filter fun p => p.1 != l
  if l = .none then d
  else if 8 ≤ d.failing l then { d with fails := others, seq := (d.seq + 1) % 4096 }
  else { d with fails := (l, d.failing l) :: others }

/-- R225: is a link, or an Igroxel port, there to ask for a replay. -/
def Mach.replays (m : Mach) (link : Nat) : Bool :=
  if link < 26 then m.rmap.linkState link != 0 else link < 62 && (m.rmap.ports[link - 26]?).any fun e => e.state == 1

/-- FLIT_REPLAY_REQUEST, R22, R225, R234: one more replay on a module of a link, or on an Igroxel port, whose entry counts none (R24); a flit that has failed eight in a row is lost. -/
def Mach.flitReplay (m : Mach) (k : LinkModule) (l : FlitLoss) : Mach :=
  if !m.replays k.link then m
  else
    let d := (m.links.getD k.link LinkRun.empty).dir k.toB
    let m1 := { m with
      rmap := { m.rmap with links := modAt m.rmap.links k.link fun e => { e with replays := min (e.replays + 1) (2 ^ 32 - 1) } },
      links := modAt m.links k.link fun r =>
        { r.updDir k.toB (fun d => d.failed l) with reps := (k.module_, m.clock) :: r.reps.filter (recentReplay m.clock) } }
    if l ≠ .none ∧ 8 ≤ d.failing l then m1.flitLost k l else m1

def execFlitReplayRequest (at_ : LinkModule) (loss : FlitLoss) (s : State) : Host.Outcome State Fault Refusal :=
  s.event fun m => m.flitReplay at_ loss

/-- R231: is a line suspect with its wait over. -/
def DirEnt.suspectDue (d : DirEnt) (clock : Nat) : Bool := match d.suspect with | some t => decide (t ≤ clock) | none => false

/-- SUSPECT_ACK_TIMEOUT, R231: an acknowledgement is still missing after 10,000 cycles: the line is poisoned at the home. -/
def Mach.suspectTimeout (m : Mach) (line : Nat) : Mach :=
  if m.dir.any fun d => d.line == line && d.suspectDue m.clock then
    (m.updDir line fun d => { d with suspect := none }).poisonAll (min 8 (line * 1024 / 2 ^ 36)) 5 ((List.range 8).map fun i => line * 1024 + 128 * i)
  else m

def execSuspectAckTimeout (line : Nat) (s : State) : Host.Outcome State Fault Refusal := s.event fun m => m.suspectTimeout line

/-- COHERENCE_REISSUE_TIMEOUT, R231: the request goes out again. -/
def Mach.reissue (m : Mach) (line : Nat) : Mach :=
  if m.dir.any fun d => d.line == line && (match d.reissue with | some t => decide (t ≤ m.clock) | none => false) then
    m.updDir line fun d => { d with reissue := none }
  else m

def execCoherenceReissueTimeout (line : Nat) (s : State) : Host.Outcome State Fault Refusal := s.event fun m => m.reissue line

/-- MANAGEMENT_RESEND_TIMEOUT, R231: the FE sends LINKLOST again 10,000 cycles after it was lost. -/
def Mach.mgmtResend (m : Mach) (link : Nat) : Mach :=
  { m with mgmt := m.mgmt.map fun p => if p.1 = link ∧ 0 < p.2.2 ∧ p.2.2 ≤ m.clock then (p.1, p.2.1, 0) else p }

def execManagementResendTimeout (link : Nat) (s : State) : Host.Outcome State Fault Refusal := s.event fun m => m.mgmtResend link

/-- R233: the limits of a period: 4 KiB each, and 1,920 units of 256 bytes in proportion to the bytes received, the units left over to class 1. -/
def newLimits (recv : List Nat) : List Nat :=
  let total := recv.sum
  let units := recv.map fun r => if total = 0 then 0 else 1920 * r / total
  let left := 1920 - units.sum
  units.zipIdx.map fun p => 4096 + 256 * (p.1 + if p.2 = 1 then left else 0)

/-- R233: has a period of 1,024 cycles begun whose limits are not computed yet. -/
def LinkDir.due (d : LinkDir) (clock : Nat) : Bool := decide (d.period < clock / 1024)

/-- BUFFER_LIMIT_RECOMPUTE, R233: a receiver computes the limits of its period. -/
def LinkDir.recompute (d : LinkDir) (clock : Nat) : LinkDir :=
  if d.due clock then { d with new := newLimits d.recv, recv := List.replicate 8 0, period := clock / 1024 } else d

def execBufferLimitRecompute (link : Nat) (toB : Bool) (s : State) : Host.Outcome State Fault Refusal :=
  s.event fun m => { m with links := modAt m.links link fun k => k.updDir toB fun d => d.recompute m.clock }

/-- R233: increases class by class out of the free space. -/
def grow (free : Nat) : List (Nat × Nat) → List Nat
  | [] => []
  | (lim, new) :: rest =>
    let up := min (new - lim) free
    (lim + up) :: grow (free - up) rest

/-- R233: the limits after an announcement: a decrease once the bytes in flight lie below it, an increase out of free space. -/
def announced (lim new flight : List Nat) : List Nat :=
  let down := (lim.zip (new.zip flight)).map fun p => if p.2.1 < p.1 ∧ p.2.2 < p.2.1 then p.2.1 else p.1
  grow (524288 - down.sum) (down.zip new)

/-- R233: the limits a direction of a link has once an announcement is made now. -/
def Mach.announcedOn (m : Mach) (link : Nat) (toB : Bool) : List Nat :=
  let d := (m.links.getD link LinkRun.empty).dir toB
  announced d.lim d.new (m.flights (link, toB))

/-- R233: would an announcement change a limit. -/
def Mach.announceDue (m : Mach) (link : Nat) (toB : Bool) : Bool :=
  let d := (m.links.getD link LinkRun.empty).dir toB
  d.lim != d.new && d.lim != m.announcedOn link toB

/-- BUFFER_LIMIT_ANNOUNCE, R233. -/
def execBufferLimitAnnounce (link : Nat) (toB : Bool) (s : State) : Host.Outcome State Fault Refusal :=
  s.event fun m => { m with links := modAt m.links link fun k => k.updDir toB fun d => { d with lim := m.announcedOn link toB } }

/-- R233: the direction of a live link whose limits are to be computed, and one whose limits change. -/
def Mach.limitDue (m : Mach) : Option Instr :=
  (List.range 26).findSome? fun i =>
    if m.rmap.linkState i = 0 then none
    else
      [false, true].findSome? fun toB =>
        let d := (m.links.getD i LinkRun.empty).dir toB
        if d.due m.clock then some (.bufferLimitRecompute i toB) else if m.announceDue i toB then some (.bufferLimitAnnounce i toB) else none

/-- R231, R234: the cycle ends: a suspect entry whose acknowledgements have arrived is plain again, and links that owe flits are timed. -/
def Mach.fabricTick (m : Mach) : Mach :=
  let late (d : DirEnt) : Bool := match d.suspect with | some t => decide (t ≤ d.ackAt) || decide (m.clock < d.ackAt) | none => d.reissue.isSome
  let m1 := { m with dir := m.dir.filterMap fun d => if late d then some d else if d.reissue.isSome then some { d with suspect := none } else none }
  if m.net.isEmpty && m.acks.isEmpty && m.contribs.isEmpty && m.links.all (fun k => k.quiet.isNone) then m1
  else
    { m1 with links := m.links.zipIdx.map fun p =>
        { p.1 with quiet := if m.owes p.2 then some (p.1.quiet.getD m.clock) else none } }

/-- R235: the destinations of a source die: the package's other dies and the FE, and every destination its streams name. -/
def Mach.pairDests (m : Mach) (die : Nat) : List Nat :=
  let own := (List.range 9).map fun d => pairCode m.rmap.pkg d
  let named := (m.blocks.filter fun b => b.die == die).flatMap fun b => b.chans.flatMap fun c =>
    (c.dests.filter fun d => d.valid).map fun d => pairCode d.pkg d.die
  let kept := (m.retain.filter fun p => p.strm.die == die).map fun p => pairCode p.strm.dpkg p.strm.ddie
  ((own ++ named ++ kept).filter fun q => q != pairCode m.rmap.pkg die).eraseDups

/-- R231, R235: the dies a LINKLOST now reaches: its message to them is on its way, and the FE has a route. -/
def Mach.lossHeard (m : Mach) (link : Nat) : List Nat := (List.range 8).filter fun d => m.mgmt.contains (link, d, 0) && (m.feRoute d).isSome

/-- LINKLOST, R227, R235: every pair of a source die the message reaches enters HOLD and keeps the DELIVERED values it has received. -/
def Mach.linkLostArrives (m : Mach) (link : Nat) : Mach :=
    let ds := m.lossHeard link
    let old (src dst : Nat) : List (Strm × Option Nat) := match m.pairs.find? fun p => p.src == src && p.dst == dst with | some p => p.got | none => []
    { m with
      mgmt := m.mgmt.filter fun p => !(p.1 == link && p.2.2 == 0),
      pairs := (m.pairs.filter fun p => !ds.contains p.src) ++ ds.flatMap fun s => (m.pairDests s).map fun d => { src := s, dst := d, st := 1, since := m.clock, got := old s d } }

def execLinklost (link : Nat) (s : State) : Host.Outcome State Fault Refusal := s.event fun m => m.linkLostArrives link

/-- Change a pair. -/
def Mach.updPair (m : Mach) (src dst : Nat) (f : Pair → Pair) : Mach :=
  { m with pairs := modWhere m.pairs (fun p => p.src == src && p.dst == dst) f }

def Mach.pair? (m : Mach) (src dst : Nat) : Option Pair := m.pairs.find? fun p => p.src == src && p.dst == dst

/-- R235: the streams of a pair, as (stream, block, mark): those of valid table entries and of retained packets. -/
def Mach.pairStreams (m : Mach) (src dst : Nat) : List (Strm × Nat × Nat) :=
  let tabs := (m.blocks.filter fun b => b.die == src).flatMap fun b => b.chans.zipIdx.flatMap fun c =>
    (c.1.dests.filter fun d => d.valid && !d.start && pairCode d.pkg d.die == dst).map fun d =>
      ({ die := src, core := (b.side 0).core, slot := (b.side 0).slot, ch := c.2, dpkg := d.pkg, ddie := d.die : Strm }, b.id, d.mark)
  let kept := (m.retain.filter fun p => p.strm.die == src && pairCode p.strm.dpkg p.strm.ddie == dst).map fun p => (p.strm, p.blk, p.mark)
  (tabs ++ kept).eraseDups

/-- R235: the first stream of a pair whose DELIVERED is still to come. -/
def Mach.awaited (m : Mach) (p : Pair) : Option Nat :=
  (m.pairStreams p.src p.dst).findIdx? fun q => !p.got.any fun g => g.1 == q.1

/-- R232, R235: replay from the retention buffer: a stream whose destination holds no context from its first retained packet, with START; another from DELIVERED + 1. -/
def Mach.replayPair (m : Mach) (src dst : Nat) (got : List (Strm × Option Nat)) : Mach :=
  (m.pairStreams src dst).foldl
    (fun (m : Mach) q =>
      let mine (p : Packet) : Bool := p.strm == q.1 && p.blk == q.2.1 && p.mark == q.2.2
      match (got.find? fun g => g.1 == q.1).map fun g => g.2 with
      | some (some v) => (m.retain.filter fun p => mine p && decide ((p.seq + 65535 - v) % 65536 < 32768)).foldl (fun (m : Mach) p => m.sendAgain p) m
      | _ =>
        match m.retain.find? mine with
        | none => m
        | some first =>
          let ps := modWhere m.retain (fun p => p.id == first.id) (fun (p : Packet) => { p with start := true })
          (ps.filter mine).foldl (fun (m : Mach) p => m.sendAgain p) { m with retain := ps })
    m

/-- R235: the exchange is complete once every stream has its DELIVERED; replay then sends everything, and SYNCDONE is sent. An unreachable destination completes none. -/
def Mach.exchangeCheck (m : Mach) (src dst : Nat) : Mach :=
  match m.pair? src dst with
  | some p =>
    if p.st = 2 ∧ m.reachable src (dst / 16) (dst % 16) ∧ m.awaited p = none then
      (m.replayPair src dst p.got).updPair src dst fun p => { p with st := 4, since := m.clock }
    else m
  | none => m

/-- ROUTES_RECOMPUTED, R235: HOLD ends. -/
def Mach.routesReady (m : Mach) (src dst : Nat) : Mach :=
  match m.pair? src dst with
  | some p => if p.st = 1 then (m.updPair src dst fun p => { p with st := 2, since := m.clock }).exchangeCheck src dst else m
  | none => m

def execRoutesRecomputed (src dst : Nat) (s : State) : Host.Outcome State Fault Refusal := s.event fun m => m.routesReady src dst

/-- DELIVERED, R235: the destination's report for a stream of the pair: its next expected number less 1, or none. -/
def Mach.delivered (m : Mach) (src dst i : Nat) : Mach :=
  match m.pair? src dst with
  | none => m
  | some p =>
    if p.st ≠ 2 ∨ !m.reachable src (dst / 16) (dst % 16) then m
    else
      match (m.pairStreams src dst)[i]? with
      | some q =>
        if p.got.any (fun g => g.1 == q.1) then m.exchangeCheck src dst
        else
          let v := (m.esc.find? fun e => e.strm == q.1 && e.blk == q.2.1 && e.mark == q.2.2 && e.began).map fun e => (e.next + 65535) % 65536
          (m.updPair src dst fun p => { p with got := p.got ++ [(q.1, v)] }).exchangeCheck src dst
      | none => m.exchangeCheck src dst

def execDelivered (src dst strm : Nat) (s : State) : Host.Outcome State Fault Refusal := s.event fun m => m.delivered src dst strm

/-- R235: has a pair's exchange lasted 100,000 cycles. -/
def Pair.expired (p : Pair) (clock : Nat) : Bool := p.st == 2 && decide (p.since + 100000 ≤ clock)

/-- EXCHANGE_TIMEOUT, R216, R235: the destination is unreachable: every retained packet to it receives an error response, and the pair returns to NORMAL. -/
def Mach.exchangeExpired (m : Mach) (src dst : Nat) : Mach :=
  match m.pair? src dst with
  | none => m
  | some p =>
    if !p.expired m.clock then m
    else
      let gone := m.retain.filter fun p => p.strm.die == src && pairCode p.strm.dpkg p.strm.ddie == dst
      let m1 := gone.foldl (fun (m : Mach) p => m.failPacket p) m
      { m1 with pairs := m1.pairs.filter fun p => !(p.src == src && p.dst == dst) }

def execExchangeTimeout (src dst : Nat) (s : State) : Host.Outcome State Fault Refusal := s.event fun m => m.exchangeExpired src dst

/-- SYNCDONE, R235: acknowledged, and the pair is NORMAL again. -/
def Mach.syncDone (m : Mach) (src dst : Nat) : Mach :=
  { m with pairs := m.pairs.filter fun p => !(p.src == src && p.dst == dst && p.st == 4) }

def execSyncdone (src dst : Nat) (s : State) : Host.Outcome State Fault Refusal := s.event fun m => m.syncDone src dst

/-- Is a word an f32 NaN. -/
def isNanWord (w : Word) : Bool := decide (0x7F800000 < w.toNat % 2 ^ 31)

/-- R237: the value of index i among the counted contributions. -/
def slotLeaf (got : List (Nat × Contrib)) (i : Nat) : Option Word := (got.find? fun p => p.1 == i).map fun p => p.2.v

/-- R130, R237: the combination of a slot's counted values, over the tree of R147 on 64 index positions; with the flags it raises. Operations: 0 maxa.f32, 1 max.f32, 2 min.f32, 3 add.f32, 4 add.i32. -/
def slotValue (op : Nat) (got : List (Nat × Contrib)) : Word × Word :=
  let leaves := (List.range 64).map (slotLeaf got)
  let tree (k : Nat) : Word × Word := redTree k false 6 leaves 0
  let plain (r : Word × Word) : Word × Word := (if isNanWord r.1 then BitVec.ofNat 32 f32.nan else r.1, r.2)
  match op with
  | 0 => (BitVec.ofNat 32 (((leaves.filterMap id).filter fun v => !isNanWord v).foldl (fun k v => max k (v.toNat % 2 ^ 31)) 0), 0)
  | 1 => plain (tree 7)
  | 2 => plain (tree 6)
  | 3 => plain (tree 1)
  | _ => tree 0

/-- R238: the status word of a completed slot. -/
def slotStatus (op : Nat) (got : List (Nat × Contrib)) (late : Bool) (flags : Word) : Word :=
  let nan := op < 4 && got.any fun p => isNanWord p.2.v
  BitVec.ofNat 32 ((if late then 2 ^ 23 else 0) + (if nan then 2 ^ 22 else 0) + flags.toNat % 64 * 2 ^ 16 + got.length)

/-- R238: the mask of the counted indices. -/
def slotMask (got : List (Nat × Contrib)) : Mask := got.foldl (fun k p => k ||| bit p.1) 0

/-- R238: a completed slot's answer to a counted contribution. -/
def RSlot.answer (k : RSlot) (c : Contrib) : Ack :=
  if k.status.toNat / 2 ^ 24 = 0x0D then c.answer unusable
  else c.answer [k.result, k.status, lo32 (slotMask k.got), hi32 (slotMask k.got)]

/-- R237: a slot as completed in a cycle. -/
def RSlot.completed (k : RSlot) (at_ : Nat) : RSlot :=
  let v := slotValue k.op k.got
  { k with state := 2, result := v.1, status := slotStatus k.op k.got (k.got.length < k.count) v.2, freeAt := at_ + 1048576 }

/-- R237: a slot completes: every counted contribution receives the result. -/
def Mach.completeSlot (m : Mach) (plane slot at_ : Nat) : Mach :=
  let k := (m.slot plane slot).completed at_
  { m.updSlot plane slot (fun _ => k) with acks := m.acks ++ k.got.map fun p => k.answer p.2 }

/-- R237: is an open slot past its deadline cycle. -/
def RSlot.overdue (k : RSlot) (clock : Nat) : Bool := k.state == 1 && decide (k.deadline < clock)

/-- SLOT_DEADLINE, R237: contributions of the deadline cycle are counted, so the slot completes once that cycle is over. -/
def Mach.slotDeadline (m : Mach) (plane slot : Nat) : Mach :=
  let k := m.slot plane slot
  if k.overdue m.clock then m.completeSlot plane slot k.deadline else m

def execSlotDeadline (plane slot : Nat) (s : State) : Host.Outcome State Fault Refusal := s.event fun m => m.slotDeadline plane slot

/-- R237: is a closed slot's time over. -/
def RSlot.freeDue (k : RSlot) (clock : Nat) : Bool := k.state == 2 && decide (k.freeAt ≤ clock)

/-- SLOT_FREE, R237. -/
def Mach.slotFree (m : Mach) (plane slot : Nat) : Mach :=
  if (m.slot plane slot).freeDue m.clock then m.updSlot plane slot fun k => { k with state := 0 } else m

def execSlotFree (plane slot : Nat) (s : State) : Host.Outcome State Fault Refusal := s.event fun m => m.slotFree plane slot

/-- R237: count a contribution in an open slot; with COUNT indices the slot completes. -/
def Mach.countContrib (m : Mach) (plane slot i : Nat) (c : Contrib) : Mach :=
  let m1 := m.updSlot plane slot fun k => { k with got := k.got ++ [(i, c)] }
  let k := m1.slot plane slot
  if k.count ≤ k.got.length then m1.completeSlot plane slot m.clock else m1

/-- R237, R238, R239: what a slot does with a contribution that reaches it; one re-sent that it has counted waits with the others, or receives the result again. -/
def Mach.contribute (m : Mach) (c : Contrib) : Mach :=
  let n := c.desc.toNat
  let plane := n / 2 ^ 8 % 2
  let slot := n % 2 ^ 8
  let gen := n / 2 ^ 48
  let i := n / 2 ^ 16 % 64
  let m1 := (m.slotDeadline plane slot).slotFree plane slot
  let k := m1.slot plane slot
  if !m.planeRoute c.die plane then m.refuseContrib c
  else if k.state ≠ 0 ∧ k.got.any (fun p => p.2.id == c.id) then
    (if k.state = 2 then { m1 with acks := m1.acks ++ [k.answer c] } else m1)
  else if k.state = 0 ∨ (k.state = 2 ∧ k.gen ≠ gen) then
    (m1.updSlot plane slot fun _ =>
      { RSlot.empty with state := 1, op := c.op, gen := gen, count := n / 2 ^ 24 % 128, opened := m.clock,
                         deadline := m.clock + 1024 * (n / 2 ^ 32 % 2 ^ 16) }).countContrib plane slot i c
  else if k.state = 2 then
    let stat := BitVec.ofNat 32 (k.status.toNat % 2 ^ 24 + 0x0E * 2 ^ 24)
    Mach.logSlot { m1 with acks := m1.acks ++ [c.answer [0, stat, lo32 (slotMask k.got), hi32 (slotMask k.got)]] } c 1 stat
  else if k.gen ≠ gen ∨ k.op ≠ c.op ∨ k.got.any (fun p => p.1 == i) then m1.refuseContrib c
  else m1.countContrib plane slot i c

/-- R233: the contribution under way with a number, if it is on the wire. -/
def Mach.conAt (m : Mach) (id : Nat) : Option Contrib :=
  match m.contribs.findIdx? fun c => c.id == id with
  | some i => if m.conReady i then m.contribs[i]? else none
  | none => none

/-- SLOT_CONTRIBUTION, R237: the contribution in flight with a number reaches its slot. -/
def Mach.contribArrives (m : Mach) (id : Nat) : Mach :=
  match m.conAt id with
  | none => m
  | some c => Mach.contribute ({ m with contribs := m.contribs.eraseP fun c => c.id == id }.crossed 5 1 ((m.slotRoute c.die c.plane).getD [])) c

def execSlotContribution (rr : Nat) (s : State) : Host.Outcome State Fault Refusal := s.event fun m => m.contribArrives rr

end Sys2Proof.Machine
end

