-- ==== Sys2Proof/Machine/WarpEvents.lean ====
section
/-! DEFINITION. What happens to a warp between issues: long results arrive (R105), the Cellar spills and fills frames (R91 to R93), parked sub-warps replay (R293, R294, R296), and errors are found (R269, R312, R315); and what the host's own accesses and snoops do to memory (R195, R230, R321). -/

namespace Sys2Proof.Machine

/-- LONG_RESULT_ARRIVAL, R105. -/
def execLongResultArrival (blk warp seq : Nat) (s : State) : Host.Outcome State Fault Refusal := s.event fun m => m.arrive blk warp seq

/-- R91: is a frame spillable: resident, and current for none of its live members. -/
def Warp.spillable (w : Warp) (f : Frame) : Bool :=
  f.resident && (lanesOf (f.members &&& w.liveLanes)).all fun l => (w.lane l).fid != f.id

/-- The warps of the active context on a core, as (block, warp). -/
def Mach.activeWarps (m : Mach) (c : Nat) : List (Block × Warp) :=
  let a := (m.core c).active
  (m.inBank c a).flatMap fun b => b.warps.filterMap fun w => if (b.side w.side).core == c && w.liveLanes != 0 then some (b, w) else none

/-- R91: the frame the Cellar spills next: of the warp that blocked most recently, the frame allocated most recently. DESIGN CHOICE (log entry 89): among warps that entered the blocked state in one cycle, or never did, the first in block and warp order; the rule gives none. -/
def Mach.spillChoice (m : Mach) (c : Nat) : Option (Nat × Nat × Nat) :=
  let ws := (m.activeWarps c).filter fun p => p.2.frames.any p.2.spillable
  (bestBy (fun p => p.2.blocked) ws).bind fun p =>
    (bestBy (fun f => f.order) (p.2.frames.filter p.2.spillable)).map fun f => (p.1.id, p.2.num, f.id)

/-- R290: the word of the group at a PC that a later trap of its waiting lanes names, with its prefix and place: the first that satisfies `p`, or the group's first. -/
def Mach.trapWord (m : Mach) (b : Block) (pc : PC) (p : GWord → Bool) : Word × Word × PC :=
  match m.fetchGroup b.ctx b.entry pc with
  | .ok ws _ => (match (ws.find? p).orElse fun _ => ws.head? with | some g => (g.word, g.pfx, g.pc) | none => (0, 0, pc))
  | _ => (0, 0, pc)

/-- R84: does a word make the request an allocation queue holds: a GROW, or a CALL or CALLX; a fill waits at a return PC, before its word. -/
def GWord.asks (kind : Nat) (g : GWord) : Bool :=
  if kind = 2 then g.op == 0x12 else kind == 1 && (g.op == 0x03 || g.op == 0x04)

/-- R93, R290: a trap the core raises for one waiting path; its address holds the pool word. -/
def Mach.coreTrapPath (m : Mach) (c i : Nat) (q : AllocReq) (cause sub : Nat) (lanes : Mask) : Mach :=
  match m.block? q.blk, m.warp? q.blk q.warp with
  | some b, some w =>
    let pc := (w.lane (lowest lanes)).pc
    let g := m.trapWord b pc (GWord.asks q.kind)
    let t : Trap :=
      { cause := cause, sub := sub, commit := false, second := false, pc := g.2.2, rpc := pc, group := pc, word := g.1, pfx := g.2.1,
        addr := m.freeLines c i * 2 ^ 16 + q.lines % 2 ^ 16, mask := lanes, detail := 0, pathid := w.pathIdx (lowest lanes),
        mapver := (match m.ctx? b.ctx with | some k => k.mapver | none => 0), time := m.clock }
    (m.updLanes q.blk q.warp lanes fun l => { l with run := .ready }).trapEntry q.blk q.warp lanes t
  | _, _ => m

/-- R93: the paths that wait on a request trap, in path order. -/
def Mach.coreTrap (m : Mach) (c i : Nat) (q : AllocReq) (cause sub : Nat) : Mach :=
  match m.warp? q.blk q.warp with
  | none => m
  | some w =>
    let waits : Mask := maskOf fun l => match (w.lane l).run with | .alloc => true | .fill => true | _ => false
    (w.paths.map fun p => p.lanes &&& q.lanes &&& w.liveLanes &&& waits).foldl
      (fun (m : Mach) lanes => if lanes = 0 then m else m.coreTrapPath c i q cause sub lanes) m

/-- R93, R435: the next path blocked in GROW that can never be granted traps CLAIMDL; a grant pass follows the last. -/
def Mach.claimNext (m : Mach) (c i : Nat) : Mach :=
  match ((m.core c).bank i).claims with
  | [] => m
  | p :: rest =>
    if m.clock < p.1 then m
    else
      let m1 := (m.updBank c i fun k => { k with claims := rest }).coreTrap c i p.2 0x0A 0
      if rest.isEmpty then m1.grants c i else m1

/-- R93: nothing can be spilled: each path blocked in GROW traps CLAIMDL, its request out of the queue at once, or the head request's paths trap FRAME; then a grant pass. DESIGN CHOICE (log entry 90): the CLAIMDL traps are taken in queue order, one in each cycle; R435 says only that their TIMEs differ. -/
def Mach.cellarStuck (m : Mach) (c i : Nat) : Mach :=
  let qs := ((m.core c).bank i).queue
  let grows := qs.filter fun q => q.kind == 2
  match grows, qs with
  | _ :: _, _ =>
    Mach.claimNext (m.updBank c i fun k =>
      { k with queue := k.queue.filter fun q => q.kind != 2, cellar := false, claims := grows.zipIdx.map fun p => (m.clock + p.2, p.1) }) c i
  | [], q :: rest => ((m.updBank c i fun k => { k with queue := rest, cellar := false }).coreTrap c i q 0x0B 5).grants c i
  | [], [] => (m.updBank c i fun k => { k with cellar := false }).grants c i

/-- R91: the Cellar, not yet stopped by a grant, goes on: it stops when no request waits, spills a frame, or finds none. -/
def Mach.cellarNext (m : Mach) (c i : Nat) : Mach :=
  if !((m.core c).bank i).cellar then m
  else
    match ((m.core c).bank i).queue with
    | [] => m.updBank c i fun k => { k with cellar := false, spill := none }
    | q :: _ =>
      if q.lines ≤ m.freeLines c i then m.grants c i
      else
        match m.spillChoice c with
        | some f => m.updBank c i fun k => { k with spill := some f }
        | none => (m.updBank c i fun k => { k with spill := none }).cellarStuck c i

/-- R91, R93, R95: is a CLAIMDL trap due on a core, have the Cellar's conditions held for 64 cycles, or was its transfer abandoned after it had started. -/
def Mach.cellarDue (m : Mach) (c : Nat) : Bool :=
  let k := (m.core c).bank (m.core c).active
  match k.claims with
  | p :: _ => decide (p.1 ≤ m.clock)
  | [] => if k.cellar then k.spill.isNone else match k.since with | some t => decide (t + 64 ≤ m.clock) | none => false

/-- CELLAR_START, R91, R93. -/
def Mach.cellarStart (m : Mach) (c : Nat) : Mach :=
  if !m.cellarDue c then m
  else
    let i := (m.core c).active
    if ((m.core c).bank i).claims.isEmpty then (m.updBank c i fun k => { k with cellar := true, since := none }).cellarNext c i
    else m.claimNext c i

def execCellarStart (core : Nat) (s : State) : Host.Outcome State Fault Refusal := s.event fun m => m.cellarStart core

/-- R87: the Cellar slots of a frame's live members: check them in the lanes' names, and answer the page entries when all are there. -/
def Mach.slotsOpen (m : Mach) (b : Block) (w : Warp) (f : Frame) (n : Need) : Mach × Option (List PteRef) :=
  let ts := (lanesOf (f.members &&& w.liveLanes)).map fun l =>
    let va := m.localVa b w l (0x400 + 512 * f.level)
    (va, 512, m.translate b.ctx va n)
  match beyond (ts.map fun t => t.1), m.trFault false ts with
  | some va, _ => (m.killGrid b.grid (Mach.blockLog b 0x07 4 0 (some w.num) (some va) none none 0) none, none)
  | none, none => (m, some ((trPtes n.w ts).map fun p => p.1))
  | none, some (va, none) => ((m.addFault b.die b.ctx va 32 b.die false).1, none)
  | none, some (va, some (sub, pa)) => (m.killGrid b.grid (Mach.blockLog b 0x06 sub 0 (some w.num) (some va) pa none 0) none, none)

/-- R87: where the Cellar slots of a frame's live members lie, as (lane, virtual address). -/
def Mach.slotVas (m : Mach) (b : Block) (w : Warp) (f : Frame) : List (Nat × Nat) :=
  (lanesOf (f.members &&& w.liveLanes)).map fun l => (l, m.localVa b w l (0x400 + 512 * f.level))

/-- R87: where those slots are mapped now, as (lane, key). -/
def Mach.slotKeys (m : Mach) (b : Block) (w : Warp) (f : Frame) : List (Nat × Nat) :=
  (m.slotVas b w f).filterMap fun p => (m.slotKey b.ctx p.2).map fun k => (p.1, k)

/-- R82: a spill is made after the warp's earlier stores to its slots: those the block's buffer still holds are overwritten. -/
def Block.dropUnder (b : Block) (slots : List (Nat × Nat)) : Block :=
  let under (c : Host.Cell) : Bool := slots.any fun p => inSlot p.2 c.1
  { b with sb := b.sb.filterMap fun e =>
      if e.cells.any under then (if e.cells.all under then none else some { e with cells := e.cells.filter fun c => !under c }) else some e }

/-- R82: is a store of the block to a slot on ch0 or an ST.rel's still to perform. -/
def Mach.slotBusy (m : Mach) (b : Block) (slots : List (Nat × Nat)) : Bool :=
  slots.any fun p => m.inFlight b p.2 512 || (b.chan 0).queue.any (fun e => e.op.storesIn p.2 512) ||
    b.rels.any fun r => r.cells.any fun c => inSlot p.2 c.1

/-- R82, R91: must the spill under way on a core wait for earlier stores to its frame's slots. -/
def Mach.spillWaits (m : Mach) (k : Bank) : Bool :=
  match k.spill with
  | none => false
  | some (id, w, fid) =>
    match m.block? id, (m.warp? id w).bind fun x => (x.frame? fid).map fun f => (x, f) with
    | some b, some (x, f) => m.slotBusy b (m.slotKeys b x f)
    | _, _ => false

/-- R87, R91: the Cellar slots of a frame of a context take what the device writes there, in its private format (log entry 12). -/
def Mach.slotsWritten (m : Mach) (ctx : Nat) (slots : List (Nat × Nat)) : Mach :=
  let n := m.drawAt ctx
  let put (m : Mach) (p : Nat × Nat) : Mach :=
    m.putCells (((Config.privateCells n.1 (n.2 + p.1)).filter fun q => q.1 < 512).map fun q => (p.2 + q.1, q.2))
  (slots.foldl put m).drew ctx 64

/-- CELLAR_SPILL_COMPLETE, R91: the frame is in its slots, its lines are credited, and the Cellar goes on; a frame that is no longer spillable stays where it is. -/
def Mach.spillDone (m : Mach) (c : Nat) : Mach :=
  let i := (m.core c).active
  match ((m.core c).bank i).spill with
  | none => m
  | some (id, w, fid) =>
    match m.block? id, (m.warp? id w).bind fun x => (x.frame? fid).map fun f => (x, f) with
    | some b, some (x, f) =>
      if !x.spillable f then (m.updBank c i fun k => { k with spill := none }).cellarNext c i
      else if m.spillWaits ((m.core c).bank i) then m
      else
      let r := m.slotsOpen b x f { r := false, w := true, x := false }
      (match r.2 with
       | none => r.1
       | some ptes =>
         let slots := r.1.slotKeys b x f
         let m1 := ((ptes.foldl (fun m p => m.touch p true) r.1).updBlock id fun b => b.dropUnder slots).slotsWritten b.ctx slots
         let m2 := m1.updWarp id w fun x => x.updFrame fid fun f => { f with resident := false, slots := r.1.slotVas b x f, clob := 0 }
         ((m2.updBank c i fun k => { k with spill := none }).grants c i).cellarNext c i)
    | _, _ => (m.updBank c i fun k => { k with spill := none }).cellarNext c i

def execCellarSpillComplete (core : Nat) (s : State) : Host.Outcome State Fault Refusal := s.event fun m => m.spillDone core

/-- R87, R92: the registers a fill restores. -/
def Frame.filled (f : Frame) (W ctx n : Nat) : Frame :=
  { f with resident := true, slots := [], clob := 0,
           regs := if f.clob = 0 then f.regs else (List.range f.size).map fun i => freeReg W ctx (n + 64 * i) }

/-- CELLAR_FILL_COMPLETE, R92: the oldest granted fill restores its frame, and the lanes that waited for it are ready. -/
def Mach.fillDone (m : Mach) (c : Nat) : Mach :=
  let i := (m.core c).active
  match ((m.core c).bank i).fills with
  | [] => m
  | q :: rest =>
    let id := q.blk
    let w := q.warp
    let fid := q.fid
    match m.block? id, (m.warp? id w).bind fun x => (x.frame? fid).map fun f => (x, f) with
    | some b, some (x, f) =>
      let r := m.slotsOpen b x f { r := true, w := false, x := false }
      (match r.2 with
       | none => r.1
       | some ptes =>
         let m1 := ptes.foldl (fun m p => m.touch p false) r.1
         let m2 := m1.updWarp id w fun x =>
           let y := x.both fun x => x.updFrame fid fun f => f.filled b.width (m.drawAt b.ctx).1 (m.drawAt b.ctx).2
           { y with lanes := y.lanes.map fun l => if l.run == .fill && l.fid == fid then { l with run := .ready } else l }
         (m2.updBank c i fun k => { k with fills := rest }).drew b.ctx (if f.clob = 0 then 0 else 64 * f.size))
    | _, _ => m.updBank c i fun k => { k with fills := rest }

def execCellarFillComplete (core : Nat) (s : State) : Host.Outcome State Fault Refusal := s.event fun m => m.fillDone core

/-- R293: the answer of a record: none while it is pending. A record no longer held was answered and not refused. -/
def Mach.answerOf (m : Mach) (die seq : Nat) : Option Bool :=
  match m.faults.find? fun f => f.die == die && f.seq == seq with
  | some f => f.answer
  | none => some false

/-- R293: is every record of a parked sub-warp answered. -/
def Mach.replayDue (m : Mach) (r : Run) : Bool :=
  match r with
  | .parked _ recs => recs.all fun q => (m.answerOf q.die q.seq).isSome
  | _ => false

/-- R293, R450: answered records that no parked lane and no command waits on are forgotten. -/
def Mach.forgetFaults (m : Mach) : Mach :=
  let names (die seq : Nat) (l : Lane) : Bool :=
    match l.run with
    | .parked _ recs => recs.any fun r => r.die == die && r.seq == seq
    | _ => false
  { m with faults := m.faults.filter fun f =>
      f.answer.isNone || m.cmds.any (fun c => c.wait.contains (f.die, f.seq)) || m.blocks.any fun b => b.warps.any fun w => w.lanes.any fun l => names f.die f.seq l }

/-- R294: the address a lane met whose record was refused. -/
def Mach.refusedAt (m : Mach) (recs : List PageWait) (lane : Nat) : Option Nat :=
  recs.findSome? fun r => if r.lane == lane && m.answerOf r.die r.seq == some true then some r.va else none

/-- R293, R294: a sub-warp replays its instruction; lanes whose record was refused trap PROT, sub-cause 0x08. -/
def Mach.replayWord (m : Mach) (b : Block) (w : Warp) (path : Mask) (recs : List PageWait) : Mach :=
  let refused : Mask := maskOf fun l => path.getLsbD l && (m.refusedAt recs l).isSome
  let m1 := m.updLanes b.id w.num path fun l => { l with run := .ready }
  if refused = 0 then m1
  else
    let va := (m.refusedAt recs (lowest refused)).getD 0
    let pc := (w.lane (lowest refused)).pc
    let g := m.trapWord b pc fun _ => true
    let t : Trap :=
      { cause := 0x06, sub := 8, commit := false, second := false, pc := g.2.2, rpc := pc, group := pc, word := g.1, pfx := g.2.1, addr := va,
        mask := refused, detail := refused.toNat, pathid := w.pathIdx (lowest refused),
        mapver := (match m.ctx? b.ctx with | some k => k.mapver | none => 0), time := m.clock }
    ((m1.log (Mach.blockLog b 0x06 8 0 (some w.num) (some va) none (some pc) 0) none).updWarp b.id w.num fun x => x.splitFront refused).trapEntry b.id w.num refused t

/-- R289 step 3, R294: a parked trap frame is written now; a refused record kills the grid with the frame that could not be written. -/
def Mach.replayFrame (m : Mach) (b : Block) (w : Warp) (path : Mask) (t : Trap) (stop : Option Nat) (recs : List PageWait) : Mach :=
  match (lanesOf path).find? fun l => (m.refusedAt recs l).isSome with
  | some l =>
    let r := { killRec b w.num t 0x06 8 1 t.mask.toNat with va := m.refusedAt recs l }
    m.killGrid b.grid r (some (frameBytes t w.num (w.value 0 63 l) (w.reg 0 63).isU))
  | none => m.deliver b.id w.num path t stop

/-- SUBWARP_REPLAY, R293: the parked sub-warp that holds a lane replays once its records are answered. -/
def Mach.subwarpReplay (m : Mach) (blk warp lane : Nat) : Mach :=
  match m.block? blk, m.warp? blk warp with
  | some b, some w =>
    if b.place != .placed || !m.replayDue (w.lane lane).run then m
    else
      let path := w.pathOf lane
      let m1 :=
        match (w.lane lane).run with
        | .parked .replay recs => m.replayWord b w path recs
        | .parked (.frame t) recs => m.replayFrame b w path t none recs
        | .parked (.stopFrame i t) recs => m.replayFrame b w path t (some i) recs
        | _ => m
      m1.forgetFaults
  | _, _ => m

def execSubwarpReplay (blk warp lane : Nat) (s : State) : Host.Outcome State Fault Refusal := s.event fun m => m.subwarpReplay blk warp lane

/-- SOFT_ERROR_DETECTED, R269, R309, R312, R317: what a block consumes when an error is found in its registers, predicates or return entries, in its shadow's comparison, or in a mirrored array. -/
def Mach.softError (m : Mach) (blk warp sub lanes : Nat) : Mach :=
  match m.block? blk with
  | none => m
  | some b =>
    if b.place != .placed then m
    else if sub = 4 then m.consume blk (some warp) 0x10 4 none none none 0
    else if sub = 3 then b.sides.foldl (fun m s => match (m.core s.core).mx with | some r => if r.blk == blk && r.warp == warp then m.mirrorFail s.core else m | none => m) m
    else if b.checked ∧ (sub = 1 ∨ sub = 2) then m.consume blk (some warp) 0x10 sub none none none lanes
    else m

def execSoftErrorDetected (blk warp sub lanes : Nat) (s : State) : Host.Outcome State Fault Refusal :=
  s.event fun m => m.softError blk warp sub lanes

/-- MEMORY_ECC_ERROR, R315: a sector of memory becomes poisoned. -/
def execMemoryEccError (pa : Nat) (s : State) : Host.Outcome State Fault Refusal :=
  s.event fun m => if m.backed pa then m.poisonAll (pa / 2 ^ 36) 6 [pa] else m

/-- R162, R230: a snoop crosses a write-back: the home holds the write-back and the answer at once, and the 1,024-byte line ends invalid in its holder: a stash keeps no older bytes of it, no L1 keeps a poisoned copy of it, and a watch of its sectors sees the invalidation (log entry 20). -/
def Mach.snoopInFlight (m : Mach) (line : Nat) : Mach :=
  let s0 := sectorOf (keyOf m.rmap.pkg (line * 1024))
  let m1 := (List.range 8).foldl (fun m i => m.observe (s0 + i)) (m.dropUndo s0)
  { m1 with l1Bad := m1.l1Bad.filter fun p => p.2 / 8 != s0 / 8 }

/-- SNOOP_WRITEBACK_IN_FLIGHT, R230. -/
def execSnoopWritebackInFlight (line : Nat) (s : State) : Host.Outcome State Fault Refusal := s.event fun m => m.snoopInFlight line

/-- R306: the offsets of saved blocks' records the host writes. -/
def Mach.spoilRecords (m : Mach) (cs : List Host.Cell) : Mach :=
  let hits (b : Block) : List Nat :=
    if b.place != .saved then []
    else
      (List.range 64).flatMap fun i =>
        match m.translate b.ctx (m.recordVa b (65536 * i)) { r := true, w := false, x := false } with
        | .ok k _ _ _ => (cs.filter fun c => plainKey c.1 / 65536 == plainKey k / 65536).map fun c => 65536 * i + plainKey c.1 % 65536
        | _ => []
  { m with blocks := m.blocks.map fun b => { b with spoilt := b.spoilt ++ hits b } }

/-- R195, R315, R321: the host writes bytes: sector by sector, served at the home once device copies are invalidated; its own memory it writes directly. -/
def Mach.hostStore (m : Mach) (pa : Nat) (bs : List Byte) : Mach :=
  let cells := cellsFrom (m.memKey pa) bs
  let secs := ((cells.map fun c => sectorOf c.1)).eraseDups
  (secs.foldl (fun (m : Mach) s => (m.land s (cells.filter fun c => sectorOf c.1 == s)).1) m).spoilRecords cells

/-- HOST_MEM_ACCESS, R13, R195, R321: a read leaves everything as it was; an access to an address that is not backed completes with an error and is logged by its die. -/
def Mach.hostAccess (m : Mach) (write : Bool) (pa len : Nat) (bs : List Byte) : Mach :=
  let ok := hostBase ≤ pa ∨ (m.backed pa ∧ m.backed (pa + len - 1))
  if len = 0 then m
  else if ¬ok then m.log { feLog 0x06 4 none none 0 0 with die := if pa < 2 ^ 39 then pa / 2 ^ 36 else 8, pa := some pa } none
  else if write then m.hostStore pa (padTo len bs)
  else m

def execHostMemAccess (write : Bool) (pa len : Nat) (bytes : List (BitVec 8)) (s : State) : Host.Outcome State Fault Refusal :=
  s.event fun m => m.hostAccess write pa len bytes

end Sys2Proof.Machine
end

