-- ==== Sys2Proof/Machine/Watch.lean ====
section
/-! DEFINITION. What a core watches in every cycle: whether its active context is idle (R282), and whether the Cellar's conditions hold (R91). -/

namespace Sys2Proof.Machine

/-- R282: a path watching a poll, at BAR, or at a phase barrier. -/
def Run.idles (r : Run) : Bool :=
  match r with
  | .watching _ _ _ => true
  | .bar => true
  | .pbwait _ => true
  | _ => false

/-- R91: a path blocked in allocation, GROW or fill, or at a RECONV site. -/
def Run.blocks (r : Run) : Bool :=
  match r with
  | .alloc => true
  | .fill => true
  | .reconv _ => true
  | _ => false

/-- The run states of the paths of the active context on a core, with their blocks. -/
def Mach.activeRuns (m : Mach) (c : Nat) : List (Block × Run) :=
  (m.activeWarps c).flatMap fun p => p.2.paths.map fun q => (p.1, (p.2.lane (lowest q.lanes)).run)

/-- R282: is the active context of a core idle: it has a resident block, and every path of its warps there is in such a state. -/
def Mach.idleNow (m : Mach) (c : Nat) : Bool := !(m.inBank c (m.core c).active).isEmpty && (m.activeRuns c).all fun p => p.2.idles

/-- R91: has a block a lane on a core that is blocked. -/
def Block.blockedOn (b : Block) (c : Nat) : Bool :=
  b.warps.any fun w => (b.side w.side).core == c && (lanesOf w.liveLanes).any fun l => (w.lane l).run.blocks

/-- R91: a lane that cannot go on without an arrival of another lane of its block. -/
def Run.stuck (r : Run) : Bool :=
  match r with
  | .bar => true
  | .pbwait _ => true
  | .reconv _ => true
  | _ => false

/-- R91: can no lane of a block outside a core arrive at a phase barrier before a lane on the core does. -/
def Block.restWaits (b : Block) (c : Nat) : Bool :=
  b.warps.all fun w => (b.side w.side).core == c || (lanesOf w.liveLanes).all fun l => (w.lane l).run.stuck

/-- R91: do the Cellar's conditions hold on a core. -/
def Mach.cellarNeeded (m : Mach) (c : Nat) : Bool :=
  let i := (m.core c).active
  (match ((m.core c).bank i).queue with
   | [] => false
   | q :: _ => decide (m.freeLines c i < q.lines)) &&
  (m.activeRuns c).all fun p =>
    p.2.blocks || (match p.2 with
      | .bar => p.1.blockedOn c
      | .pbwait _ => p.1.blockedOn c && p.1.restWaits c
      | _ => false)

/-- The first cycle of a condition that holds now. -/
def since (holds : Bool) (old : Option Nat) (clock : Nat) : Option Nat := if holds then some (old.getD clock) else none

/-- R91, R282: the watch of one core, as a cycle has ended: what holds now has held since that cycle. DESIGN CHOICE (log entry 91): the cycles a context spends in the Anteroom count too, since a bank keeps its first cycle over a swap; R91 does not say. -/
def Mach.watchCore (m : Mach) (c : Nat) : Mach :=
  let k := m.core c
  let idle := since (m.idleNow c) k.idle (m.clock - 1)
  let cell := since (m.cellarNeeded c) (k.bank k.active).since (m.clock - 1)
  m.updCore c fun k => { k with idle := idle, banks := modAt k.banks k.active fun b => { b with since := cell } }

/-- R91, R282: the watch of every core that holds a block. -/
def Mach.watch (m : Mach) : Mach := m.busyCores.foldl Mach.watchCore m

end Sys2Proof.Machine
end

