-- ==== Sys2Proof/Machine/Cycle.lean ====
section
/-! DEFINITION. One step of the machine (log entry 2): the next scheduled event, else a second path's group, else an issue, an internal event or an idle cycle. The meaning of an instruction comes in as `ex`. -/

namespace Sys2Proof.Machine

/-- R103, R308: the words of a group in slot order, each with its shadow's; a trap, a stall or a stop ends the group, and a wait is left behind by the group's end (R101). -/
def runWords (ex : Meaning) : List GWord → State → Host.Outcome State Fault Refusal
  | [], s => .next s
  | g :: gs, s =>
    match shadowed ex g (s.atWord g) (ex g.instr (s.atWord g)) with
    | .next t => if t.iss.isSome then runWords ex gs t else .next t
    | o => o

/-- One path's issue from its offer; a group a word of which has to wait leaves its wait only (R101). -/
def State.issue (ex : Meaning) (s : State) (b : Block) (w : Warp) (p : Path) (o : Offer) (second : Bool) : Host.Outcome State Fault Refusal :=
  match s.m.start b w p o second with
  | .done m => .next (State.finish { s with m := m } b.id w.num)
  | .run m i ws =>
    match runWords ex ws { s with m := m, iss := some i } with
    | .next t =>
      .next (match t.iss.bind fun k => k.wait with
        | some m1 => State.finish { t with m := m1 } b.id w.num
        | none => (t.recorded i ws).finish b.id w.num)
    | o => o

/-- R16, R27, R50, R274, R281: the cycle ends: ages and the cores' sets are brought up to date, the map image follows the map, Favos goes on, the clock goes on, and the cores watch what they watch (log entry 3). -/
def State.tick (gate : Gate) (s : State) : State :=
  let m1 := (s.m.giveAway gate).endFront.balanceAll gate
  { s with m := Mach.watch { m1.publish.favos.fabricTick with clock := m1.clock + 1 } }

/-- Apply a change to the state an outcome holds. -/
def onNext (o : Host.Outcome State Fault Refusal) (f : State → State) : Host.Outcome State Fault Refusal :=
  match o with
  | .next t => .next (f t)
  | o => o

/-- Paths whose group found no room try again (R203, R284). -/
def Mach.unstall (m : Mach) : Mach :=
  let go (l : Lane) : Lane := if l.run == .stall then { l with run := .ready } else l
  { m with blocks := m.blocks.map fun b => { b with warps := b.warps.map fun w => { w with lanes := w.lanes.map go } } }

/-- The scheduled events, or the machine's own, act between instructions. -/
def State.happen (ex : Meaning) (s : State) (e : Instr) : Host.Outcome State Fault Refusal :=
  onNext (ex e { s with iss := none }) fun t => { t with m := t.m.unstall.regroup, iss := none }

/-- R48, R49: the second path's group of the same cycle, if it still can issue. DESIGN CHOICE (log entry 72): R104 says when words of later cycles and of the same group see a short write, and not whether the other group of the cycle does; here the second path reads what the first path's group wrote (the paths share no lane; it concerns register tags, valid counts and TCTL), but FPMODE as the cycle began (R128). -/
def State.issueSecond (ex : Meaning) (gate : Gate) (s : State) (id w : Nat) (lanes : Mask) : Host.Outcome State Fault Refusal :=
  let s1 : State := { s with m := { s.m with front := s.m.front.map fun f => { f with second := none } } }
  match s.m.block? id, s.m.warp? id w with
  | some b, some x =>
    (match (s.m.offers gate b x).find? fun p => p.1.lanes == lanes with
     | some p => onNext (s1.issue ex b x p.1 p.2 true) (State.tick gate)
     | none => .next (s1.tick gate))
  | _, _ => .next (s1.tick gate)

/-- The second path of a cycle under way: block, warp and lanes. -/
def Front.under (f : Front) : Option (Nat × Nat × Mask) := f.second.map fun q => (f.blk, f.warp, q)

/-- The issue a core has chosen, as its cycle begins. -/
def Pick.front (p : Pick) : Front :=
  { blk := p.b.id, warp := p.w.num, ready := p.ready, issued := [], second := p.second.map fun q => q.1.lanes, fpmode := p.w.fpmode,
    smode := match p.w.shadow with | some sh => sh.fpmode | none => p.w.fpmode }

/-- A chosen issue: the first path, with the second left for the next step of the same cycle. -/
def State.issuePick (ex : Meaning) (gate : Gate) (s : State) (p : Pick) : Host.Outcome State Fault Refusal :=
  let o := State.issue ex { s with m := { p.m with front := some p.front } } p.b p.w p.first.1 p.first.2 false
  match p.second with
  | none => onNext o (State.tick gate)
  | some _ => o

/-- The event of the machine's own that comes next: the enabled ones in turn by the clock (log entry 2). -/
def turn (es : List Instr) (clock : Nat) : Option Instr := es[clock / 2 % max 1 es.length]?

/-- An event of the machine's own, or none, in this cycle. -/
def State.internal (ex : Meaning) (gate : Gate) (s : State) (e : Option Instr) (rest : Host.Outcome State Fault Refusal) : Host.Outcome State Fault Refusal :=
  match e with
  | some e => onNext (s.happen ex e) (State.tick gate)
  | none => rest

/-- The cycle's choice: on even cycles an issue comes before the machine's own events, on odd ones after them. -/
def State.choose (ex : Meaning) (gate : Gate) (own : Mach → List Instr) (s : State) : Host.Outcome State Fault Refusal :=
  if s.m.clock % 2 = 0 then
    match s.m.pick gate with
    | some p => s.issuePick ex gate p
    | none =>
      let s1 : State := { s with m := s.m.unpicked gate }
      s1.internal ex gate (turn (own s1.m) s1.m.clock) (.next (s1.tick gate))
  else
    s.internal ex gate (turn (own s.m) s.m.clock)
      (match s.m.pick gate with
       | some p => s.issuePick ex gate p
       | none => .next (State.tick gate { s with m := s.m.unpicked gate }))

/-- One step: the second path of a cycle under way; else the next scheduled event; else an event that is due in this cycle; else the cycle's choice. Only the last takes a cycle. -/
def State.cycle (ex : Meaning) (gate : Gate) (due : Mach → Option Instr) (own : Mach → List Instr) (s : State) : Host.Outcome State Fault Refusal :=
  match s.m.front.bind Front.under with
  | some (id, w, lanes) => s.issueSecond ex gate id w lanes
  | none =>
    match s.inputs with
    | e :: rest => State.happen ex { s with inputs := rest } e
    | [] =>
      match due s.m with
      | some e => s.happen ex e
      | none => s.choose ex gate own

end Sys2Proof.Machine
end

