-- ==== Sys2Proof/Machine/Alu.lean ====
section
/-! DEFINITION. Integer arithmetic, logic, shifts, bit fields and moves (R337, R342, R343, R372 to R376, R382, R387, R404, R408, R412). -/

namespace Sys2Proof.Machine

/-- R372: the exact sum or difference, saturated or wrapped. -/
def addSat (sub uns : Bool) (x y : Word) : Word :=
  let v (w : Word) : Int := if uns then (w.toNat : Int) else w.toInt
  let t := if sub then v x - v y else v x + v y
  BitVec.ofNat 32 (if uns then satN32 t else satI32 t)

/-- R372: IADD and ISUB with their payload. -/
def Cx.addSub (c : Cx) (d a b : BitVec 6) (m sub : Bool) (pf : Option (BitVec 23)) : State :=
  let x := c.reg a.toNat
  let y := c.opB b m
  let r := if pfBit pf 0 then c.map2 d x y (addSat sub (pfBit pf 1))
    else c.short d.toNat (RVal.addLike c.W (if sub then fun p q => p - q else fun p q => p + q) x y)
  r.s

/-- IADD, R372. -/
def execIadd (h : Hdr) (d a b : BitVec 6) (m : Bool) (pf : Option (BitVec 23)) (s : State) : Host.Outcome State Fault Refusal :=
  s.word h ([d.toNat, a.toNat] ++ regsB b m) fun c => c.addSub d a b m false pf

/-- ISUB, R372. -/
def execIsub (h : Hdr) (d a b : BitVec 6) (m : Bool) (pf : Option (BitVec 23)) (s : State) : Host.Outcome State Fault Refusal :=
  s.word h ([d.toNat, a.toNat] ++ regsB b m) fun c => c.addSub d a b m true pf

/-- R372: IADDI's immediate: 7 bits, or 30 with a PFX, sign-extended. -/
def addImm (i : BitVec 7) (pf : Option (BitVec 23)) : Word :=
  match pf with
  | some p => (p ++ i : BitVec 30).signExtend 32
  | none => i.signExtend 32

/-- IADDI, R372. -/
def execIaddi (h : Hdr) (d a : BitVec 6) (i : BitVec 7) (pf : Option (BitVec 23)) (s : State) : Host.Outcome State Fault Refusal :=
  s.word h [d.toNat, a.toNat] fun c =>
    (c.short d.toNat (RVal.addLike c.W (fun p q => p + q) (c.reg a.toNat) (.u (addImm i pf)))).s

/-- IMUL, R374. -/
def execImul (h : Hdr) (d a b : BitVec 6) (m : Bool) (s : State) : Host.Outcome State Fault Refusal :=
  s.word h ([d.toNat, a.toNat] ++ regsB b m) fun c => (c.short d.toNat (RVal.mulLike c.W (c.reg a.toNat) (c.opB b m))).s

/-- R374: the high half of the exact product. -/
def mulHigh (uns : Bool) (x y : Word) : Word :=
  let v (w : Word) : Int := if uns then (w.toNat : Int) else w.toInt
  BitVec.ofInt 32 (v x * v y / 2 ^ 32)

/-- IMULH, R374. -/
def execImulh (h : Hdr) (d a b : BitVec 6) (m : Bool) (pf : Option (BitVec 23)) (s : State) : Host.Outcome State Fault Refusal :=
  s.word h ([d.toNat, a.toNat] ++ regsB b m) fun c => (c.map2 d (c.reg a.toNat) (c.opB b m) (mulHigh (pfBit pf 1))).s

/-- IMAD, R374. -/
def execImad (h : Hdr) (d a b : BitVec 6) (m : Bool) (pf : Option (BitVec 23)) (s : State) : Host.Outcome State Fault Refusal :=
  s.word h ([d.toNat, a.toNat, thirdReg pf d] ++ regsB b m) fun c =>
    (c.short d.toNat (RVal.addLike c.W (fun p q => p + q) (RVal.mulLike c.W (c.reg a.toNat) (c.opB b m)) (c.reg (thirdReg pf d)))).s

/-- R375: the smaller or larger of two words. -/
def minMaxWord (max uns : Bool) (x y : Word) : Word :=
  let less : Bool := if uns then decide (x.toNat < y.toNat) else decide (x.toInt < y.toInt)
  if less != max then x else y

/-- IMIN, R375. -/
def execImin (h : Hdr) (d a b : BitVec 6) (m : Bool) (pf : Option (BitVec 23)) (s : State) : Host.Outcome State Fault Refusal :=
  s.word h ([d.toNat, a.toNat] ++ regsB b m) fun c => (c.map2 d (c.reg a.toNat) (c.opB b m) (minMaxWord false (pfBit pf 1))).s

/-- IMAX, R375. -/
def execImax (h : Hdr) (d a b : BitVec 6) (m : Bool) (pf : Option (BitVec 23)) (s : State) : Host.Outcome State Fault Refusal :=
  s.word h ([d.toNat, a.toNat] ++ regsB b m) fun c => (c.map2 d (c.reg a.toNat) (c.opB b m) (minMaxWord true (pfBit pf 1))).s

/-- R373: the 32-bit second operand of a 64-bit sum: sign-extended, or the immediate. -/
def wideB (m : Bool) (y : Word) : BitVec 64 := if m then y.setWidth 64 else y.signExtend 64

/-- IADDW, R373. -/
def execIaddw (h : Hdr) (d a b : BitVec 6) (m : Bool) (s : State) : Host.Outcome State Fault Refusal :=
  s.word h (pairRegs d ++ pairRegs a ++ regsB b m) fun c =>
    (c.short64 d (c.pairSrc a ++ [c.opB b m]) fun l => c.pair a.toNat l + wideB m ((c.opB b m).get l)).s

/-- ISUBW, R373. -/
def execIsubw (h : Hdr) (d a b : BitVec 6) (m : Bool) (s : State) : Host.Outcome State Fault Refusal :=
  s.word h (pairRegs d ++ pairRegs a ++ regsB b m) fun c =>
    (c.short64 d (c.pairSrc a ++ [c.opB b m]) fun l => c.pair a.toNat l - wideB m ((c.opB b m).get l)).s

/-- SHLW, R412. -/
def execShlw (h : Hdr) (d a b : BitVec 6) (m : Bool) (s : State) : Host.Outcome State Fault Refusal :=
  s.word h (pairRegs d ++ pairRegs a ++ regsB b m) fun c =>
    (c.short64 d (c.pairSrc a ++ [c.opB b m]) fun l =>
      let n := ((c.opB b m).get l).toNat
      if 64 ≤ n then 0 else c.pair a.toNat l <<< n).s

/-- ISETP, R376. -/
def execIsetp (h : Hdr) (p k : BitVec 3) (a b : BitVec 6) (m : Bool) (pf : Option (BitVec 23)) (s : State) : Host.Outcome State Fault Refusal :=
  s.word h ([a.toNat] ++ regsB b m) fun c =>
    let v (w : Word) : Int := if pfBit pf 1 then (w.toNat : Int) else w.toInt
    (c.shortPred p.toNat (maskOf fun l => intCompare k.toNat (v (c.val a.toNat l)) (v ((c.opB b m).get l)))).s

/-- ISETPW, R376. -/
def execIsetpw (h : Hdr) (p k : BitVec 3) (a b : BitVec 6) (m : Bool) (pf : Option (BitVec 23)) (s : State) : Host.Outcome State Fault Refusal :=
  s.word h (pairRegs a ++ pairB b m) fun c =>
    let v (w : BitVec 64) : Int := if pfBit pf 1 then (w.toNat : Int) else w.toInt
    (c.shortPred p.toNat (maskOf fun l => intCompare k.toNat (v (c.pair a.toNat l)) (v (c.pairOpB b m l)))).s

/-- AND, R337. -/
def execAnd (h : Hdr) (d a b : BitVec 6) (m : Bool) (s : State) : Host.Outcome State Fault Refusal :=
  s.word h ([d.toNat, a.toNat] ++ regsB b m) fun c => (c.map2 d (c.reg a.toNat) (c.opB b m) fun x y => x &&& y).s

/-- OR, R337. -/
def execOr (h : Hdr) (d a b : BitVec 6) (m : Bool) (s : State) : Host.Outcome State Fault Refusal :=
  s.word h ([d.toNat, a.toNat] ++ regsB b m) fun c => (c.map2 d (c.reg a.toNat) (c.opB b m) fun x y => x ||| y).s

/-- XOR, R337. -/
def execXor (h : Hdr) (d a b : BitVec 6) (m : Bool) (s : State) : Host.Outcome State Fault Refusal :=
  s.word h ([d.toNat, a.toNat] ++ regsB b m) fun c => (c.map2 d (c.reg a.toNat) (c.opB b m) fun x y => x ^^^ y).s

/-- R382: each result bit is the truth-table bit a + 2b + 4c. -/
def lop3Word (tt : Nat) (x y z : Word) : Word :=
  let bits (p q r : Bool) (w : Word) : Word := if tt.testBit ((if p then 1 else 0) + (if q then 2 else 0) + (if r then 4 else 0)) then w else 0
  let sel (p : Bool) (w : Word) : Word := if p then w else ~~~w
  [(false, false, false), (true, false, false), (false, true, false), (true, true, false),
   (false, false, true), (true, false, true), (false, true, true), (true, true, true)].foldl
    (fun acc t => acc ||| bits t.1 t.2.1 t.2.2 (sel t.1 x &&& sel t.2.1 y &&& sel t.2.2 z)) 0

/-- LOP3, R382. -/
def execLop3 (h : Hdr) (d a b : BitVec 6) (m : Bool) (pf : Option (BitVec 23)) (s : State) : Host.Outcome State Fault Refusal :=
  s.word h ([d.toNat, a.toNat, pfField pf 8 6] ++ regsB b m) fun c =>
    let x := c.reg a.toNat
    let y := c.opB b m
    let z := c.reg (pfField pf 8 6)
    (c.short d.toNat (RVal.perLane c.W [x, y, z] fun l => lop3Word (pfField pf 0 8) (x.get l) (y.get l) (z.get l))).s

/-- SHL, R408. -/
def execShl (h : Hdr) (d a b : BitVec 6) (m : Bool) (s : State) : Host.Outcome State Fault Refusal :=
  s.word h ([d.toNat, a.toNat] ++ regsB b m) fun c => (c.short d.toNat (RVal.shlLike c.W (c.reg a.toNat) (c.opB b m))).s

/-- SHR, R408. -/
def execShr (h : Hdr) (d a b : BitVec 6) (m : Bool) (s : State) : Host.Outcome State Fault Refusal :=
  s.word h ([d.toNat, a.toNat] ++ regsB b m) fun c =>
    (c.map2 d (c.reg a.toNat) (c.opB b m) fun x n => if 32 ≤ n.toNat then 0 else x >>> n.toNat).s

/-- SAR, R408. -/
def execSar (h : Hdr) (d a b : BitVec 6) (m : Bool) (s : State) : Host.Outcome State Fault Refusal :=
  s.word h ([d.toNat, a.toNat] ++ regsB b m) fun c =>
    (c.map2 d (c.reg a.toNat) (c.opB b m) fun x n => x.sshiftRight (min n.toNat 31)).s

/-- R404: rotate left by the count modulo 32. -/
def rotWord (x n : Word) : Word := x.rotateLeft (n.toNat % 32)

/-- ROT, R404. -/
def execRot (h : Hdr) (d a b : BitVec 6) (m : Bool) (s : State) : Host.Outcome State Fault Refusal :=
  s.word h ([d.toNat, a.toNat] ++ regsB b m) fun c => (c.map2 d (c.reg a.toNat) (c.opB b m) rotWord).s

/-- R343: the number of 1 bits. -/
def popcWord (x : Word) : Word := BitVec.ofNat 32 ((List.range 32).countP fun i => x.getLsbD i)

/-- R343: the number of 0 bits above the highest 1 bit. -/
def clzWord (x : Word) : Word := BitVec.ofNat 32 (32 - bitLen x.toNat)

/-- R343: bit i takes bit 31 - i. -/
def brevWord (x : Word) : Word := (List.range 32).foldl (fun k i => if x.getLsbD (31 - i) then k ||| BitVec.ofNat 32 (2 ^ i) else k) 0

/-- POPC, R343. -/
def execPopc (h : Hdr) (d a : BitVec 6) (s : State) : Host.Outcome State Fault Refusal :=
  s.word h [d.toNat, a.toNat] fun c => (c.map1 d (c.reg a.toNat) popcWord).s

/-- CLZ, R343. -/
def execClz (h : Hdr) (d a : BitVec 6) (s : State) : Host.Outcome State Fault Refusal :=
  s.word h [d.toNat, a.toNat] fun c => (c.map1 d (c.reg a.toNat) clzWord).s

/-- BREV, R343. -/
def execBrev (h : Hdr) (d a : BitVec 6) (s : State) : Host.Outcome State Fault Refusal :=
  s.word h [d.toNat, a.toNat] fun c => (c.map1 d (c.reg a.toNat) brevWord).s

/-- R342: position and effective width of a control word. -/
def fieldOf (k : Word) : Nat × Nat :=
  let p := (k.extractLsb' 0 8).toNat
  let w := (k.extractLsb' 8 8).toNat
  (p, if 32 ≤ p then 0 else min w (32 - p))

/-- R342: BFX. -/
def bfxWord (sign : Bool) (x k : Word) : Word :=
  let f := fieldOf k
  let v := x.toNat / 2 ^ f.1 % 2 ^ f.2
  if f.2 = 0 then 0 else if sign then BitVec.ofNat 32 (wrap 32 (signed f.2 v)) else BitVec.ofNat 32 v

/-- R342: BFI. -/
def bfiWord (x k old : Word) : Word :=
  let f := fieldOf k
  let mask : Word := BitVec.ofNat 32 (if f.2 = 0 then 0 else (2 ^ f.2 - 1) * 2 ^ f.1)
  (old &&& ~~~mask) ||| ((x <<< f.1) &&& mask)

/-- BFX, R342. -/
def execBfx (h : Hdr) (d a b : BitVec 6) (m : Bool) (s : State) : Host.Outcome State Fault Refusal :=
  s.word h [d.toNat, a.toNat, b.toNat] fun c => (c.map2 d (c.reg a.toNat) (c.reg b.toNat) (bfxWord m)).s

/-- BFI, R342. -/
def execBfi (h : Hdr) (d a b : BitVec 6) (pf : Option (BitVec 23)) (s : State) : Host.Outcome State Fault Refusal :=
  s.word h [d.toNat, a.toNat, b.toNat, thirdReg pf d] fun c =>
    let x := c.reg a.toNat
    let k := c.reg b.toNat
    let z := c.reg (thirdReg pf d)
    (c.short d.toNat (RVal.perLane c.W [x, k, z] fun l => bfiWord (x.get l) (k.get l) (z.get l))).s

/-- MOV, R387. -/
def execMov (h : Hdr) (d a : BitVec 6) (s : State) : Host.Outcome State Fault Refusal :=
  s.word h [d.toNat, a.toNat] fun c => (c.short d.toNat (c.reg a.toNat)).s

/-- R387: MOVI's immediate: 13 bits sign-extended, or 32 bits with a PFX. -/
def movImm (i : BitVec 13) (pf : Option (BitVec 23)) : Word :=
  match pf with
  | some p => (p.extractLsb' 0 19 ++ i : BitVec 32)
  | none => i.signExtend 32

/-- MOVI, R387. -/
def execMovi (h : Hdr) (d : BitVec 6) (i : BitVec 13) (pf : Option (BitVec 23)) (s : State) : Host.Outcome State Fault Refusal :=
  s.word h [d.toNat] fun c => (c.short d.toNat (.u (movImm i pf))).s

/-- NOP, R391: no effect. -/
def execNop (h : Hdr) (s : State) : Host.Outcome State Fault Refusal := s.word h [] fun c => c.s

/-- PFX, R397: no effect of its own. -/
def execPfx (_hi : BitVec 4) (_lo : BitVec 19) (s : State) : Host.Outcome State Fault Refusal := .next s

end Sys2Proof.Machine
end

