-- ==== Sys2Proof/Machine/ChanWords.lean ====
section
/-! DEFINITION. Channel words: RLD (R403), RST (R406), RATOM (R399), RRED (R236, R405), CPYR (R349, R350), CHJOIN, CHDRAIN and CHSTAT (R207 to R212). -/

namespace Sys2Proof.Machine

/-- R199: a channel number at or above the block's count traps CHAN. -/
def Cx.withChan (c : Cx) (ch : Nat) (k : State) : State := if c.b.nchan ≤ ch then c.trap 0x0D 1 0 0 else k

/-- RLD, R403. -/
def execRld (h : Hdr) (a : BitVec 5) (r : BitVec 6) (x : BitVec 4) (s : State) : Host.Outcome State Fault Refusal :=
  s.word h (sizeRegs r x.toNat ++ [2 * a.toNat, 2 * a.toNat + 1]) fun c =>
    let n := sizeOf x.toNat
    let rs := c.lanes.map fun l => c.is.base.checkOne c.b.ctx { lane := l, va := (c.pair (2 * a.toNat) l).toNat, size := n, need := needR }
    c.checked rs 1 c.b.die fun c accs =>
      ((c.touched accs false).loadEntry (sizeRegs r x.toNat) x.toNat false false false true (accs.map fun y => y.1)).s

/-- RST, R406: each lane's store joins the channel, merging where R204 allows. -/
def execRst (h : Hdr) (ch : BitVec 4) (a : BitVec 5) (r : BitVec 6) (x : BitVec 4) (s : State) : Host.Outcome State Fault Refusal :=
  s.word h (sizeRegs r x.toNat ++ [2 * a.toNat, 2 * a.toNat + 1]) fun c =>
    let n := sizeOf x.toNat
    c.withChan ch.toNat <|
      c.checked (c.lanes.map fun l => c.is.base.checkOne c.b.ctx { lane := l, va := (c.pair (2 * a.toNat) l).toNat, size := n, need := needW })
        2 c.b.die fun c accs =>
          c.settled (accs.map fun y => y.1) fun c =>
            let c0 := c.upd fun m => m.ch0First c.is.blk ch.toNat
            let put (b : Block) (y : Access) : Block := b.enqueueStore (c.s.m.names c.b) ch.toNat c.s.m.clock y.key y.va (c.dataBytes r.toNat x.toNat y.lane)
            let c1 := (c0.touched accs true).updB fun b => (accs.map fun y => y.1).foldl put b
            if c1.s.m.chanRoom c1.now ch.toNat 0 then c1.s else c.stall

/-- RATOM, R399: each lane's atomic joins the channel; its result is its acknowledgement. -/
def execRatom (h : Hdr) (ch : BitVec 4) (a : BitVec 5) (r : BitVec 6) (x : BitVec 4) (s : State) : Host.Outcome State Fault Refusal :=
  s.word h (atomRegs x.toNat r.toNat ++ [2 * a.toNat, 2 * a.toNat + 1]) fun c =>
    let op := x.toNat
    let check (l : Nat) : LaneRes :=
      match c.is.base.checkOne c.b.ctx { lane := l, va := (c.pair (2 * a.toNat) l).toNat, size := atomSize op, need := { r := true, w := true, x := false } } with
      | .ok y pte nc hb => if (homeOf y.key).2 = 8 then .bad l y.va 0x06 7 (some (keyPa y.key)) else .ok y pte nc hb
      | q => q
    c.withChan ch.toNat <|
      c.checked (c.lanes.map check) 8 c.b.die fun c oks =>
        let accs := c.withOps op r.toNat oks
        c.settled accs fun c =>
          let c0 := c.upd fun m => m.ch0First c.is.blk ch.toNat
          if !c0.s.m.chanRoom c0.now ch.toNat accs.length then c.stall
          else
              let seq := c.nextSeq
              (((c0.touched oks true).updB fun b => b.putAtoms ch.toNat op c.is.warp seq accs).enter
                ((atomDests op r.toNat).map fun d => .reg d c.fid fullBits) (.chan (maskOfAccs accs) accs) [] false []).s

/-- R236: is a slot descriptor bad: a reserved bit, COUNT outside 1 to 64, or TIMEOUT 0. -/
def badSlot (d : BitVec 64) : Bool :=
  let n := d.toNat
  d.getLsbD 31 || n / 2 ^ 22 % 4 != 0 || n / 2 ^ 9 % 128 != 0 || n / 2 ^ 24 % 128 == 0 || decide (64 < n / 2 ^ 24 % 128) ||
    n / 2 ^ 32 % 65536 == 0

/-- RRED, R405: each lane's contribution joins the channel; it has no stream. -/
def execRred (h : Hdr) (ch : BitVec 4) (a : BitVec 5) (r : BitVec 6) (x : BitVec 4) (s : State) : Host.Outcome State Fault Refusal :=
  s.word h (((List.range 4).map fun i => r.toNat + i) ++ [2 * a.toNat, 2 * a.toNat + 1]) fun c =>
    let desc (l : Nat) : BitVec 64 := c.pair (2 * a.toNat) l
    c.withChan ch.toNat <|
      match c.lanes.filter fun l => badSlot (desc l) with
      | l :: ls => c.trap 0x07 8 0 ((l :: ls).foldl (fun k i => k ||| bit i) (0 : Mask)).toNat
      | [] =>
        let c0 := c.upd fun m => m.ch0First c.is.blk ch.toNat
        if !c0.s.m.chanRoom c0.now ch.toNat c.lanes.length then c.stall
        else
            let seq := c.nextSeq
            let put (b : Block) (l : Nat) : Block :=
              b.enqueue ch.toNat (c.s.m.rmap.pkg, 16 + (desc l).toNat / 256 % 2) (.rred x.toNat (desc l) (c.val r.toNat l) c.is.warp seq l) none []
            ((c0.updB fun b => c.lanes.foldl put b).enter ((List.range 4).map fun i => .reg (r.toNat + i) c.fid fullBits) (.chan c.ex []) [] false []).s

/-- CPYR, R350: one copy, numbered on its timeline by the FE (R193); a number that would pass 2^64 is rejected with a record. -/
def execCpyr (h : Hdr) (t a : BitVec 6) (b : BitVec 5) (s : State) : Host.Outcome State Fault Refusal :=
  let q := 2 * b.toNat
  s.word h (pairRegs a ++ [q, q + 1, q + 2, q + 3]) fun c =>
    let src := (c.pair a.toNat c.low).toNat
    let dst := (c.pair q c.low).toNat
    let n := (c.val (q + 2) c.low).toNat
    let ch := (c.val (q + 3) c.low).toNat
    if !c.allU [q + 3] then c.trap 0x03 0 0 0
    else c.withChan ch <|
      if 2 ^ 52 ≤ src then c.trap 0x07 4 src c.ex.toNat
      else if 2 ^ 52 ≤ dst then c.trap 0x07 4 dst c.ex.toNat
      else if n = 0 then c.trap 0x07 7 src c.ex.toNat
      else if src % 16 ≠ 0 || dst % 16 ≠ 0 || n % 16 ≠ 0 then c.trap 0x04 3 (if dst % 16 ≠ 0 && src % 16 = 0 then dst else src) c.ex.toNat
      else
        let look (va : Nat) (w : Bool) : List LaneRes :=
          c.lanes.map fun l => c.is.base.checkOne c.b.ctx { lane := l, va := va, size := 16, need := { r := !w, w := w, x := false } }
        let rsrc := look src false
        let rdst := look dst true
        let gone (rs : List LaneRes) : List (Nat × Nat) := rs.filterMap fun r => match r with | .page l va => some (l, va) | _ => none
        let page := (firstBad (rsrc ++ rdst)).isNone && !((gone rsrc).isEmpty && (gone rdst).isEmpty)
        if page then
          (if (gone rsrc).isEmpty then c.park (gone rdst) 2 c.b.die else (c.park (gone rsrc) 16 c.b.die).parkMore (gone rdst) 2 c.b.die).s
        else c.checked (rsrc ++ rdst) 16 c.b.die fun c accs =>
          match accs with
          | [] => c.s
          | x :: _ =>
            if keyPkg x.1.key ≠ c.s.m.rmap.pkg then c.protTrap 9 src (some (keyPa x.1.key)) c.ex
            else if c.s.m.tlFull c.b.ctx t.toNat then (c.upd fun m => m.log (feLog 0x15 1 (some c.b.ctx) (some c.b.grid) 0 0) none).s
            else c.settled (accs.map fun y => y.1) fun c =>
                let c0 := c.upd fun m => m.ch0First c.is.blk ch
                if !c0.s.m.chanRoom c0.now ch 1 then c.stall
                else
                  let r := c0.s.m.numberTl c.b.ctx t.toNat
                  ((c0.upd fun _ => r.2).updB fun b => b.enqueue ch (homeOf (accs.getLastD x).1.key) (.cpyr src dst n 0 t.toNat r.1) none []).s

/-- CHJOIN, R211. -/
def execChjoin (h : Hdr) (ch k : BitVec 4) (s : State) : Host.Outcome State Fault Refusal :=
  s.word h [] fun c =>
    c.withChan (max ch.toNat k.toNat) <|
      let c1 := c.upd fun m => (m.ch0First c.is.blk ch.toNat).updBlock c.is.blk fun b => b.endHold k.toNat
      if !c1.s.m.chanRoom c1.now ch.toNat 1 then c.stall
      else (c1.updB fun b => (b.enqueue ch.toNat (0, 255) (.join k.toNat (b.chan k.toNat).issued) none []).settleJoins).s

/-- CHDRAIN, R208, R211: the path waits until every operation enqueued before is acknowledged; a latched error then traps CHAN and leaves the latch. -/
def execChdrain (h : Hdr) (ch : BitVec 4) (s : State) : Host.Outcome State Fault Refusal :=
  s.word h [] fun c =>
    c.withChan ch.toNat <|
      match c.s.m.block? c.is.blk with
      | none => c.s
      | some b =>
        let k := b.chan ch.toNat
        if (c.w.lane c.low).run != .drained && !k.ackedUpto k.issued then
          c.waitIn (fun m => m.updBlock c.is.blk fun b => b.endHold ch.toNat) (.chdrain ch.toNat k.issued)
        else
          match k.err with
          | none => c.s
          | some (cause, va, pa) =>
            (c.standing fun m => m.updBlock c.is.blk fun b => b.updChan ch.toNat fun x => { x with err := none }).trap
              0x0D 2 va (cause * 2 ^ 56 + pa)

/-- CHSTAT, R211: sampled as the result arrives. -/
def execChstat (h : Hdr) (ch : BitVec 4) (d : BitVec 6) (s : State) : Host.Outcome State Fault Refusal :=
  s.word h [d.toNat] fun c =>
    c.withChan ch.toNat (c.enter [.reg d.toNat c.fid fullBits] (.sample (0x2000 + ch.toNat)) [] false []).s

end Sys2Proof.Machine
end

