-- ==== Sys2Proof/Machine/Save.lean ====
section
/-! DEFINITION. The shadow-bank swap (R300, R301), saving a block to memory and restoring it (R218 to R222, R302 to R306, R447), the context header (R304), and suspension (R36). -/

namespace Sys2Proof.Machine

/-- R297: kill every grid of a context with one record form. -/
def Mach.killCtx (m : Mach) (ctx : Nat) (r : LogInfo) : Mach :=
  (m.grids.filter fun g => g.ctx == ctx && !g.complete && !g.killed).foldl
    (fun m g => m.killGrid g.num { r with grid := some g.num } none) m

/-- R304: the context header's fields. -/
def Mach.headerBytes (m : Mach) (c : Ctx) : List Byte :=
  leBytes 4 0x41535A53 ++ leBytes 2 0 ++ leBytes 2 1 ++ leBytes 1 c.id ++
    leBytes 1 (if c.killed then 2 else if c.suspMap || c.suspHost then 1 else 0) ++ leBytes 2 c.lslots ++ leBytes 4 c.ackver ++
    leBytes 4 m.rmap.ver

/-- R447: can a context's header be written from a die; a missing page asks the host, another fault kills every grid of the context. -/
def Mach.headerOpen (m : Mach) (die ctx : Nat) : Mach × Bool :=
  match m.ctx? ctx with
  | none => (m, true)
  | some c =>
    match m.areaFault [(c.csabase, 24, m.translate ctx c.csabase { r := false, w := true, x := false })] with
    | none => (m, true)
    | some (va, none) => ((m.addFault die ctx va 128 die false).1, false)
    | some (va, some (cause, sub, pa)) => (m.killCtx ctx { feLog cause sub (some ctx) none 0 0 with die := die, va := some va, pa := pa }, false)

/-- The die whose context spill engine writes a context's header outside a save: that of a block of it, else the lowest live die (log entry 26). -/
def Mach.headerDie (m : Mach) (ctx : Nat) : Nat :=
  match m.blocks.find? fun b => b.ctx == ctx && b.onCores with
  | some b => b.die
  | none => ((List.range 8).find? m.dieLive).getD 0

/-- R304, R447: the context spill engine writes a context's header: with each save of one of its blocks, and as the context is created, suspended, resumed or killed (log entry 26). A missing page asks the host, and the write is owed until the record is answered; another fault kills every grid of the context. -/
def Mach.writeHeader (m : Mach) (ctx : Nat) : Mach :=
  let r := m.headerOpen (m.headerDie ctx) ctx
  match r.1.ctx? ctx with
  | none => m
  | some c =>
    if !r.2 then r.1.updCtx ctx fun c => { c with owes := true }
    else
      match r.1.translate ctx c.csabase { r := false, w := true, x := false } with
      | .ok k pte _ _ => ((r.1.touch pte true).putCells (cellsFrom k (r.1.headerBytes c))).updCtx ctx fun c => { c with owes := false }
      | _ => r.1

/-- R302 step 1: is no MX word of the block, other than a MITER, running on an array. -/
def Mach.mxQuiet (m : Mach) (b : Block) : Bool :=
  b.sides.all fun s => match (m.core s.core).mx with | some r => r.blk != b.id || r.miter | none => true

/-- R218: send what the channels of a block may send, until a round sends nothing; n bounds the rounds. -/
def Mach.sendRounds (m : Mach) (id nchan : Nat) : Nat → Mach
  | 0 => m
  | n + 1 =>
    let queued (m : Mach) : List Nat := match m.block? id with | some b => b.chans.map fun c => c.queue.length | none => []
    let m1 := (List.range nchan).foldl (fun m ch => m.sendAll id ch 4096) m
    if queued m1 == queued m then m1 else Mach.sendRounds m1 id nchan n

/-- R218, R302: what the block still has under way: its copies complete, its released entries become visible, and its channels send what they may. -/
def Mach.quiesce (m : Mach) (id : Nat) : Mach :=
  match m.block? id with
  | none => m
  | some b =>
    let m1 := ((b.copies.map fun q => q.tag).eraseDups).foldl (fun m t => m.copyEnd id t) m
    let seqs := match m1.block? id with | some b => m1.unseen b | none => []
    let m2 := (seqs.foldl (fun m s => m.makeVisible id s) m1).runRels id
    let m3 := (List.range b.nchan).foldl (fun m ch => m.updBlock id fun b => b.endHold ch) m2
    m3.sendRounds id b.nchan (64 * b.nchan)

/-- R79, R95: the frame lines a block's side is charged for on restore. -/
def Block.sideCharge (b : Block) (side : Nat) : Nat :=
  ((b.warps.filter fun w => w.side == side).map fun w => Bank.charged Bank.empty b w).sum

/-- The sub-warps of a block in the parked state (R306). -/
def Block.parkedPaths (b : Block) : Nat :=
  (b.warps.map fun w => (w.paths.filter fun p =>
    match (w.lane (lowest p.lanes)).run with | .parked _ _ => true | .stopped _ => true | _ => false).length).sum

/-- R306: the public fields of a block header. -/
def Mach.blockHeader (m : Mach) (b : Block) (valid : Nat) : List Byte :=
  let s := b.side 0
  let flag (p : Bool) (n : Nat) : Nat := if p then 2 ^ n else 0
  leBytes 1 valid ++
    leBytes 1 (flag b.paired 0 + flag b.checked 1 + flag b.sealed 2 + flag (!b.drained) 3 + flag (b.sides.any fun s => s.eng.mitstat.getLsbD 31) 4) ++
    leBytes 1 b.width ++ leBytes 1 b.warps.length ++ leBytes 4 b.grid ++ leBytes 4 b.bx ++ leBytes 4 b.bY ++ leBytes 4 b.bz ++
    leBytes 1 b.die ++ leBytes 1 (s.core % 20) ++ leBytes 1 s.slot ++ leBytes 1 b.parkedPaths ++ leBytes 4 m.rmap.ver ++
    leBytes 4 (b.sideCharge 0 + b.sideCharge 1) ++ leBytes 8 m.clock ++ leBytes 1 b.ntiles ++ leBytes 1 b.ntags ++ leBytes 1 b.nchan ++
    leBytes 1 b.quota ++ leBytes 4 (128 * b.sb.length) ++ leBytes 8 b.ready.toNat ++
    leBytes 1 (min 64 ((b.sides.flatMap fun s => s.locks).eraseDups.length)) ++ zeros 7

/-- R219: one destination-table entry. -/
def DestEnt.bytes (d : DestEnt) : List Byte :=
  if d.valid then
    leBytes 1 (if d.start then 3 else 1) ++ leBytes 1 d.pkg ++ leBytes 1 d.die ++ zeros 1 ++ leBytes 2 d.next ++ leBytes 2 d.ack ++
      leBytes 4 d.lastUse ++ leBytes 4 d.mark
  else zeros 16

/-- R219: the number of the newest operation enqueued to the destination of an entry. -/
def Mach.newestUse (m : Mach) (b : Block) (c : Chan) (d : DestEnt) : Nat :=
  match (c.queue.filter fun x => x.isOp && !x.isRred && m.names b x (d.pkg, d.die)).getLast? with
  | some x => x.last % 2 ^ 32
  | none => d.lastUse

/-- R219: the public part of a channel record. -/
def Mach.chanRecord (m : Mach) (b : Block) (ch : Nat) : List Byte :=
  let c := b.chan ch
  let e := c.err.getD (0, 0, 0)
  leBytes 1 ch ++ leBytes 1 (m.chanFlags b ch) ++ leBytes 1 (c.dests.filter fun d => d.valid).length ++ leBytes 1 c.queue.length ++
    leBytes 2 (c.sent.filter fun s => s.rred).length ++ zeros 2 ++ leBytes 1 e.1 ++ zeros 7 ++ leBytes 8 e.2.1 ++ leBytes 8 e.2.2 ++
    leBytes 4 c.issued ++ leBytes 4 m.rmap.ver ++ zeros 24 ++ c.dests.flatMap fun d => DestEnt.bytes { d with lastUse := m.newestUse b c d }

/-- R447: can the whole record of a block be reached; a missing page asks the host, another fault kills the grid. -/
def Mach.recordOpen (m : Mach) (b : Block) (n : Need) : Mach × Bool :=
  let pages := (List.range 64).map fun i => (m.recordVa b (65536 * i), 65536)
  match m.areaFault (m.trPieces b.ctx pages n) with
  | none => (m, true)
  | some (va, none) => ((m.addFault b.die b.ctx va 128 b.die false).1, false)
  | some (va, some (cause, sub, pa)) => (m.killGrid b.grid (Mach.blockLog b cause sub 0 none (some va) pa none 0) none, false)

/-- R219, R437: has a channel no join condition and no entry to save: its ENTRIES area is zero. -/
def Chan.vacant (c : Chan) : Bool := c.queue.isEmpty && c.conds.isEmpty

/-- R219, R305, R306: is an offset of a block record in a part whose format is private. -/
def Block.privateOff (b : Block) (o : Nat) : Bool :=
  (0x40 ≤ o && o < 0x1000) || (0x1000 ≤ o && o < 0x1000 + 0x1000 * b.nchan && 0xC0 ≤ o % 0x1000 && !(b.chan ((o - 0x1000) / 0x1000)).vacant) || (0x11000 ≤ o && o < 0x67000) ||
    (0x167000 ≤ o && o < 0x400000)

/-- R305: write a block's record: header, channel records and shared windows; the private parts take what the device writes there (log entry 12). -/
def Mach.writeRecord (m : Mach) (id : Nat) : Mach :=
  match m.block? id with
  | none => m
  | some b =>
    let put (m : Mach) (off : Nat) (bs : List Byte) : Mach := (m.recordWrite id off bs).1
    let m1 := (List.range b.nchan).foldl (fun m ch => put m (0x1000 + 0x1000 * ch) (m.chanRecord b ch ++ if (b.chan ch).vacant then zeros 3904 else [])) m
    let m2 := put m1 0x67000 (b.shared.bytes 0 (b.shsize * b.sides.length))
    let n := m2.drawAt b.ctx
    let own := (Config.privateCells n.1 n.2).filter fun p => b.privateOff p.1
    let m3 := own.foldl (fun m p => put m p.1 [p.2]) (m2.drew b.ctx 1)
    put m3 0 (m3.blockHeader b 1)

/-- R84, R95: a request goes back into its queue by its class and age. -/
def AllocReq.merge (q : AllocReq) : List AllocReq → List AllocReq
  | [] => [q]
  | x :: xs =>
    let before := (q.kind == 0 && x.kind != 0) || ((q.kind == 0) == (x.kind == 0) && decide (q.age < x.age))
    if before then q :: x :: xs else x :: AllocReq.merge q xs

/-- R95: a fill under way as a request again, with its age, for the lanes that wait for it now. -/
def Mach.askAgain (m : Mach) (q : AllocReq) : AllocReq :=
  match m.warp? q.blk q.warp with
  | some w => { q with lanes := maskOf fun l => (w.lane l).fid == q.fid && (w.lane l).run == .fill }
  | none => q

/-- R95: the allocation queue of a bank with what is under way taken back into it. -/
def Mach.fullQueue (m : Mach) (k : Bank) : List AllocReq :=
  ((k.fills.map m.askAgain) ++ k.claims.map fun p => p.2).foldl (fun qs q => q.merge qs) k.queue

/-- R95: the requests of a block, with fills under way taken back to requests. -/
def Mach.requestsOf (m : Mach) (b : Block) : List AllocReq :=
  b.sides.flatMap fun s => (m.fullQueue ((m.core s.core).bank s.bank)).filter fun q => q.blk == b.id

/-- R302 steps 4 to 7: the block is in its record, and its place is free; the local slot is kept. -/
def Mach.stow (m : Mach) (id : Nat) : Mach :=
  match m.block? id with
  | none => m
  | some b =>
    let reqs := m.requestsOf b
    let cellar := b.sides.any fun s => ((m.core s.core).bank s.bank).cellar
    let m1 := ((m.writeRecord id).writeHeader b.ctx).leaveCores b
    let m2 := m1.updBlock id fun b =>
      { b with place := .saved, stopped := false, reqs := reqs, cellar := cellar,
               maps := b.maps.map (fun (p : StashMap) => { p with undo := [] }) }
    b.sides.foldl (fun m s => m.grants s.core s.bank) m2

/-- R302: save a block; answers false while something keeps it: a running MX word, a copy into the block, or a page of its record. -/
def Mach.saveBlock (m : Mach) (id : Nat) : Mach × Bool :=
  match m.block? id with
  | none => (m, true)
  | some b =>
    if b.place == .restoring then (m.unreserve b, true)
    else if b.place != .placed then (m, true)
    else
      let m1 := m.freeze id
      if !m1.mxQuiet b then (m1, false)
      else
        let m2 := m1.quiesce id
        match m2.block? id with
        | none => (m2, true)
        | some b2 =>
          if b2.place != .placed then (m2, true)
          else if !b2.copies.isEmpty then (m2, false)
          else
            let h := m2.headerOpen b2.die b2.ctx
            let r := if h.2 then h.1.recordOpen b2 { r := false, w := true, x := false } else h
            if r.2 then (r.1.stow id, true)
            else
              match r.1.translate b2.ctx (r.1.recordVa b2 0) { r := false, w := true, x := false } with
              | .ok _ _ _ _ => ((r.1.recordWrite id 0 [2]).1, false)
              | _ => (r.1, false)

/-- Is a context suspended, by map events or by the host. -/
def Ctx.suspended (c : Ctx) : Bool := c.suspMap || c.suspHost

/-- CONTEXT_SAVE, R302: a block of a suspended context, or one whose save is under way, is saved. -/
def Mach.contextSave (m : Mach) (id : Nat) : Mach :=
  match m.block? id with
  | none => m
  | some b => if b.stopped || (m.ctx? b.ctx).any Ctx.suspended then (m.saveBlock id).1 else m

def execContextSave (blk : Nat) (s : State) : Host.Outcome State Fault Refusal := s.event fun m => m.contextSave blk

/-- What one side of a saved block asks of a core. -/
def Block.sideAsk (b : Block) (side : Nat) : Ask1 :=
  { warps := (b.warps.filter fun w => w.liveLanes != 0 && w.side == side).length * (if b.checked then 2 else 1), lines := b.sideCharge side,
    window := b.shsize + b.stsize, quota := b.quota, tiles := b.ntiles, tags := b.ntags }

/-- R221, R303: where a saved block may go: anywhere on its die once drained, else the core and slot that saved it. -/
def Mach.restoreSpots (m : Mach) (b : Block) : List Spot :=
  let asks := (b.sideAsk 0, b.sideAsk 1)
  if b.drained then m.spots b.die b.ctx b.paired asks fun _ => false
  else (m.spotAt b.ctx (b.side 0).core b.paired asks).toList

/-- R221: streams begin again: START is set in every valid entry. -/
def DestEnt.restart (d : DestEnt) : DestEnt := if d.valid then { d with start := true, next := 0, ack := 0, retryAt := none } else d

/-- R303: the records a parked lane still waits on: those answered while it was saved; with none left it replays once. -/
def Mach.replayRecs (m : Mach) (l : Lane) : Lane :=
  match l.run with
  | .parked act recs =>
    { l with run := .parked act (recs.filter fun r => m.faults.any fun f => f.die == r.die && f.seq == r.seq && f.answer.isSome) }
  | _ => l

/-- R303, R447: a saved block takes up a place: its banks are its own from now on. -/
def Mach.reserve (m : Mach) (b : Block) (spot : Spot) : Mach :=
  let fresh := b.drained
  let place1 (p : (Nat × Nat × Nat) × Nat) : Side :=
    let s := b.side p.2
    { s with core := p.1.1, bank := p.1.2.1, tagFirst := p.1.2.2, slot := if fresh then m.freeBlockSlot p.1.1 p.1.2.1 else s.slot }
  let sides := spot.zipIdx.map place1
  let m1 := m.updBlock b.id fun b => { b with place := .restoring, stopped := false, sides := sides }
  sides.foldl (fun m s => m.updBank s.core s.bank fun k => { k with ctx := some b.ctx }) m1

/-- R305: the part of a block record an offset lies in: header, channel records, store buffer, tiles, shared windows, bank state. -/
def recordPart (o : Nat) : Nat :=
  if o < 0x1000 then 0 else if o < 0x11000 then 1 else if o < 0x25000 then 2 else if o < 0x67000 then 3 else if o < 0x167000 then 4 else 5

/-- R6: n unspecified bytes of a context from number k on. -/
def freeBytes (ctx k n : Nat) : List Byte := (List.range n).map fun i => (Config.freeWord ctx (k + i)).setWidth 8

/-- R306: channel stores whose record the host has written hold unspecified bytes. -/
def ChEnt.spoil (ctx k : Nat) (e : ChEnt) : ChEnt :=
  { e with op := match e.op with
      | .store s va cs => .store s va ((cs.map Prod.fst).zip (freeBytes ctx k cs.length))
      | o => o }

/-- R306: the engine registers whose record the host has written. -/
def MitRegs.spoil (ctx k : Nat) (e : MitRegs) : MitRegs :=
  let w (i : Nat) : Word := Config.freeWord ctx (k + i)
  { e with
    coef := (List.range e.coef.length).map fun i => pair64 (w (8 + 2 * i)) (w (9 + 2 * i)),
    mitcap := w 0, mittol := w 1, mitdiv := w 2, mitstat := w 3, mitres := pair64 (w 4) (w 5) }

/-- R306: a warp whose bank state the host has written: its registers and predicates. -/
def Warp.spoil (ctx W k : Nat) (w : Warp) : Warp :=
  let r (n : Nat) (i : Nat) : RVal := freeReg W ctx (n + 64 * i)
  w.both fun w => { w with
    frames := w.frames.zipIdx.map (fun p => { p.1 with regs := (List.range p.1.regs.length).map (r (k + 8192 * p.2)) }),
    gregs := (List.range w.gregs.length).map (r (k + 2 ^ 23)),
    preds := w.preds.zipIdx.map (fun p => pair64 (Config.freeWord ctx (k + 2 ^ 23 + 1024 + 2 * p.2)) (Config.freeWord ctx (k + 2 ^ 23 + 1025 + 2 * p.2))) }

/-- R306: the parts of a restored block whose record the host has written hold unspecified state; what gives the block its form keeps it (log entry 12). -/
def Block.spoil (b : Block) (ctx n : Nat) : Block :=
  let hit (p : Nat) : Bool := b.spoilt.any fun o => recordPart o == p
  let at_ (p i : Nat) : Nat := n + 2 ^ 32 * p + 2 ^ 24 * i
  { b with
    spoilt := [],
    ready := if hit 0 then pair64 (Config.freeWord ctx (at_ 0 0)) (Config.freeWord ctx (at_ 0 1)) &&& allLanes b.ntags else b.ready,
    chans := if hit 1 then b.chans.zipIdx.map (fun p => { p.1 with queue := p.1.queue.zipIdx.map fun q => q.1.spoil ctx (at_ 1 p.2 + 128 * q.2) }) else b.chans,
    sb := if hit 2 then b.sb.zipIdx.map (fun p => { p.1 with cells := (p.1.cells.map Prod.fst).zip (freeBytes ctx (at_ 2 0 + 128 * p.2) p.1.cells.length) }) else b.sb,
    sides := if hit 3 then b.sides.zipIdx.map (fun p =>
        { p.1 with
          eng := p.1.eng.spoil ctx (at_ 3 (4 + p.2)),
          tctl := (List.range p.1.tctl.length).map (fun i => Config.freeWord ctx (at_ 3 (1 + p.2) + i)),
          tiles := p.1.tiles.zipIdx.map fun t => { t.1 with bytes := Memory.setCells [] (cellsFrom 0 (freeBytes ctx (at_ 3 (1 + p.2) + 8192 * (t.2 + 1)) 8192)) } })
      else b.sides,
    shared := b.shared.setCells ((b.spoilt.filter fun o => recordPart o == 4).map fun o => (o - 0x67000, (Config.freeWord ctx (at_ 4 0 + o)).setWidth 8)),
    warps := if hit 5 then b.warps.zipIdx.map (fun p => p.1.spoil ctx b.width (at_ 5 p.2)) else b.warps }

/-- R84, R95, R221, R303, R396: the block's record is read into the place it holds, and it runs again; paths that wait at a phase barrier are looked at again. -/
def Mach.unstow (m : Mach) (b : Block) : Mach :=
  let fresh := b.drained
  let d := m.drawAt b.ctx
  let m0 := if b.spoilt.isEmpty then m else (m.updBlock b.id fun b => b.spoil d.1 d.2).drew b.ctx (2 ^ 40)
  let m1 := m0.updBlock b.id fun b =>
    { b with
      place := .placed, reqs := [], cellar := false,
      epoch := if fresh then m.nextBlk else b.epoch,
      chans := if fresh then b.chans.map (fun (c : Chan) => { c with dests := c.dests.map DestEnt.restart }) else b.chans,
      warps := b.warps.map (fun (w : Warp) => { w with lanes := w.lanes.map m.replayRecs }) }
  let m1 := { m1.updBlock b.id Block.pbWake with nextBlk := m1.nextBlk + 1 }
  let m2 := b.sides.zipIdx.foldl
    (fun m p =>
      let mine := b.reqs.filter fun q => (b.warp? q.warp).any fun w => w.side == p.2
      m.updBank p.1.core p.1.bank fun k =>
        { k with ctx := some b.ctx, queue := mine.foldl (fun qs q => q.merge qs) k.queue, cellar := k.cellar || b.cellar }) m1
  let m3 := b.sides.foldl (fun m s => m.grants s.core s.bank) m2
  (m3.recordWrite b.id 0 [0]).1

/-- R303: may a saved block be restored: its context runs and has it saved, and its die is live. -/
def Mach.restorable (m : Mach) (b : Block) : Bool :=
  b.place == .saved && m.dieLive b.die && (m.ctx? b.ctx).any fun c => !c.suspended

/-- R306, R447: the record of a block in its place is read in the context's name; while a page of it is missing the block keeps its place, its record marked as being restored. -/
def Mach.readRecord (m : Mach) (id : Nat) : Mach × Bool :=
  match m.block? id with
  | none => (m, false)
  | some b =>
    if b.place != .restoring then (m, false)
    else
      let r := m.recordOpen b { r := true, w := false, x := false }
      if r.2 then (r.1.unstow b, true)
      else
        match r.1.translate b.ctx (r.1.recordVa b 0) { r := false, w := true, x := false } with
        | .ok _ _ _ _ => ((r.1.recordWrite id 0 [3]).1, false)
        | _ => (r.1, false)

/-- R303, R447: restore a saved block at the first place that can take it, or go on with a restore that waited. -/
def Mach.restoreBlock (m : Mach) (id : Nat) : Mach × Bool :=
  match m.block? id with
  | none => (m, false)
  | some b =>
    if b.place == .restoring then m.readRecord id
    else if !m.restorable b then (m, false)
    else
      match m.restoreSpots b with
      | [] => (m, false)
      | spot :: _ => (m.reserve b spot).readRecord id

/-- R95, R300: transfers under way in a bank are abandoned; an abandoned fill waits in the queue again, by its age. -/
def Mach.abandonBank (m : Mach) (c i : Nat) : Mach :=
  m.updBank c i fun k => { k with fills := [], claims := [], spill := none, queue := m.fullQueue k }

/-- R265, R300, R301: the banks of a core change places. -/
def Mach.swap (m : Mach) (c : Nat) : Mach :=
  let a := (m.core c).active
  let m1 := (m.abandonMiter c).abandonBank c a
  let m2 := m1.updCore c fun k => { k with active := 1 - a, swapEnd := some (m.clock + 128), idle := none, actSet := [], last := none }
  m2.grants c (1 - a)

/-- The priority of the grids a context runs on a bank of a core: the highest. -/
def Mach.bankPriority (m : Mach) (c i : Nat) : Nat :=
  (m.inBank c i).foldl (fun k b => max k (match m.grid? b.grid with | some g => g.desc.priority | none => 0)) 0

/-- SWAP_COMPLETE, R283, R300: the 128 cycles of a swap are over; a block of higher priority placed in the Anteroom meanwhile swaps its core in at once. -/
def Mach.swapOver (m : Mach) (c : Nat) : Mach :=
  match (m.core c).swapEnd with
  | some t =>
    if t ≤ m.clock then
      let m1 := m.updCore c fun k => { k with swapEnd := none, again := false }
      let k := m.core c
      if k.again && !(m.inBank c k.active).isEmpty && decide (m.bankPriority c k.active < m.bankPriority c (1 - k.active)) then m1.swap c else m1
    else m
  | none => m

def execSwapComplete (core : Nat) (s : State) : Host.Outcome State Fault Refusal := s.event fun m => m.swapOver core

/-- R34: the deadline of a context's oldest uncovered event. -/
def Ctx.deadline (c : Ctx) : Option Nat := (c.events.head?).map fun e => e.2.2 + 2000000

/-- R36: has a context passed its deadline. -/
def Ctx.overdue (c : Ctx) (clock : Nat) : Bool := !c.suspMap && (match c.deadline with | some t => decide (t < clock) | none => false)

/-- CONTEXT_SUSPEND, R36. -/
def Mach.suspendMap (m : Mach) (ctx : Nat) : Mach :=
  match m.ctx? ctx with
  | none => m
  | some c =>
    if !c.overdue m.clock then m
    else
      let m1 := (((m.updCtx ctx fun c => { c with suspMap := true }).freezeCtx ctx).writeHeader ctx).log (feLog 0x16 0 (some ctx) none 0 0) none
      m1.notice 3 ctx c.mapver c.ackver

def execContextSuspend (ctx : Nat) (s : State) : Host.Outcome State Fault Refusal := s.event fun m => m.suspendMap ctx

end Sys2Proof.Machine
end

