-- ==== Sys2Proof/Machine/Commands.lean ====
section
/-! DEFINITION. The host's commands (R327, R330, R331, R450) and what completes them, security (R332 to R334), and the drain of the error logs (R318). -/

namespace Sys2Proof.Machine

/-- R327: the commands of a queue an event of an opcode may move on: those started, and the next to start if it has this opcode. -/
def Mach.turnOf (m : Mach) (q op : Nat) : List Cmd :=
  let cs := m.cmds.filter fun c => c.q == q
  (cs.filter fun c => c.started && c.op == op) ++ ((cs.find? fun c => !c.started).filter fun c => c.op == op).toList

/-- R327: move on the first command of an opcode that can go on. -/
def Mach.command (m : Mach) (q op : Nat) (act : Mach → Cmd → Option Mach) : Mach := ((m.turnOf q op).findSome? (act m)).getD m

/-- Change a command. -/
def Mach.updCmd (m : Mach) (c : Cmd) (f : Cmd → Cmd) : Mach := { m with cmds := modWhere m.cmds (fun x => x.q == c.q && x.seq == c.seq) f }

/-- R326: the context of a command: that of its queue as it was accepted. -/
def Mach.cmdCtx (_ : Mach) (c : Cmd) : Nat := c.ctx

/-- A command completes without an error, with its timeline number. -/
def Mach.okCmd (m : Mach) (c : Cmd) (result : Nat) : Mach := m.finishCmd c 0 0 result c.tlNum

/-- A command completes with a status. -/
def Mach.failCmd (m : Mach) (c : Cmd) (status : Nat) : Mach := m.finishCmd c 0 status 0 c.tlNum

/-- R297: the record of a kill by the host: its cause, address and PC do not apply. -/
def hostKill (ctx grid : Nat) : LogInfo := feLog 0xFF 0xFF (some ctx) (some grid) 0 0

/-- R450: has a command's record been answered: none while it waits; some true once refused. -/
def Mach.cmdAnswer (m : Mach) (c : Cmd) : Option (Option Bool) :=
  match c.wait with
  | [] => some none
  | (die, seq) :: _ => (m.answerOf die seq).map some

/-- R450: a command's page is missing: one record with DIE 8 and PLACE 0xFF, and the command waits. -/
def Mach.cmdMiss (m : Mach) (c : Cmd) (va access : Nat) : Mach :=
  let r := m.addFault 8 (m.cmdCtx c) va access 0xFF (m.faultPending 8 (m.cmdCtx c) va)
  r.1.updCmd c fun c => { c with started := true, wait := [r.2], va := va }

/-- R450: a command ends with a translation failure. -/
def Mach.cmdFault (m : Mach) (c : Cmd) (sub va : Nat) : Mach := m.finishCmd c sub 7 va c.tlNum

/-- R450: what becomes of a command whose record was refused: it ends with the address it missed at. -/
def Mach.cmdRefused (m : Mach) (c : Cmd) : Mach := ((m.updCmd c fun c => { c with wait := [] }).forgetFaults).cmdFault c 8 c.va

/-- R450: go on with a command once its record is answered and not refused. -/
def Mach.cmdGo (m : Mach) (c : Cmd) (go : Mach → Cmd → Option Mach) : Option Mach :=
  match m.cmdAnswer c with
  | none => none
  | some (some true) => some (m.cmdRefused c)
  | some none => go m c
  | some (some false) => go ((m.updCmd c fun c => { c with wait := [] }).forgetFaults) { c with wait := [] }

/-- R322: the byte an access of the FE reads; the register window serves no access of its size. -/
def Mach.feByte (m : Mach) (key : Nat) : Byte := if isMmio key then Config.errByte m.clock key else m.homeByte key

/-- HOST_LAUNCH, R286, R330, R448, R450: read the descriptor; the grid is accepted, and its completion completes the command. -/
def Mach.hostLaunch (m : Mach) (c : Cmd) : Option Mach :=
  let ctx := m.cmdCtx c
  let va := c.f 0x10 8
  if c.pos != 0 then none
  else if (m.ctx? ctx).isNone then some (m.failCmd c 3)
  else m.cmdGo c fun m c =>
    match m.trFault false (m.trPieces ctx [(va, 128)] { r := true, w := false, x := false }) with
    | some (va, none) => some (m.cmdMiss c va 1)
    | some (va, some (sub, _)) => some (m.cmdFault c sub va)
    | none =>
      match m.translate ctx va { r := true, w := false, x := false } with
      | .ok k pte _ _ =>
        if m.poison.contains (sectorOf k) then some (m.cmdFault c 0 va)
        else
          let raw := (List.range 128).map fun i => m.feByte (k + i)
          let r := ((m.touch pte false).updCmd c fun c => { c with started := true, pos := 1 }).acceptLaunch ctx raw false (some (c.q, c.seq)) []
          some (if r.2.1 = 0 then r.1.finishCmd c 1 5 0 0 else r.1)
      | _ => none

def execHostLaunch (q : Nat) (s : State) : Host.Outcome State Fault Refusal := s.event fun m => m.command q 0x01 Mach.hostLaunch

/-- R322: bytes written at the home in the name of the FE; sectors whose source was poisoned land poisoned, and the register window takes no write of its size. -/
def Mach.feStore (m : Mach) (cells : List Host.Cell) (bad : List Nat) : Mach :=
  let m1 := bad.foldl (fun (m : Mach) s => (m.addPoison s).observe s) m
  let good := cells.filter fun c => !bad.contains (sectorOf c.1)
  ((good.map fun c => sectorOf c.1).eraseDups).foldl
    (fun (m : Mach) s =>
      let cs := good.filter fun c => sectorOf c.1 == s
      if isMmio (s * 128) then m else (m.land s cs).1) m1

/-- COPY, R330, R450: the next 1,024 bytes at most. -/
def Mach.hostCopy (m : Mach) (c : Cmd) : Option Mach :=
  let ctx := m.cmdCtx c
  let src := c.f 0x10 8 + c.pos
  let dst := c.f 0x18 8 + c.pos
  let k := min (c.f 0x20 8 - c.pos) 1024
  if (m.ctx? ctx).isNone then some (m.failCmd c 3)
  else if k = 0 then some (m.okCmd c 0)
  else if 2 ^ 52 < src + k then some (m.cmdFault c 0 (max src (2 ^ 52)))
  else if 2 ^ 52 < dst + k then some (m.cmdFault c 0 (max dst (2 ^ 52)))
  else m.cmdGo c fun m c =>
    let ts := m.trPieces ctx (pagePieces src k 2) { r := true, w := false, x := false }
    let td := m.trPieces ctx (pagePieces dst k 2) { r := false, w := true, x := false }
    match m.trFault false ts, m.trFault false td with
    | some (va, none), _ => some (m.cmdMiss c va 1)
    | some (va, some (sub, _)), _ => some (m.cmdFault c sub va)
    | none, some (va, none) => some (m.cmdMiss c va 2)
    | none, some (va, some (sub, _)) => some (m.cmdFault c sub va)
    | none, none =>
      let ps := (pieceKeys (trOk ts)).zip (pieceKeys (trOk td))
      let bad := (ps.filterMap fun p => if m.poison.contains (sectorOf p.1.2) then some (sectorOf p.2.2) else none).eraseDups
      let m1 := (trPtes false ts ++ trPtes true td).foldl (fun m q => m.touch q.1 q.2) m
      let m2 := m1.feStore (ps.map fun p => (p.2.2, m.feByte p.1.2)) bad
      let m3 := m2.updCmd c fun c => { c with started := true, pos := c.pos + k }
      some (if c.pos + k = c.f 0x20 8 then m3.okCmd c 0 else m3)

def execCopy (q : Nat) (s : State) : Host.Outcome State Fault Refusal := s.event fun m => m.command q 0x02 Mach.hostCopy

/-- TLHOLD, R330: it starts, and with it the later commands of its queue, once the timeline has reached the value. -/
def Mach.tlHold (m : Mach) (c : Cmd) : Option Mach :=
  let ctx := m.cmdCtx c
  let n := m.tlCount ctx (c.f 0x10 1)
  if (m.ctx? ctx).isNone then some (m.failCmd c 3)
  else if c.f 0x18 8 ≤ n then some (m.okCmd c n)
  else none

def execTlhold (q : Nat) (s : State) : Host.Outcome State Fault Refusal := s.event fun m => m.command q 0x03 Mach.tlHold

/-- R330: the local range of a NETPOST, and whether it is written. -/
def Mach.netTrs (m : Mach) (c : Cmd) : Bool × List (Nat × Nat × Tr) :=
  let w := c.f 0x11 1 == 2
  (w, m.trPieces (m.cmdCtx c) (pagePieces (c.f 0x18 8) (c.f 0x2C 4) (c.f 0x2C 4 / 65536 + 2)) { r := !w, w := w, x := false })

/-- NETPOST, R330: the operation goes to its port; its local range is checked first, as R450 gives for COPY (log entry 24). -/
def Mach.netPost (m : Mach) (c : Cmd) : Option Mach :=
  let ctx := m.cmdCtx c
  if c.pos != 0 then none
  else if (m.ctx? ctx).isNone || !(m.qps.any fun p => p.ctx == ctx && p.port == c.f 0x10 1 && p.qpn == c.f 0x14 4) then some (m.failCmd c 3)
  else if 2 ^ 52 < c.f 0x18 8 + c.f 0x2C 4 then some (m.cmdFault c 0 (2 ^ 52))
  else m.cmdGo c fun m c =>
    let r := m.netTrs c
    match m.trFault false r.2 with
    | some (va, none) => some (m.cmdMiss c va (if r.1 then 2 else 1))
    | some (va, some (sub, _)) => some (m.cmdFault c sub va)
    | none => some ((trPtes r.1 r.2).foldl (fun m q => m.touch q.1 q.2) (m.updCmd c fun c => { c with started := true, pos := 1 }))

def execNetpost (q : Nat) (s : State) : Host.Outcome State Fault Refusal := s.event fun m => m.command q 0x04 Mach.netPost

/-- NETPOST_ACKNOWLEDGED, R330: the peer acknowledges; an RDMA read brings its bytes. -/
def Mach.netAcked (m : Mach) (q seq : Nat) (data : List Byte) : Mach :=
  match m.cmds.find? fun c => c.q == q && c.seq == seq && c.op == 0x04 && c.pos == 1 with
  | none => m
  | some c =>
    let r := m.netTrs c
    if !r.1 then m.okCmd c (c.f 0x2C 4)
    else
      match m.trFault false r.2 with
      | some (va, some (sub, _)) => m.cmdFault c sub va
      | some (va, none) => m.cmdFault c 0 va
      | none =>
        let cells := ((pieceKeys (trOk r.2)).zip (padTo (c.f 0x2C 4) data)).map fun p => (p.1.2, p.2)
        (((trPtes true r.2).foldl (fun m q => m.touch q.1 q.2) m).feStore cells []).okCmd c (c.f 0x2C 4)

def execNetpostAcknowledged (q seq : Nat) (data : List (BitVec 8)) (s : State) : Host.Outcome State Fault Refusal :=
  s.event fun m => m.netAcked q seq data

/-- NETQP, R330. -/
def Mach.netQp (m : Mach) (c : Cmd) : Option Mach :=
  let ctx := m.cmdCtx c
  let p : NetQp := { ctx := ctx, port := c.f 0x10 1, qpn := c.f 0x14 4, peer := c.f 0x18 4, mtu := c.f 0x1C 2, ip := (c.raw.drop 0x20).take 16 }
  if (m.ctx? ctx).isNone then some (m.failCmd c 3)
  else some (Mach.okCmd { m with qps := p :: m.qps.filter fun x => !(x.ctx == p.ctx && x.port == p.port && x.qpn == p.qpn) } c 0)

def execNetqp (q : Nat) (s : State) : Host.Outcome State Fault Refusal := s.event fun m => m.command q 0x05 Mach.netQp

/-- CTXCREATE, R32, R33, R193, R304, R330. -/
def Mach.ctxCreate (m : Mach) (c : Cmd) : Option Mach :=
  let id := c.f 0x10 1
  let x : Ctx :=
    { id := id, root := c.f 0x18 8, locbase := c.f 0x20 8, lsize := 65536 * c.f 0x14 4, lslots := c.f 0x12 2, csabase := c.f 0x28 8,
      ackver := m.rmap.ver, mapver := m.rmap.ver, events := [], suspMap := m.bootState == 3, suspHost := false, killed := false,
      tls := List.replicate 32 { next := 1, count := 0, fin := [] }, stops := 0, born := m.ctxCnt, draws := 0 }
  if (m.ctx? id).isSome then some (m.failCmd c 8)
  else some ((Mach.writeHeader { m with ctxs := m.ctxs ++ [x], ctxCnt := m.ctxCnt + 1 } id).okCmd c 0)

def execCtxcreate (q : Nat) (s : State) : Host.Outcome State Fault Refusal := s.event fun m => m.command q 0x20 Mach.ctxCreate

/-- CTXDESTROY, R298, R330: its grids are killed, and once they are complete the context is gone. -/
def Mach.ctxDestroy (m : Mach) (c : Cmd) : Option Mach :=
  let id := c.f 0x10 1
  let mine := (m.grids.filter fun g => g.ctx == id && !g.complete).map fun g => g.num
  if c.started then
    (if mine.isEmpty then some (Mach.okCmd { m with ctxs := m.ctxs.filter (fun x => x.id != id), qps := m.qps.filter (fun p => p.ctx != id), tlb := m.tlb.filter fun t => t.ctx != id } c 0) else none)
  else if (m.ctx? id).isNone then some (m.failCmd c 3)
  else if m.queues.any fun k => k.enable && k.ctx == id then some (m.failCmd c 8)
  else
    let m1 := ((m.updCtx id fun x => { x with killed := true }).writeHeader id).updCmd c fun c => { c with started := true }
    some (mine.foldl (fun (m : Mach) n => m.killGrid n (hostKill id n) none) m1)

def execCtxdestroy (q : Nat) (s : State) : Host.Outcome State Fault Refusal := s.event fun m => m.command q 0x21 Mach.ctxDestroy

/-- R172: every access of a block that can complete completes, and its copies do; answers whether none is left. -/
def Mach.flushBlock (m : Mach) (b : Block) : Mach × Bool :=
  let r := b.warps.foldl
    (fun (r : Mach × Bool) w =>
      let q := r.1.settleAll b.id w.num (allLanes 64)
      (q.1, r.2 && q.2)) (m, true)
  let m1 := ((b.copies.map fun q => q.tag).eraseDups).foldl (fun (m : Mach) t => m.copyEnd b.id t) r.1
  let m2 := m1.allVisible b.id
  let sent (c : Chan) : Bool := c.sent.isEmpty && c.queue.all fun x => match x.op with | .join .. | .cpyr .. => true | _ => false
  (m2, r.2 && (m2.block? b.id).all fun b => b.copies.isEmpty && b.chans.all sent && !(b.sb.any fun e => e.released || e.tst) && b.rels.isEmpty)

/-- R162, R172: stash data of a range is written back. -/
def Block.writeBack (b : Block) (va n : Nat) : Block :=
  { b with maps := b.maps.map fun (p : StashMap) => if n = 0 ∨ (va < p.base + p.len ∧ p.base < va + n) then { p with undo := [] } else p }

/-- TLBINV, R172, R330: it starts, and once the accesses and copies under way have completed and stash data is written back, the cached entries of the range are dropped. -/
def Mach.tlbInv (m : Mach) (c : Cmd) : Option Mach :=
  let id := c.f 0x10 1
  if (m.ctx? id).isNone then some (m.failCmd c 3)
  else
    let r := (m.blocks.filter fun b => b.ctx == id && b.place == .placed).foldl
      (fun (r : Mach × Bool) b =>
        let q := r.1.flushBlock b
        (q.1.updBlock b.id fun b => b.writeBack (c.f 0x18 8) (65536 * c.f 0x14 4), r.2 && q.2)) (m, true)
    if r.2 then some ((r.1.tlbDrop id (c.f 0x18 8) (65536 * c.f 0x14 4)).okCmd c 0)
    else if c.started then none
    else some (m.updCmd c fun c => { c with started := true })

def execTlbinv (q : Nat) (s : State) : Host.Outcome State Fault Refusal := s.event fun m => m.command q 0x22 Mach.tlbInv

/-- BIASFLIP, R195, R196, R323: the page's bias changes once dirty copies of it are written back; a flip to host bias invalidates what the L1s hold of it. -/
def Mach.biasFlip (m : Mach) (c : Cmd) : Option Mach :=
  let pa := c.f 0x10 8
  let s0 := sectorOf (keyOf m.rmap.pkg pa)
  let m1 := { m with blocks := m.blocks.map (fun (b : Block) => { b with maps := b.maps.map (fun (p : StashMap) =>
    { p with undo := p.undo.filter fun x => !(decide (s0 ≤ sectorOf x.1 ∧ sectorOf x.1 < s0 + 512)) }) }) }
  let m1 := if c.f 0x18 1 = 1 then m1.observeIf (fun x => decide (s0 ≤ x ∧ x < s0 + 512)) else m1
  let rest := m.bias.filter fun x => x != pa / 65536
  some (Mach.okCmd { m1 with bias := if c.f 0x18 1 = 1 then pa / 65536 :: rest else rest } c 0)

def execBiasflip (q : Nat) (s : State) : Host.Outcome State Fault Refusal := s.event fun m => m.command q 0x23 Mach.biasFlip

/-- Does an address lie in the 64 KiB a record names. -/
def FaultRec.covers (f : FaultRec) (va : Nat) : Bool := f.va / 65536 == va / 65536

/-- R216: the channels whose bulk copy waits on a record. -/
def Mach.copyWaiters (m : Mach) (f : FaultRec) : List (Nat × Nat × Nat) :=
  (m.blocks.filter fun b => b.ctx == f.ctx && b.die == f.die).flatMap fun b =>
    (List.range b.nchan).filterMap fun ch => match m.sendStep b ch with | .page va _ => if f.covers va then some (b.id, ch, va) else none | _ => none

/-- R294, R447: the blocks whose record or Cellar transfer waits on a record. -/
def Mach.moveWaiters (m : Mach) (f : FaultRec) : List Block :=
  m.blocks.filter fun b =>
    b.ctx == f.ctx && b.die == f.die &&
      (((b.place == .saved || b.place == .restoring || b.stopped) && f.access / 128 % 2 == 1 && (List.range 64).any fun i => f.covers (m.recordVa b (65536 * i))) ||
        (f.access / 32 % 2 == 1 && b.sides.any fun s =>
          let k := (m.core s.core).bank s.bank
          ((k.fills.map fun q => (q.blk, q.warp, q.fid)) ++ k.spill.toList).any fun q => q.1 == b.id && (match (b.warp? q.2.1).bind fun w => (w.frame? q.2.2).map fun x => (w, x) with
            | some (w, x) => (lanesOf (x.members &&& w.liveLanes)).any fun l => f.covers (m.localVa b w l (0x400 + 512 * x.level))
            | none => false)))

/-- R216, R294, R447: a refused record ends what waits on it: bulk copies, the grids of blocks whose transfers need it, and, for the header, the grids of the context. -/
def Mach.refuse (m : Mach) (f : FaultRec) : Mach :=
  let m1 := (m.copyWaiters f).foldl (fun (m : Mach) q => m.stopCopy q.1 q.2.1 8 q.2.2 none) m
  let m2 := (m.moveWaiters f).foldl (fun (m : Mach) b => m.killGrid b.grid (Mach.blockLog b 0x06 8 0 none (some f.va) none none 0) none) m1
  if f.access / 128 % 2 = 1 ∧ (m.ctx? f.ctx).any (fun c => f.covers c.csabase) then
    (m2.updCtx f.ctx fun c => { c with owes := false }).killCtx f.ctx { feLog 0x06 8 (some f.ctx) none 0 0 with die := f.die, va := some f.va }
  else m2

/-- R447: a record is answered: a context whose header write waited for its page writes it now. -/
def Mach.headersGo (m : Mach) (f : FaultRec) : Mach :=
  if f.access / 128 % 2 = 1 ∧ (m.ctx? f.ctx).any (fun c => c.owes && f.covers c.csabase) then m.writeHeader f.ctx else m

/-- FAULTRESP, R293, R294, R447: a record is answered; parked sub-warps replay on their own. -/
def Mach.faultResp (m : Mach) (c : Cmd) : Option Mach :=
  let die := c.f 0x10 1
  let no := c.f 0x11 1 == 1
  match m.faults.find? fun f => f.die == die && f.seq == c.f 0x14 4 && f.answer.isNone with
  | none => some (m.failCmd c 3)
  | some f =>
    let m1 := if no then m.refuse f else m
    let m2 := { m1 with faults := modWhere m1.faults (fun x => x.die == f.die && x.seq == f.seq) (fun (x : FaultRec) => { x with answer := some no }) }
    some ((if no then m2 else m2.headersGo f).forgetFaults.okCmd c 0)

def execFaultresp (q : Nat) (s : State) : Host.Outcome State Fault Refusal := s.event fun m => m.command q 0x24 Mach.faultResp

/-- HOST_MAPACK, R31, R36, R38: the host acknowledges for a context; the current version resumes it, unless the package has failed. -/
def Mach.hostMapack (m : Mach) (c : Cmd) : Option Mach :=
  let id := c.f 0x10 1
  let v := c.f 0x14 4
  match m.ctx? id with
  | none => some (m.failCmd c 3)
  | some x =>
    if x.mapver < v then some ((m.log (feLog 0x15 3 (some id) none 0 0) none).failCmd c 2)
    else
      let m1 := (m.ackMap id v).updCtx id fun y => if v = x.mapver ∧ m.bootState ≠ 3 then { y with suspMap := false } else y
      some ((if x.suspMap then m1.writeHeader id else m1).okCmd c (max x.ackver v))

def execHostMapack (q : Nat) (s : State) : Host.Outcome State Fault Refusal := s.event fun m => m.command q 0x25 Mach.hostMapack

/-- CHANCONF, R30: the host has vacated the range; the retirement's event completes the command. -/
def Mach.chanConf (m : Mach) (c : Cmd) : Option Mach :=
  let mine (q : Nat × Nat × Bool) : Bool := q.1 == c.f 0x10 1 && q.2.1 == c.f 0x11 1
  if c.started then none
  else if m.chanReq.any mine then
    some (Mach.updCmd { m with chanReq := modWhere m.chanReq mine fun q => (q.1, q.2.1, true) } c fun c => { c with started := true })
  else some (m.failCmd c 3)

def execChanconf (q : Nat) (s : State) : Host.Outcome State Fault Refusal := s.event fun m => m.command q 0x26 Mach.chanConf

/-- HBM_CHANNEL_REMAP, R30: the failing channel's contents are in the vacated range; the event is posted, and sectors that could not be read are poisoned. DESIGN CHOICE (log entry 79): the spec does not say which cycle is the detection cycle of a kind 3 event; the model takes that of the remap. -/
def Mach.chanRemap (m : Mach) (die chan : Nat) (unread : List Nat) : Mach :=
  if !m.chanReq.contains (die, chan, true) then m
  else
    let m1 := m.postEvent 3 die chan fun r => r.updDie die fun e => DieEnt.judged { e with channels := e.channels - 2 ^ chan }
    let m2 := { m1 with chanReq := m1.chanReq.filter fun q => !(q.1 == die && q.2.1 == chan) }
    let m3 := m2.poisonAll die 6 (unread.filter fun pa => pa / 2 ^ 36 == die)
    (m3.cmds.filter fun c => c.op == 0x26 && c.started && c.f 0x10 1 == die && c.f 0x11 1 == chan).foldl (fun (m : Mach) c => m.okCmd c m.rmap.ver) m3

def execHbmChannelRemap (die chan : Nat) (unread : List Nat) (s : State) : Host.Outcome State Fault Refusal :=
  s.event fun m => m.chanRemap die chan unread

/-- KILL, R297, R330: the command completes when the grid is complete. -/
def Mach.hostKillCmd (m : Mach) (c : Cmd) : Option Mach :=
  let ctx := c.f 0x10 1
  let n := c.f 0x14 4
  let running := m.grids.any fun g => g.ctx == ctx && g.num == n && !g.complete
  if c.started then (if running then none else some (m.okCmd c 1))
  else if (m.ctx? ctx).isNone then some (m.failCmd c 3)
  else if running then some ((m.killGrid n (hostKill ctx n) none).updCmd c fun c => { c with started := true })
  else if m.grids.any fun g => g.ctx == ctx && g.num == n then some (m.okCmd c 0)
  else some (m.failCmd c 3)

def execKill (q : Nat) (s : State) : Host.Outcome State Fault Refusal := s.event fun m => m.command q 0x27 Mach.hostKillCmd

/-- R296: is a lane part of a stop: stopped, or with its trap frame still to be written. -/
def Run.stopOf (r : Run) (id : Nat) : Bool := match r with | .stopped i => i == id | _ => false

def Run.stopFrameOf (r : Run) (id : Nat) : Bool := match r with | .parked (.stopFrame i _) _ => i == id | _ => false

/-- BRKRESUME, R296: the sub-warp goes on at its resume point, or its grid is killed. It starts, and waits while a frame of the stop is still to be written. -/
def Mach.brkResume (m : Mach) (c : Cmd) : Option Mach :=
  let ctx := c.f 0x10 1
  let id := c.f 0x14 4
  let has (p : Run → Bool) (b : Block) : Bool := b.ctx == ctx && b.warps.any fun w => w.lanes.any fun l => p l.run
  if (m.ctx? ctx).isNone then some (m.failCmd c 3)
  else
    match m.blocks.find? (has fun r => r.stopOf id || r.stopFrameOf id) with
    | none => some (m.failCmd c 3)
    | some b =>
      if c.f 0x11 1 = 1 then some ((m.killGrid b.grid (hostKill ctx b.grid) none).okCmd c 0)
      else if m.blocks.any (has fun r => r.stopFrameOf id) then (if c.started then none else some (m.updCmd c fun c => { c with started := true }))
      else
        let free (l : Lane) : Lane := if l.run.stopOf id then { l with run := .ready } else l
        some ((m.updBlock b.id fun b => { b with warps := b.warps.map (fun (w : Warp) => { w with lanes := w.lanes.map free }) }).okCmd c 0)

def execBrkresume (q : Nat) (s : State) : Host.Outcome State Fault Refusal := s.event fun m => m.command q 0x28 Mach.brkResume

/-- SUSPEND, R330: complete once every block of the context is saved, or the host has allowed it to run again. -/
def Mach.suspendCmd (m : Mach) (c : Cmd) : Option Mach :=
  let id := c.f 0x10 1
  match m.ctx? id with
  | none => some (m.failCmd c 3)
  | some x =>
    if c.started then
      (if !x.suspHost || m.blocks.all (fun b => b.ctx != id || !b.onCores) then some (m.okCmd c 0) else none)
    else
      some ((((m.updCtx id fun x => { x with suspHost := true }).freezeCtx id).writeHeader id).updCmd c fun c => { c with started := true })

def execSuspend (q : Nat) (s : State) : Host.Outcome State Fault Refusal := s.event fun m => m.command q 0x29 Mach.suspendCmd

/-- RESUME, R330. -/
def Mach.resumeCmd (m : Mach) (c : Cmd) : Option Mach :=
  let id := c.f 0x10 1
  if (m.ctx? id).isNone then some (m.failCmd c 3)
  else some (((m.updCtx id fun x => { x with suspHost := false }).writeHeader id).okCmd c 0)

def execResume (q : Nat) (s : State) : Host.Outcome State Fault Refusal := s.event fun m => m.command q 0x2A Mach.resumeCmd

/-- R240: the 320-byte slot record. -/
def RSlot.bytes (k : RSlot) (plane slot : Nat) : List Byte :=
  leBytes 1 k.state ++ leBytes 1 k.op ++ leBytes 1 plane ++ leBytes 1 slot ++ leBytes 2 k.gen ++ leBytes 1 k.count ++ leBytes 1 k.got.length ++
    leBytes 8 (slotMask k.got).toNat ++ leBytes 8 k.opened ++ leBytes 8 k.deadline ++ wordBytes k.result ++ wordBytes k.status ++
    leBytes 8 k.freeAt ++ zeros 16 ++ (List.range 64).flatMap fun i => wordBytes ((slotLeaf k.got i).getD 0)

/-- SLOTREAD, R240. -/
def Mach.slotRead (m : Mach) (c : Cmd) : Option Mach :=
  let p := c.f 0x10 1
  let k := c.f 0x11 1
  let m := (m.slotDeadline p k).slotFree p k
  some ((m.hostWrite (c.f 0x18 8) ((m.slot p k).bytes p k)).okCmd c 0)

def execSlotread (q : Nat) (s : State) : Host.Outcome State Fault Refusal := s.event fun m => m.command q 0x2B Mach.slotRead

/-- R334: the per-boot private key. -/
def Mach.bootPriv (m : Mach) : Nat := scalarOf (Config.bootPriv m.boots)

/-- R334: a key value is installed under a number; a value seen before keeps its identity. -/
def Mach.install (m : Mach) (k : Nat) (v : List Byte) : Mach :=
  match m.keyTab.findIdx? fun x => x == .blob v with
  | some i => { m with keys := m.keys ++ [(k, i)] }
  | none => { m with keys := m.keys ++ [(k, m.keyTab.length)], keyTab := m.keyTab ++ [.blob v] }

/-- KEYINSTALL, R334. -/
def Mach.keyInstall (m : Mach) (c : Cmd) : Option Mach :=
  let k := c.f 0x10 1
  if (m.keyId k).isSome then some (m.failCmd c 8)
  else
    match unwrapBlob m.bootPriv (m.hostRead (c.f 0x18 8) 168) with
    | some v => some (Mach.okCmd (m.install k v) c 0)
    | none => some (m.failCmd c 4)

def execKeyinstall (q : Nat) (s : State) : Host.Outcome State Fault Refusal := s.event fun m => m.command q 0x2C Mach.keyInstall

/-- KEYREMOVE, R334. -/
def Mach.keyRemove (m : Mach) (c : Cmd) : Option Mach :=
  let k := c.f 0x10 1
  if (m.keyId k).isSome then some (Mach.okCmd { m with keys := m.keys.filter fun x => x.1 != k } c 0) else some (m.failCmd c 3)

def execKeyremove (q : Nat) (s : State) : Host.Outcome State Fault Refusal := s.event fun m => m.command q 0x2D Mach.keyRemove

/-- POWERCAP, R335. -/
def Mach.powerCap (m : Mach) (c : Cmd) : Option Mach :=
  let m1 := Mach.newCap { m with hostCap := c.f 0x10 4 }
  some (m1.okCmd c m1.rmap.ver)

def execPowercap (q : Nat) (s : State) : Host.Outcome State Fault Refusal := s.event fun m => m.command q 0x2E Mach.powerCap

/-- R333: the report up to its signature: 384 bytes. -/
def Mach.reportBody (m : Mach) (nonce : List Byte) : List Byte :=
  leBytes 4 0x54415A53 ++ leBytes 4 0x00010000 ++ nonce ++ sha384 m.image ++ leBytes 4 m.rmap.ver ++ zeros 4 ++
    (List.range 11).flatMap (fun d => leBytes 8 ((m.rmap.dies.getD d DieEnt.absent).serial)) ++ pointBytes (curveMul m.bootPriv curveG) ++ zeros 104

/-- ATTEST, R333. -/
def Mach.attest (m : Mach) (c : Cmd) : Option Mach :=
  let body := m.reportBody (m.hostRead (c.f 0x10 8) 32)
  let sig := ecdsaSign (scalarOf Config.idPriv) (scalarOf (Config.signNonce m.clock)) body
  some ((m.hostWrite (c.f 0x18 8) (body ++ leBytes 48 sig.1 ++ leBytes 48 sig.2)).okCmd c 0)

def execAttest (q : Nat) (s : State) : Host.Outcome State Fault Refusal := s.event fun m => m.command q 0x2F Mach.attest

/-- FWSTAGE, R330, R332. -/
def Mach.fwStage (m : Mach) (c : Cmd) : Option Mach :=
  let image := m.hostRead (c.f 0x10 8) (c.f 0x18 8)
  if imageValid image then some (Mach.okCmd { m with staged := some image } c 0) else some (m.failCmd c 4)

def execFwstage (q : Nat) (s : State) : Host.Outcome State Fault Refusal := s.event fun m => m.command q 0x30 Mach.fwStage

/-- The meaning of an opcode, and the event that moves it on. -/
def cmdAct (op : Nat) : Mach → Cmd → Option Mach :=
  match op with
  | 0x01 => Mach.hostLaunch
  | 0x02 => Mach.hostCopy
  | 0x03 => Mach.tlHold
  | 0x04 => Mach.netPost
  | 0x05 => Mach.netQp
  | 0x20 => Mach.ctxCreate
  | 0x21 => Mach.ctxDestroy
  | 0x22 => Mach.tlbInv
  | 0x23 => Mach.biasFlip
  | 0x24 => Mach.faultResp
  | 0x25 => Mach.hostMapack
  | 0x26 => Mach.chanConf
  | 0x27 => Mach.hostKillCmd
  | 0x28 => Mach.brkResume
  | 0x29 => Mach.suspendCmd
  | 0x2A => Mach.resumeCmd
  | 0x2B => Mach.slotRead
  | 0x2C => Mach.keyInstall
  | 0x2D => Mach.keyRemove
  | 0x2E => Mach.powerCap
  | 0x2F => Mach.attest
  | 0x30 => Mach.fwStage
  | _ => fun _ _ => none

def cmdEvent (op q : Nat) : Option Instr :=
  match op with
  | 0x01 => some (.hostLaunch q)
  | 0x02 => some (.copy q)
  | 0x03 => some (.tlhold q)
  | 0x04 => some (.netpost q)
  | 0x05 => some (.netqp q)
  | 0x20 => some (.ctxcreate q)
  | 0x21 => some (.ctxdestroy q)
  | 0x22 => some (.tlbinv q)
  | 0x23 => some (.biasflip q)
  | 0x24 => some (.faultresp q)
  | 0x25 => some (.hostMapack q)
  | 0x26 => some (.chanconf q)
  | 0x27 => some (.kill q)
  | 0x28 => some (.brkresume q)
  | 0x29 => some (.suspend q)
  | 0x2A => some (.resume q)
  | 0x2B => some (.slotread q)
  | 0x2C => some (.keyinstall q)
  | 0x2D => some (.keyremove q)
  | 0x2E => some (.powercap q)
  | 0x2F => some (.attest q)
  | 0x30 => some (.fwstage q)
  | _ => none

/-- R327: the events of the commands that can go on. -/
def Mach.cmdsDue (m : Mach) : List Instr :=
  ((m.cmds.map fun c => (c.q, c.op)).eraseDups).filterMap fun p =>
    if (m.turnOf p.1 p.2).any fun c => (cmdAct p.2 m c).isSome then cmdEvent p.2 p.1 else none

/-- ERROR_LOG_DRAIN, R296, R318, R325: the oldest record of a log, with its continuation, goes to the aggregate log, and its notices to the host once it is written there. -/
def Mach.drainLog (m : Mach) (die : Nat) : Mach :=
  match m.logs[die]? with
  | none => m
  | some k =>
    match k.recs with
    | [] => m
    | x :: rest =>
      let flags := fieldAt x 0x0E 1
      let n := if flags.testBit 0 then 1 else 0
      let m1 := { m with logs := m.logs.set die { k with recs := rest.drop n } }
      let before := (m.rings.getD 1 Ring.empty).held.length
      let own : RingNote := { after := before, place := none, kind := 2, ctx := fieldAt x 0x0B 1, arg0 := fieldAt x 0x2C 4, arg1 := some die }
      let stop : RingNote := { after := before + 1, place := none, kind := 4, ctx := fieldAt x 0x0B 1, arg0 := fieldAt x 0x30 4, arg1 := none }
      let ns := (if flags.testBit 1 then [own] else []) ++ if fieldAt x 8 1 = 0x12 ∧ n = 1 ∧ flags.testBit 1 then [stop] else []
      let m2 := { m1 with rings := modAt m1.rings 1 fun r => { r with notes := r.notes ++ ns } }
      Mach.ringNotes ((rest.take n).foldl (fun (m : Mach) y => m.ringPush 1 y) (m2.ringPush 1 x)) 1

def execErrorLogDrain (die : Nat) (s : State) : Host.Outcome State Fault Refusal := s.event fun m => m.drainLog die

end Sys2Proof.Machine
end

