-- ==== Sys2Proof/Machine/Place.lean ====
section
/-! DEFINITION. From the FE to the cores: validation (R272, R275), start conditions (R285), placement, restore and pre-emption (R276, R277, R282, R283, R303, R313), stealing (R278), completion (R194, R286), and the scheduler's own events (R50, R53, R281). -/

namespace Sys2Proof.Machine

/-- R268: which words a busy array or a missing charge holds back. -/
def unitGate : Gate := fun m b w lanes g => !mxHeld m b w lanes g

/-- R271: are the fields of a descriptor outside their ranges. -/
def Desc.fieldBad (d : Desc) (raw : List Byte) : Bool :=
  let f (off n : Nat) : Nat := fieldAt raw off n
  let frameOk (n : Nat) : Bool := decide (8 ≤ n ∧ n ≤ 56) && n % 8 == 0
  let nroles := f 0x3D 1
  let roleBad (i : Nat) : Bool :=
    let w := f (0x20 + 4 * i) 1
    let fr := f (0x21 + 4 * i) 1
    if i < nroles then w == 0 || decide (64 < w) || !frameOk fr || f (0x22 + 4 * i) 2 != 0 || (d.paired && w % 2 != 0)
    else f (0x20 + 4 * i) 4 != 0
  decide (2 ^ 52 ≤ d.entry) || d.entry % 4096 != 0 || decide (2 ^ 52 ≤ d.param) || d.nx == 0 || d.ny == 0 || d.nz == 0 ||
    decide (2 ^ 32 - 1 < d.nx * d.ny * d.nz) ||
    (if d.paired then decide (d.threads < 2 ∨ 2048 < d.threads) else decide (d.threads < 1 ∨ 1024 < d.threads)) ||
    !(d.width == 16 || d.width == 32 || d.width == 64) || decide (4 < nroles) ||
    (if nroles = 0 then !frameOk d.frame || (d.paired && d.nwarps % 2 != 0)
     else d.frame != 0 || (d.roleList.map fun r => r.1).sum != d.nwarps) ||
    (List.range 4).any roleBad || decide (524288 < d.shared) || decide (16 < d.tiles) || decide (64 < d.tags) || d.channels == 0 ||
    decide (16 < d.channels) || decide (d.quota < 4) || decide (64 < d.quota) || d.diemask == 0 || decide (3 < d.priority) ||
    decide (8 ≤ f 0x3F 1) || (d.timeline != 255 && decide (32 ≤ d.timeline)) || f 0x41 3 != 0 || f 0x48 56 != 0

/-- R272: can one core, or one pair, ever hold a block. -/
def Desc.tooBig (d : Desc) : Bool :=
  (List.range 2).any fun i =>
    decide (64 < d.sideWarps i) || decide (6144 < d.sideLines i) || decide (786432 < round1024 d.shared + round1024 d.stash + 65536) ||
      decide (16 < d.tiles) || decide (64 < d.tags)

/-- R39: the live dies of a mask. -/
def Mach.liveDies (m : Mach) (mask : Nat) : List Nat := (List.range 8).filter fun d => mask.testBit d && m.dieLive d

/-- R275: the chunks of a grid, dealt over its dies. -/
def dealChunks (total : Nat) (dies : List Nat) : List (Nat × List Nat) :=
  (List.range ((total + 7) / 8)).map fun j => (dies.getD (j % dies.length) 0, (List.range (min 8 (total - 8 * j))).map fun i => 8 * j + i)

/-- R276: put the next block of a grid on a die; none when it fits nowhere. -/
def Mach.placeOne (m : Mach) (g : Grid) (die lin : Nat) : Option (Mach × Spot) :=
  match m.freeSlot g.ctx, m.spots die g.ctx g.desc.paired g.desc.asks fun _ => false with
  | some slot, spot :: _ => some (m.settleBlock g lin die slot 0 spot, spot)
  | _, _ => none

/-- R277: place blocks one after another, all or none; answers the places they took too. -/
def Mach.placeAll (g : Grid) : List (Nat × Nat) → Mach × List Spot → Option (Mach × List Spot)
  | [], r => some r
  | (die, lin) :: rest, r =>
    match r.1.placeOne g die lin with
    | some (m1, spot) => Mach.placeAll g rest (m1, r.2 ++ [spot])
    | none => none

/-- The unplaced blocks of a grid as (die, linear index). -/
def Grid.unplaced (g : Grid) : List (Nat × Nat) := g.chunks.flatMap fun c => c.2.map fun l => (c.1, l)

/-- R272: the package with no block resident. -/
def Mach.emptied (m : Mach) : Mach :=
  { m with blocks := [], cores := m.cores.map (fun (k : Core) => { k with banks := [Bank.empty, Bank.empty], swapEnd := none }) }

/-- R272: the first test a descriptor fails, in table order. -/
def Mach.launchFault (m : Mach) (g : Grid) : Option Nat :=
  let d := g.desc
  let dies := m.liveDies d.diemask
  let total := d.nx * d.ny * d.nz
  if d.fieldBad g.raw then some 1
  else if d.isareq / 65536 ≠ 1 ∨ d.isareq % 65536 ≠ 0 then some 5
  else if d.tooBig then some 6
  else if dies.isEmpty then some 2
  else if d.coop ∧ (5120 < total ∨ (Mach.placeAll g ({ g with chunks := dealChunks total dies } : Grid).unplaced (m.emptied, [])).isNone) then some 4
  else none

/-- DESCRIPTOR_VALIDATION, R272, R275: the oldest grid not yet validated. -/
def Mach.validate (m : Mach) : Mach :=
  match m.grids.find? fun g => !g.valid && g.failed.isNone && !g.killed && !g.complete with
  | none => m
  | some g =>
    match m.launchFault g with
    | some sub => (m.failGrid g.num sub).updGrid g.num fun g => { g with valid := true }
    | none =>
      let dies := m.liveDies g.desc.diemask
      let total := g.desc.nx * g.desc.ny * g.desc.nz
      m.updGrid g.num fun g => { g with valid := true, dies := dies, chunks := dealChunks total dies, left := total, total := total }

def execDescriptorValidation (s : State) : Host.Outcome State Fault Refusal := s.event Mach.validate

/-- R285: does a start condition of a child hold. -/
def Mach.condMet (m : Mach) (c : StartCond) : Bool :=
  match c with
  | .visible id seq =>
    (match m.block? id with
     | none => true
     | some b => !(b.sb.any fun e => e.seq == seq) && !(b.rels.any fun r => r.seq == seq) && b.chans.all fun c => !(c.queue.any fun x => x.src == some seq) && !(c.sent.any fun s => s.src == some seq))
  | .acked id ch upto => match m.block? id with | none => true | some b => (b.chan ch).ackedUpto upto

/-- Has a grid placed a block already. -/
def Grid.started (g : Grid) : Bool := decide (g.unplaced.length < g.total)

/-- R35, R36, R285: may a grid place blocks. -/
def Mach.mayPlace (m : Mach) (g : Grid) : Bool :=
  g.valid && !g.complete && !g.killed && g.failed.isNone &&
    (match m.ctx? g.ctx with
     | some c => !c.suspended && !c.killed && (c.events.isEmpty || g.started) && (g.started || g.conds.all m.condMet)
     | none => false)

/-- R276, R313: the next block of a grid on a die: a rolled-back block first, then the lowest linear index of its chunks. -/
inductive NextBlock where
  | rolled (b : Block)
  | fresh (lin : Nat)
  deriving DecidableEq, Repr

def Mach.nextOf (m : Mach) (g : Grid) (die : Nat) : Option NextBlock :=
  match m.blocks.find? fun b => b.grid == g.num && b.place == .rolled && b.die == die with
  | some b => some (.rolled b)
  | none =>
    match leastBy (fun c => c.2.headD 0) (g.chunks.filter fun c => c.1 == die && !c.2.isEmpty) with
    | some c => c.2.head?.map .fresh
    | none => none

/-- R313: the places for a rolled-back block: another cluster, then another core of its cluster, then the same core. -/
def Mach.rolledSpots (m : Mach) (g : Grid) (b : Block) (die : Nat) : List Spot :=
  let c0 := (b.side 0).core
  let sp (skip : Nat → Bool) : List Spot := m.spots die g.ctx g.desc.paired g.desc.asks skip
  match sp fun c => c / 4 == c0 / 4 with
  | s :: _ => [s]
  | [] =>
    match sp fun c => c == c0 with
    | s :: _ => [s]
    | [] => sp fun _ => false

/-- R283: a block placed in an Anteroom that held no context, above every grid of the active context, swaps its core in at once, or as soon as the swap under way is over. -/
def Mach.swapIn (m : Mach) (prio : Nat) (spot : Spot) (before : Mach) : Mach :=
  spot.foldl
    (fun m p =>
      let k := m.core p.1
      let was := (before.core p.1).bank p.2.1
      if p.2.1 ≠ k.active ∧ was.ctx = none ∧ !(m.inBank p.1 k.active).isEmpty ∧ m.bankPriority p.1 k.active < prio then
        (if k.swapEnd = none then m.swap p.1 else m.updCore p.1 fun k => { k with again := true })
      else m)
    m

/-- R276, R313: place the next block of a grid on a die; none when it fits nowhere. -/
def Mach.placeNext (m : Mach) (g : Grid) (die : Nat) : Option Mach :=
  match m.nextOf g die with
  | none => none
  | some (.rolled b) =>
    (match m.rolledSpots g b die with
     | spot :: _ =>
       let m1 := { m with blocks := m.blocks.filter fun x => x.id != b.id }
       some ((m1.settleBlock g (b.linear g.desc) die b.lslot b.rolls spot).swapIn g.desc.priority spot m)
     | [] => none)
  | some (.fresh lin) =>
    if g.desc.coop then
      (Mach.placeAll g g.unplaced (m, [])).map fun r =>
        r.2.foldl (fun m1 spot => m1.swapIn g.desc.priority spot m) (r.1.updGrid g.num fun g => { g with chunks := [] })
    else
      (m.placeOne g die lin).map fun r =>
        (r.1.updGrid g.num fun g =>
          { g with chunks := (g.chunks.map fun c => if c.1 = die ∧ c.2.head? = some lin then (c.1, c.2.drop 1) else c).filter fun c => !c.2.isEmpty }).swapIn
          g.desc.priority r.2 m

/-- R276: the grids a die serves, in priority order, then in order of acceptance. -/
def Mach.servedGrids (m : Mach) (die : Nat) : List Grid :=
  let gs := m.grids.filter fun g => (m.nextOf g die).isSome && m.mayPlace g
  [3, 2, 1, 0].flatMap fun p => gs.filter fun g => g.desc.priority == p

/-- R447: can a saved block's record be read now. -/
def Mach.recordReady (m : Mach) (b : Block) : Bool :=
  (m.trFault false (m.trPieces b.ctx ((List.range 64).map fun i => (m.recordVa b (65536 * i), 65536)) { r := true, w := false, x := false })).isNone

/-- R447: would reading a block's record ask for a page, or meet a fault that kills. -/
def Mach.recordAsks (m : Mach) (b : Block) : Bool :=
  match m.areaFault (m.trPieces b.ctx ((List.range 64).map fun i => (m.recordVa b (65536 * i), 65536)) { r := true, w := false, x := false }) with
  | some (va, none) => m.wantsPage b.die b.ctx va 128
  | some _ => true
  | none => false

/-- R303: the saved blocks of a die that a place and their records are ready for. -/
def Mach.restoreReady (m : Mach) (die : Nat) : List Block :=
  m.blocks.filter fun b => b.die == die && m.restorable b && m.recordReady b && !(m.restoreSpots b).isEmpty

/-- The priority of a block's grid. -/
def Mach.blockPriority (m : Mach) (b : Block) : Nat := match m.grid? b.grid with | some g => g.desc.priority | none => 0

/-- R276, R303: what a distributor places next: a saved block ahead of new blocks of its priority, or the machine after a grid's next block is placed. -/
inductive Placing where
  | restore (id : Nat)
  | placed (m : Mach)
  deriving DecidableEq, Repr

def Mach.nextPlacing (m : Mach) (die : Nat) : Option Placing :=
  let saved := m.restoreReady die
  [3, 2, 1, 0].findSome? fun p =>
    match saved.find? fun b => m.blockPriority b == p with
    | some b => some (.restore b.id)
    | none => (m.servedGrids die).findSome? fun g => if g.desc.priority = p then (m.placeNext g die).map .placed else none

/-- R283: the blocks a pre-emption of cores removes from their Anterooms. -/
def Mach.anteroomIds (m : Mach) (cs : List Nat) : List Nat :=
  ((cs.flatMap fun c => (m.inBank c (1 - (m.core c).active)).map fun b => b.id)).eraseDups

/-- R283: the cores at which a block of a context and priority would fit once the Anteroom is saved, that hold only other contexts of lower priority. -/
def Mach.preemptible (m : Mach) (ctx prio : Nat) (paired : Bool) (asks : Ask1 × Ask1) (c : Nat) : Bool :=
  let cs := if paired then [c, c + 1] else [c]
  let ids := m.anteroomIds cs
  let m1 := { m with blocks := m.blocks.filter fun b => !ids.contains b.id }
  let m2 := cs.foldl (fun m c => m.updBank c (1 - (m.core c).active) fun k => { k with ctx := none }) m1
  cs.all (fun c =>
    let k := m.core c
    let a := k.bank k.active
    let b := k.bank (1 - k.active)
    k.live && a.ctx.isSome && a.ctx != some ctx && b.ctx.isSome && b.ctx != some ctx &&
      decide (m.bankPriority c k.active < prio) && decide (m.bankPriority c (1 - k.active) < prio)) &&
    (m2.spotAt ctx c paired asks).isSome

/-- R283: choose a core, or a pair, to pre-empt: the lowest active priority, then the fewest resident warps, then the lowest number. DEDUCED (log entry 81): a pair has the higher of its cores' priorities and the warps of both. -/
def Mach.victim (m : Mach) (die ctx prio : Nat) (paired : Bool) (asks : Ask1 × Ask1) : Option Nat :=
  let cs := ((List.range 20).map fun i => 20 * die + i).filter fun c => (!paired || c % 2 == 0) && m.preemptible ctx prio paired asks c
  let on (f : Nat → Nat) (g : Nat → Nat → Nat) (c : Nat) : Nat := if paired then g (f c) (f (c + 1)) else f c
  leastBy (fun c => on (fun c => m.bankPriority c (m.core c).active) max c * 100000 + on m.coreLoad (· + ·) c) cs

/-- R283: save the Anteroom's blocks, then swap the active context into it; nothing is swapped while a save waits, and nothing is done during a swap of the core. -/
def Mach.preempt (m : Mach) (c : Nat) (paired : Bool) : Mach :=
  let cs := if paired then [c, c + 1] else [c]
  if cs.any fun c => (m.core c).swapEnd.isSome then m
  else
  let r := (m.anteroomIds cs).foldl
    (fun (r : Mach × Bool) id =>
      let q := r.1.saveBlock id
      (q.1, r.2 && q.2))
    (m, true)
  if r.2 then cs.foldl (fun m c => m.swap c) r.1 else r.1

/-- R313: a relaunched block of a cooperative grid that fits nowhere: it takes a place on another die of the grid, or the grid fails. -/
def Mach.coopRelaunch (m : Mach) (g : Grid) (b : Block) : Mach :=
  let others := (m.diesLeft g b.die).filterMap fun d => (m.rolledSpots g b d).head?.map fun s => (d, s)
  match others with
  | (d, spot) :: _ =>
    let m1 := { m with blocks := m.blocks.filter fun x => x.id != b.id }
    (m1.settleBlock g (b.linear g.desc) d b.lslot b.rolls spot).swapIn g.desc.priority spot m
  | [] => m.failGrid g.num 7

/-- R283, R313: what a distributor does when nothing it serves fits: a cooperative relaunch, or a pre-emption for the first grid served. -/
def Mach.makeWay (m : Mach) (die : Nat) : Mach :=
  match (m.servedGrids die).findSome? fun g => match m.nextOf g die with | some (.rolled b) => if g.desc.coop then some (g, b) else none | _ => none with
  | some (g, b) => m.coopRelaunch g b
  | none =>
    match (m.servedGrids die).findSome? fun g => (m.victim die g.ctx g.desc.priority g.desc.paired g.desc.asks).map fun c => (g, c) with
    | some (g, c) => m.preempt c g.desc.paired
    | none => m

/-- BLOCK_PLACEMENT, R276: one block, or one cooperative grid, of the first grid that fits; else room is made (R283). -/
def Mach.placement (m : Mach) (die : Nat) : Mach :=
  match m.nextPlacing die with
  | some (.placed m1) => m1
  | some (.restore _) => m
  | none => m.makeWay die

def execBlockPlacement (die : Nat) (s : State) : Host.Outcome State Fault Refusal := s.event fun m => m.placement die

/-- BLOCK_RESTORE, R283, R303: a saved block takes a place, swapped in or pre-empting as a new block of its priority would. -/
def Mach.restore (m : Mach) (id : Nat) : Mach :=
  match m.block? id with
  | none => m
  | some b =>
    if !m.restorable b && b.place != .restoring then m
    else if b.place == .saved && (m.restoreSpots b).isEmpty then
      let asks := (b.sideAsk 0, b.sideAsk 1)
      let p := m.blockPriority b
      let at_ := if b.drained then m.victim b.die b.ctx p b.paired asks
        else if m.preemptible b.ctx p b.paired asks (b.side 0).core then some (b.side 0).core else none
      (match at_ with
       | some c => m.preempt c b.paired
       | none => m)
    else
      let r := m.restoreBlock id
      match r.2, r.1.block? id with
      | true, some x => r.1.swapIn (m.blockPriority b) (x.sides.map fun s => (s.core, s.bank, s.tagFirst)) m
      | _, _ => r.1

def execBlockRestore (blk : Nat) (s : State) : Host.Outcome State Fault Refusal := s.event fun m => m.restore blk

/-- R275, R278: is a chunk still whole: none of its blocks is placed, so that its first is that of an eight. -/
def wholeChunk (c : Nat × List Nat) : Bool := c.2.headD 0 % 8 == 0 && !c.2.isEmpty

/-- R278: the unplaced chunks of a grid on a die; one that is partly placed is its die's alone. -/
def Grid.chunksOn (g : Grid) (die : Nat) : Nat := (g.chunks.filter fun c => c.1 == die && wholeChunk c).length

/-- R278: the die a thief with no unplaced block of the grid asks: the one with the most unplaced chunks, the lowest on ties. -/
def Mach.stealFrom (m : Mach) (g : Grid) (die : Nat) : Option (Nat × Nat) :=
  if !g.dies.contains die || (m.nextOf g die).isSome || g.desc.coop then none
  else
    match bestBy g.chunksOn (List.range 8) with
    | some v => if g.chunksOn v = 0 || g.refused.contains (die, v, g.chunksOn v) then none else some (v, g.chunksOn v)
    | none => none

/-- R278: hand over the last n chunks of a die, which are those of the greatest indices. -/
def moveLast (v t n : Nat) (cs : List (Nat × List Nat)) : List (Nat × List Nat) :=
  let mine := sortBy id ((cs.filter fun c => c.1 == v && wholeChunk c).map fun c => c.2.headD 0)
  let last := mine.drop (mine.length - n)
  cs.map fun c => if c.1 = v ∧ last.contains (c.2.headD 0) then (t, c.2) else c

/-- STEAL, R278. -/
def Mach.steal (m : Mach) (die n : Nat) : Mach :=
  match m.grid? n with
  | none => m
  | some g =>
    if !m.mayPlace g || !m.dieLive die then m
    else
      match m.stealFrom g die with
      | none => m
      | some (v, r) =>
        m.updGrid n fun g =>
          if 2 ≤ r then { g with chunks := moveLast v die (r / 2) g.chunks }
          else { g with refused := (die, v, r) :: g.refused.filter fun q => !(q.1 == die && q.2.1 == v) }

def execSteal (die grid : Nat) (s : State) : Host.Outcome State Fault Refusal := s.event fun m => m.steal die grid

/-- R194, R223: has everything of a block left it. -/
def Block.quiet (b : Block) : Bool :=
  b.place == .gone && b.sb.isEmpty && b.rels.isEmpty && b.copies.isEmpty && b.chans.all fun c => !(c.queue.any ChEnt.isOp) && c.sent.isEmpty

/-- R194, R272, R297: is a grid complete. -/
def Mach.gridDone (m : Mach) (g : Grid) : Bool :=
  !g.complete && (g.killed || (g.valid && (g.failed.isSome || g.unplaced.isEmpty))) &&
    m.blocks.all fun b => b.grid != g.num || b.quiet

/-- R286, R329: the status of a complete grid. -/
def Grid.status (g : Grid) : Nat × Nat :=
  if g.killed then (6, 0)
  else match g.failed with
    | some sub => (5, sub)
    | none => if g.execErr then (7, 0) else (0, 0)

/-- GRID_COMPLETE, R194, R286: the grid is over: its blocks are forgotten, its timeline number completes, and its command posts. -/
def Mach.completeGrid (m : Mach) (n : Nat) : Mach :=
  match m.grid? n with
  | none => m
  | some g =>
    if !m.gridDone g then m
    else
      let m1 := (m.updGrid n fun g => { g with complete := true, chunks := [] }).tlFinish g.ctx g.desc.timeline g.tlNum
      let m2 := { m1 with blocks := m1.blocks.filter fun b => b.grid != n || !b.quiet }
      match g.cmd.bind fun p => m2.cmds.find? fun c => c.q == p.1 && c.seq == p.2 with
      | some c => m2.finishCmd c g.status.2 g.status.1 g.num g.tlNum
      | none => m2

def execGridComplete (grid : Nat) (s : State) : Host.Outcome State Fault Refusal := s.event fun m => m.completeGrid grid

/-- R281: the pending warp with the largest wait count of 512 or more, the older on ties. -/
def Mach.exchangeWarp (m : Mach) (c : Nat) : Option (Nat × Nat) :=
  let k := m.core c
  let ps := (m.coreWarps c).filter fun p => !k.actSet.contains (p.1.id, p.2.num) && decide (512 ≤ p.2.waitCnt)
  (bestBy (fun p => p.2.waitCnt) ps).map fun p => (p.1.id, p.2.num)

/-- WARP_EXCHANGE, R281: it joins the active set, and the warp longest in it leaves. -/
def Mach.exchange (m : Mach) (c : Nat) : Mach :=
  match m.exchangeWarp c with
  | none => m
  | some p =>
    let m1 := m.updCore c fun k => { k with actSet := k.actSet.drop 1 ++ [p], exch := some m.clock }
    m1.updWarp p.1 p.2 fun w => { w with waitCnt := 0 }

def execWarpExchange (core : Nat) (s : State) : Host.Outcome State Fault Refusal := s.event fun m => m.exchange core

/-- PATH_AGED, R50, R429: paths whose counter has reached 256 become aged, lose a yield mark and move to the front in their order. -/
def Warp.ageFront (w : Warp) : Warp :=
  let due (p : Path) : Bool := !p.aged && decide (256 ≤ p.age)
  { w with paths := ((w.paths.filter due).map fun p => { p with aged := true, yield := false }) ++ w.paths.filter fun p => !due p }

def execPathAged (blk warp : Nat) (s : State) : Host.Outcome State Fault Refusal := s.event fun m => m.updWarp blk warp Warp.ageFront

/-- R53: the path of a watching lane is ready again. -/
def Mach.pollReady (m : Mach) (blk warp lane : Nat) (due : Run → Bool) : Mach :=
  m.updWarp blk warp fun w => if due (w.lane lane).run then w.updLanes (w.pathOf lane) fun l => if due l.run then { l with run := .ready } else l else w

/-- R53: has a watch seen a store or an invalidation. -/
def Run.woken (r : Run) : Bool := match r with | .watching _ _ w => w | _ => false

/-- R53: have a watch's 1,024 cycles passed. -/
def Run.expired (clock : Nat) (r : Run) : Bool := match r with | .watching t _ _ => decide (t ≤ clock) | _ => false

/-- POLL_WATCH_WAKE, R53. -/
def execPollWatchWake (blk warp lane : Nat) (s : State) : Host.Outcome State Fault Refusal := s.event fun m => m.pollReady blk warp lane Run.woken

/-- POLL_WATCH_EXPIRY, R53. -/
def execPollWatchExpiry (blk warp lane : Nat) (s : State) : Host.Outcome State Fault Refusal :=
  s.event fun m => m.pollReady blk warp lane (Run.expired m.clock)

/-- R282: does the Anteroom of a core hold a context with a ready path. -/
def Mach.anteroomReady (m : Mach) (gate : Gate) (c : Nat) : Bool :=
  let a := 1 - (m.core c).active
  (m.inBank c a).any fun b => !b.stopped && b.warps.any fun w => (b.side w.side).core == c && (b.side w.side).bank == a && !(m.offers gate b w).isEmpty

/-- R282: does a core swap: its active context has been idle for 64 cycles while the Anteroom has a ready path, or has no block while the Anteroom's has. -/
def Mach.swapDue (m : Mach) (gate : Gate) (c : Nat) : Bool :=
  let k := m.core c
  k.swapEnd.isNone &&
    (((m.inBank c k.active).isEmpty && !(m.inBank c (1 - k.active)).isEmpty) ||
      ((match k.idle with | some t => decide (t + 64 ≤ m.clock) | none => false) && m.anteroomReady gate c))

/-- BANK_SWAP, R282. -/
def Mach.bankSwap (m : Mach) (c : Nat) : Mach := if m.swapDue unitGate c then m.swap c else m

def execBankSwap (core : Nat) (s : State) : Host.Outcome State Fault Refusal := s.event fun m => m.bankSwap core

end Sys2Proof.Machine
end

