-- ==== Sys2Proof/Machine/Own.lean ====
section
/-! DEFINITION. The machine's own events: those due in a cycle, which come first and take no cycle, and those that can happen, of which one is taken in turn (log entry 2). -/

namespace Sys2Proof.Machine

/-- The blocks in a place. -/
def Mach.placedBlocks (m : Mach) : List Block := m.blocks.filter fun b => b.place == .placed

/-- R266, R300, R36: events of the package that are due. -/
def Mach.dueClock (m : Mach) : Option Instr :=
  if m.grantDue then some (.tokenGrant m.temp)
  else
    match m.cores.findIdx? fun k => match k.swapEnd with | some t => decide (t ≤ m.clock) | none => false with
    | some c => some (.swapComplete c)
    | none => (m.ctxs.find? fun c => c.overdue m.clock).map fun c => .contextSuspend c.id

/-- R233, R235, R234, R237: events of the fabric that are due. -/
def Mach.dueFabric (m : Mach) : Option Instr :=
  match m.mgmt.find? fun p => p.2.2 == 0 with
  | some p => some (.linklost p.1)
  | none =>
    match (List.range 26).find? m.halvingDue with
    | some i => some (.linkHalving i)
    | none =>
    match (List.range 26).find? m.silent with
    | some i => some (.linkSilenceTimeout i)
    | none =>
    match m.limitDue with
    | some e => some e
    | none =>
      m.slots.zipIdx.findSome? fun ss => (ss.1.findIdx? fun k => k.overdue m.clock || k.freeDue m.clock).map fun i =>
        if (m.slot ss.2 i).overdue m.clock then .slotDeadline ss.2 i else .slotFree ss.2 i

/-- R204, R50, R53: events of a block that are due. -/
def Mach.dueBlock (m : Mach) (b : Block) : Option Instr :=
  match b.chans.findIdx? fun c => c.queue.any fun x => match x.hold with | some t => decide (t ≤ m.clock) | none => false with
  | some ch => some (.mergeHoldExpiry b.id ch)
  | none =>
    b.warps.findSome? fun w =>
      match w.lanes.findIdx? fun l => l.run.woken with
      | some l => some (.pollWatchWake b.id w.num l)
      | none =>
        match w.lanes.findIdx? fun l => l.run.expired m.clock with
        | some l => some (.pollWatchExpiry b.id w.num l)
        | none => if w.paths.any fun p => !p.aged && decide (256 ≤ p.age) then some (.pathAged b.id w.num) else none

/-- R276, R303: has any die something to place. -/
def Mach.anyToPlace (m : Mach) : Bool :=
  (m.grids.any fun g => !g.complete && !g.chunks.isEmpty) || m.blocks.any fun b => b.place == .saved || b.place == .restoring || b.place == .rolled

/-- R276, R303: a placement that is due. -/
def Mach.duePlace (m : Mach) : Option Instr :=
  if m.anyToPlace then
    (List.range 8).findSome? fun d =>
      match m.nextPlacing d with
      | some (.restore id) => some (.blockRestore id)
      | some (.placed _) => some (.blockPlacement d)
      | none => none
  else none

/-- R281, R282, R91: what is due on the cores that hold a block. -/
def Mach.dueCore (m : Mach) : Option Instr :=
  m.busyCores.findSome? fun c =>
    if m.swapDue unitGate c then some (.bankSwap c)
    else if m.cellarDue c then some (.cellarStart c)
    else if (m.exchangeWarp c).isSome && (m.core c).exch != some m.clock then some (.warpExchange c)
    else none

/-- The first of two. -/
def orElse (a : Option Instr) (b : Option Instr) : Option Instr := match a with | some x => some x | none => b

/-- The event due in this cycle, if any. -/
def Mach.due (m : Mach) : Option Instr :=
  orElse m.dueClock (orElse m.dueFabric (orElse (m.blocks.findSome? m.dueBlock) (orElse m.duePlace m.dueCore)))

/-- R105, R293: what can happen to a block's warps: results arrive, and parked sub-warps replay. -/
def Mach.ownWarps (m : Mach) (b : Block) : List Instr :=
  b.warps.flatMap fun w =>
    let can (e : Entry) : Bool :=
      !e.done && (match e.pend with
        | .value => true
        | .sample n => n != 0x019
        | .load .. => (chainOf ((w.rb.filter fun y => y.seq < e.seq).reverse) [e]).all fun y => y.performable m b w
        | .atom _ _ => (chainOf ((w.rb.filter fun y => y.seq < e.seq).reverse) [e]).all fun y => y.performable m b w
        | .tfirst _ => (chainOf ((w.rb.filter fun y => y.seq < e.seq).reverse) [e]).all fun y => y.performable m b w
        | _ => false)
    ((w.rb.filter can).map fun e => .longResultArrival b.id w.num e.seq) ++
      ((w.lanes.findIdx? fun l => m.replayDue l.run).map fun l => .subwarpReplay b.id w.num l).toList

/-- R181, R446, R166, R205, R214: what can happen to a block's stores, copies and channels. -/
def Mach.ownBlock (m : Mach) (b : Block) : List Instr :=
  ((m.unseen b).head?.map fun s => .entryVisibleAtDieScope b.id s).toList ++
    (if b.place != .saved && b.place != .restoring && (b.chan 0).queue.length < 64 && b.sb.any fun e => (e.released || e.tst) && homeOf (e.sector * 128) != (m.rmap.pkg, b.die) then [.ch0RoomEnqueue b.id] else []) ++
    (if b.place == .placed then ((b.copies.find? fun q => m.copyReady b q.tag).map fun q => .copyComplete b.id q.tag).toList else []) ++
    ((List.range b.nchan).filter fun ch => m.canSend b ch).map (fun ch => .packetSend b.id ch) ++
    ((List.range b.nchan).filter fun ch => (b.chan ch).dests.any fun d => d.valid && (match d.retryAt with | some t => decide (t ≤ m.clock) | none => false)).map
      (fun ch => .startRetry b.id ch) ++
    (if b.place == .placed && (b.stopped || (m.ctx? b.ctx).any Ctx.suspended) then [.contextSave b.id] else []) ++ m.ownWarps b

/-- R247, R263, R268: what can happen on a core's array. -/
def Mach.ownMx (m : Mach) (c : Nat) (r : MxRun) : Option Instr :=
  if r.follower || m.clock < r.endAt then none
  else
    match m.block? r.blk with
    | none => some (.mxWordEnd c)
    | some b =>
      if b.place != .placed then (if r.miter then none else some (.mxWordEnd c))
      else if r.charged b then some (if r.miter then .miterIterationEnd c else .mxWordEnd c)
      else
        match r.iter with
        | none => none
        | some i =>
          let ch := i.op.chargeAt (b.atStart r.side i) r.side 0 i.step
          if (m.core c).grains < ch.1 || (i.pair && (m.core (b.side 1).core).grains < ch.2) then none else some (.miterPhaseStart c)

/-- R91, R92: what the Cellar of a core can do, fills ahead of spills; it waits while the host has a page of its slots to answer. -/
def Mach.ownCellar (m : Mach) (c : Nat) (k : Core) : List Instr :=
  let b := k.bank k.active
  let waits := m.faults.any fun f => f.die == c / 20 && f.access / 32 % 2 == 1 && f.answer.isNone
  if waits then []
  else if !b.fills.isEmpty then [.cellarFillComplete c]
  else if b.spill.isSome && !m.spillWaits b then [.cellarSpillComplete c] else []

def Mach.ownCores (m : Mach) : List Instr :=
  m.cores.zipIdx.flatMap fun p =>
    (match p.1.mx with | some r => (m.ownMx p.2 r).toList | none => []) ++ if p.1.banks.all (fun b => b.spill.isNone && b.fills.isEmpty) then [] else m.ownCellar p.2 p.1

/-- R272, R278, R283, R194: what the FE and the distributors can do. -/
def Mach.ownGrids (m : Mach) : List Instr :=
  (if m.grids.any fun g => !g.valid && g.failed.isNone && !g.killed && !g.complete then [.descriptorValidation] else []) ++
    ((m.grids.find? m.gridDone).map fun g => .gridComplete g.num).toList ++
    (if m.anyToPlace then
      (List.range 8).flatMap fun d =>
        (if (m.servedGrids d).any fun g =>
            (m.victim d g.ctx g.desc.priority g.desc.paired g.desc.asks).isSome ||
              (g.desc.coop && (match m.nextOf g d with | some (.rolled _) => true | _ => false)) then [.blockPlacement d] else []) ++
          ((m.blocks.filter fun b => b.die == d && (m.restorable b || (b.place == .restoring && (m.recordReady b || m.recordAsks b)))).map fun b => .blockRestore b.id) ++
          ((m.grids.filter fun g => (m.stealFrom g d).isSome && m.mayPlace g && m.dieLive d).map fun g => .steal d g.num)
    else [])

/-- R214, R232, R237: what is in flight arrives, and what is not acknowledged goes out again. -/
def Mach.ownNet (m : Mach) : List Instr :=
  ((m.net.find? fun p => (m.netAt p.id).isSome).map fun p => .escapementPacketArrival p.id).toList ++
    (((List.range m.acks.length).find? m.ackReady).map fun i => .streamAck i).toList ++
    ((m.contribs.find? fun c => (m.conAt c.id).isSome).map fun c => .slotContribution c.id).toList ++
    ((m.retain.find? fun p => p.sentAt + 100000 ≤ m.clock).map fun p => .retentionResend p.id).toList ++
    ((m.heldCon.find? fun c => c.sentAt + 100000 ≤ m.clock).map fun c => .retentionResend c.id).toList ++
    ((m.lostAsks.find? fun x => x.2 ≤ m.clock).map fun x => .retentionResend x.1).toList ++
    (if 4096 ≤ m.esc.length then ((m.esc.findIdx? fun e => e.waiting.isEmpty && decide (e.idleAt + 65536 ≤ m.clock)).map fun i => .escapementContextFree i).toList else [])

/-- R231, R235: the handshake goes on, and what was lost is sent again. -/
def Mach.ownFabric (m : Mach) : List Instr :=
  m.pairs.filterMap (fun p =>
    if p.st = 1 then some (.routesRecomputed p.src p.dst)
    else if p.st = 4 then some (.syncdone p.src p.dst)
    else if m.reachable p.src (p.dst / 16) (p.dst % 16) then some (.delivered p.src p.dst ((m.awaited p).getD 0))
    else if p.expired m.clock then some (.exchangeTimeout p.src p.dst)
    else none) ++
    ((m.mgmt.find? fun p => 0 < p.2.2 && p.2.2 ≤ m.clock).map fun p => .managementResendTimeout p.1).toList ++
    ((m.dir.find? fun d => d.suspectDue m.clock).map fun d => .suspectAckTimeout d.line).toList ++
    ((m.dir.find? fun d => match d.reissue with | some t => decide (t ≤ m.clock) | none => false).map fun d => .coherenceReissueTimeout d.line).toList

/-- R193, R318, R30, R330: what the FE does for the host. -/
def Mach.ownFe (m : Mach) : List Instr :=
  (m.ctxs.flatMap fun c => (c.tls.zipIdx.filter fun t => t.1.fin.contains (t.1.count + 1)).map fun t => .timelineAdvance c.id t.2) ++
    ((m.logs.findIdx? fun k => !k.recs.isEmpty).map fun d => .errorLogDrain d).toList ++
    ((m.chanReq.find? fun q => q.2.2).map fun q => .hbmChannelRemap q.1 q.2.1 []).toList ++ m.cmdsDue

/-- The events of the machine's own that can happen now. -/
def Mach.own (m : Mach) : List Instr :=
  m.ownCores ++ m.blocks.flatMap m.ownBlock ++ m.ownGrids ++ m.ownNet ++ m.ownFabric ++ m.ownFe

end Sys2Proof.Machine
end

