-- ==== Sys2Proof/Machine/Control.lean ====
section
/-! DEFINITION. Control words: branches, calls and returns (R344, R346, R347, R85 to R89), frames (R83, R84), sites, BAR, YIELD, EXIT, TRAP, BRK and TRET. -/

namespace Sys2Proof.Machine

/-- The lanes of Exec go on at a PC. -/
def Cx.goTo (c : Cx) (p : PC) : Cx := c.updW fun w => w.updLanes c.ex fun l => { l with pc := p }

/-- R97, R98: a bad code address: BOUNDS or ALIGN with the address and the lanes that met it. -/
def Cx.badCode (c : Cx) (e : Nat × Nat) (va : Nat) (mask : Mask) : State := c.trap e.1 e.2 va mask.toNat

/-- R98: the PC a packet offset from this word's packet names, or the address that lies outside the segment. -/
def Cx.relative (c : Cx) (off : Int) : Except Nat PC :=
  let tp : Int := (c.is.here.pk : Int) + off
  if tp < 0 ∨ (lastPacket : Int) < tp then .error (wrap 64 ((c.b.entry : Int) + 12 * tp)) else .ok ⟨tp.toNat, 0⟩

/-- The 64-bit value of a pair in the lowest lane of Exec. -/
def Cx.lowPair (c : Cx) (r : Nat) : Nat := (c.pair r c.low).toNat

/-- BRA, R344. -/
def execBra (h : Hdr) (t : BitVec 19) (s : State) : Host.Outcome State Fault Refusal :=
  s.word h [] fun c =>
    match c.relative t.toInt with
    | .error va => c.badCode (0x07, 1) va c.ex
    | .ok p => (c.goTo p).s

/-- BRX, R346. -/
def execBrx (h : Hdr) (a : BitVec 6) (s : State) : Host.Outcome State Fault Refusal :=
  s.word h (pairRegs a) fun c =>
    if !c.allU [a.toNat, a.toNat + 1] then c.trap 0x03 0 0 0
    else
      match codePc c.b.entry (c.lowPair a.toNat) with
      | .error e => c.badCode e (c.lowPair a.toNat) c.ex
      | .ok p => (c.goTo p).s

/-- R84: the lines of the path's granted request, as its group issues again. -/
def Cx.granted (c : Cx) : Option Nat := match (c.w.lane c.low).run with | .granted n => some n | _ => none

/-- R84: is the pool charged for n lines now: by an earlier grant, or because the queue is empty and the lines are free. -/
def Cx.allocates (c : Cx) (n : Nat) : Bool :=
  let s := c.b.side c.w.side
  c.granted == some n || (((c.s.m.core s.core).bank s.bank).queue.isEmpty && decide (n ≤ c.s.m.freeLines s.core s.bank))

/-- R84: the path blocks in allocation and its request joins the queue; kind 1 a CALL, 2 a GROW. -/
def Cx.block (c : Cx) (kind n : Nat) : State :=
  let s := c.b.side c.w.side
  c.waitAs fun m =>
    let m1 := m.updWarp c.is.blk c.is.warp fun w =>
      let w1 := w.updLanes c.is.lanes fun l => if l.run == .ready || c.granted.isSome then { l with run := .alloc } else l
      { w1 with blocked := m.clock }
    m1.updBank s.core s.bank fun k =>
      { k with queue := AllocReq.insert { kind := kind, blk := c.is.blk, warp := c.is.warp, lanes := c.is.lanes, fid := c.fid, lines := n, age := m.clock } k.queue }

/-- R81: the lowest free frame id. -/
def Warp.freeFid (w : Warp) : Nat := ((List.range 256).find? fun i => w.frames.all fun f => f.id != i).getD 0

/-- R85: a new frame of a warp, its registers 0 with tag U. -/
def Warp.addFrame (w : Warp) (id size level : Nat) (members : Mask) : Warp :=
  { w with
    frames := w.frames ++ [{ id := id, level := level, size := size, members := members, regs := List.replicate size (.u 0), resident := true, slots := [], clob := 0, order := w.nextOrd }],
    nextOrd := w.nextOrd + 1 }

/-- The byte address of the word after the group: the return address of a call. -/
def Cx.returnAddr (c : Cx) : Nat := c.b.entry + c.is.npc.offset

/-- R82, R86: push a return entry for each lane of Exec; the oldest on-chip entry of a full stack first goes to local memory, after the lane's earlier accesses. -/
def Cx.push (c : Cx) (k : Cx → State) : State :=
  let full := c.lanes.filter fun l => 16 ≤ (c.w.lane l).stack.length
  let rs := full.map fun l => c.localAccess l (16 * ((c.w.lane l).depth - 16)) 16 { r := false, w := true, x := false }
  c.stackChecked rs fun c accs => c.settledIf (accs.map fun a => a.1) fun c =>
    let oldest (l : Nat) : RetEnt := ((c.w.lane l).stack.getLast?).getD { addr := 0, fid := 0 }
    let items := accs.filterMap fun a => match a.1.loc with | .glob key => some (a.1.va, key, (oldest a.1.lane).bytes) | .shared _ => none
    (c.upd fun m => m.touchAll accs true).stores items fun c =>
      let ra := c.returnAddr
      k (c.updW fun w => w.updLanes c.ex fun l =>
        { l with depth := l.depth + 1, stack := { addr := ra, fid := c.fid } :: l.stack.take 15 })

/-- R85: the frame of a call with demand: charged, then made the current frame of Exec. -/
def Cx.callFrame (c : Cx) (size : Nat) (target : PC) : State :=
  c.push fun c =>
    let c1 : Cx :=
      if size = 0 then c
      else
        let id := c.w.freeFid
        let level := match c.w.frame? c.fid with | some f => f.level + 1 | none => 1
        c.updW fun w => (w.addFrame id size level c.ex).updLanes c.ex fun l => { l with fid := id }
    (c1.goTo target).s

/-- R85, R347: the checks of a call after its target, then the call. -/
def Cx.call (c : Cx) (dm : Nat) (target : PC) : State :=
  let size := 8 * dm
  if c.lanes.any fun l => (c.w.lane l).depth == 64 then c.trap 0x0B 4 0 0
  else if size ≠ 0 ∧ 256 ≤ c.w.frames.length then c.trap 0x0B 6 0 0
  else if size ≠ 0 ∧ !c.allocates (c.b.lines size) then c.block 1 (c.b.lines size)
  else c.callFrame size target

/-- CALL, R347: e is DM, t the packet offset. -/
def execCall (h : Hdr) (e : BitVec 3) (t : BitVec 16) (s : State) : Host.Outcome State Fault Refusal :=
  s.word h [] fun c =>
    match c.relative t.toInt with
    | .error va => c.badCode (0x07, 1) va c.ex
    | .ok p => c.call e.toNat p

/-- CALLX, R347. -/
def execCallx (h : Hdr) (e : BitVec 3) (a : BitVec 6) (s : State) : Host.Outcome State Fault Refusal :=
  s.word h (pairRegs a) fun c =>
    if !c.allU [a.toNat, a.toNat + 1] then c.trap 0x03 0 0 0
    else
      match codePc c.b.entry (c.lowPair a.toNat) with
      | .error e => c.badCode e (c.lowPair a.toNat) c.ex
      | .ok p => c.call e.toNat p

/-- R86: the newest n return entries of a lane: those on chip, then those read back from its slots, newest first. -/
def Cx.topEntries (c : Cx) (l n : Nat) (back : List (Nat × RetEnt)) : List RetEnt :=
  let on := (c.w.lane l).stack
  on.take n ++ (List.range (n - on.length)).map fun i =>
    match back.find? fun p => p.1 == (c.w.lane l).depth - 1 - on.length - i with
    | some p => p.2
    | none => { addr := 0, fid := 0 }

/-- R86, R89: the frames a lane leaves as it pops entries from frame cur; none when an entry names no live frame it is still a member of. -/
def framesPassed (known : RetEnt → Bool) (cur : Nat) (left : List Nat) : List RetEnt → Option (List Nat)
  | [] => some left
  | e :: es =>
    let left1 := if e.fid = cur then left else cur :: left
    if known e && !left1.contains e.fid then framesPassed known e.fid left1 es else none

/-- R86, R88, R89, R402, R426: pop n entries in every lane of Exec, leave the frames passed, and continue at the last entry's address; entries read back from memory are read as a load would (R82, R177). n is at most every lane's depth. -/
def Cx.popN (c : Cx) (n : Nat) : State :=
  let spilled (l : Nat) : List Nat :=
    let on := (c.w.lane l).stack.length
    (List.range (n - on)).map fun i => (c.w.lane l).depth - 1 - on - i
  let rs := c.lanes.flatMap fun l => (spilled l).map fun i => c.localAccess l (16 * i) 16 { r := true, w := false, x := false }
  c.stackChecked rs fun c accs => c.settledIf (accs.map fun a => a.1) fun c => c.arrived (accs.map fun a => a.1) fun c =>
    let slot (a : Access) : Nat := (a.va - c.is.base.localVa c.b c.w a.lane 0) / 16
    let back (l : Nat) : List (Nat × RetEnt) :=
      accs.filterMap fun a => if a.1.lane = l then some (slot a.1, RetEnt.ofBytes (c.s.m.readAccess c.now false a.1)) else none
    let ents (l : Nat) : List RetEnt := c.topEntries l n (back l)
    let known (l : Nat) (e : RetEnt) : Bool := match c.w.frame? e.fid with | some f => f.members.getLsbD l | none => false
    let passed (l : Nat) : Option (List Nat) := framesPassed (known l) (c.w.lane l).fid [] (ents l)
    let last (l : Nat) : RetEnt := ((ents l).getLast?).getD { addr := 0, fid := 0 }
    let target (l : Nat) : Except (Nat × Nat) PC := codePc c.b.entry (last l).addr
    if c.lanes.any fun l => (passed l).isNone then c.trap 0x0C 3 0 0
    else
      match c.lanes.findSome? fun l => (match target l with | .error e => some (l, e) | .ok _ => none) with
      | some (l, e) =>
        c.badCode e (last l).addr (c.ex &&& maskOf fun k => match target k with | .error d => d.1 == e.1 | .ok _ => false)
      | none =>
        let c1 := (c.upd fun m => m.touchAll accs false).updW fun w =>
          let w1 := c.lanes.foldl
            (fun (w : Warp) l =>
              ((passed l).getD []).foldl (fun (w : Warp) f => w.leave (bit l) f) w) w
          (w1.mapLanes c.ex fun l k =>
            { k with pc := (match target l with | .ok p => p | .error _ => k.pc), fid := (last l).fid, depth := k.depth - n, stack := k.stack.drop n }).sitesCheck
        (c1.upd fun m => (m.grantsFor c.b c.w).awaitFill c.b c.is.warp c.ex).s

/-- RET, R88. -/
def execRet (h : Hdr) (s : State) : Host.Outcome State Fault Refusal :=
  s.word h [] fun c => if c.lanes.any fun l => (c.w.lane l).depth == 0 then c.trap 0x0C 1 0 0 else c.popN 1

/-- UNWIND, R89. -/
def execUnwind (h : Hdr) (a : BitVec 6) (s : State) : Host.Outcome State Fault Refusal :=
  s.word h [a.toNat] fun c =>
    let n := (c.val a.toNat c.low).toNat
    if !c.allU [a.toNat] then c.trap 0x03 0 0 0
    else if n = 0 then c.trap 0x13 1 0 0
    else if c.lanes.any fun l => (c.w.lane l).depth < n then c.trap 0x13 2 0 0
    else c.popN n

/-- R83: the checks GROW and SHRINK share; k goes on with the frame's size and the count. -/
def Cx.resize (c : Cx) (a : BitVec 6) (k : Nat → Nat → State) : State :=
  if !c.allU [a.toNat] then c.trap 0x03 0 0 0
  else
    let n := (c.val a.toNat c.low).toNat
    let size := match c.w.frame? c.fid with | some f => f.size | none => 0
    if !subset (c.w.liveSet c.fid 0) c.ex then c.trap 0x0B 2 0 0
    else if n = 0 ∨ n % 8 ≠ 0 then c.trap 0x0B 3 0 0
    else k size n

/-- R83: n registers join the frame, 0 with tag U. -/
def Cx.growBy (c : Cx) (n : Nat) : Cx :=
  c.updW fun w => w.updFrame c.fid fun f => { f with size := f.size + n, regs := f.regs ++ List.replicate n (.u 0) }

/-- GROW, R83. -/
def execGrow (h : Hdr) (a : BitVec 6) (s : State) : Host.Outcome State Fault Refusal :=
  s.word h [a.toNat] fun c =>
    c.resize a fun size n =>
      if 56 < size + n then c.trap 0x0B 3 0 0
      else if c.allocates (c.b.lines n) then (c.growBy n).s
      else c.block 2 (c.b.lines n)

/-- GROW.try, R83, R369. -/
def execGrowTry (h : Hdr) (p : BitVec 3) (a : BitVec 6) (s : State) : Host.Outcome State Fault Refusal :=
  s.word h [a.toNat] fun c =>
    c.resize a fun size n =>
      if 56 < size + n then c.trap 0x0B 3 0 0
      else
        let d := c.b.side c.w.side
        let ok := ((c.s.m.core d.core).bank d.bank).queue.isEmpty && decide (c.b.lines n ≤ c.s.m.freeLines d.core d.bank)
        let c1 := c.shortPred p.toNat (if ok then c.ex else 0)
        if ok then (c1.growBy n).s else c1.s

/-- SHRINK, R83, R413. -/
def execShrink (h : Hdr) (a : BitVec 6) (s : State) : Host.Outcome State Fault Refusal :=
  s.word h [a.toNat] fun c =>
    c.resize a fun size n =>
      if size < n + 8 then c.trap 0x0B 3 0 0
      else
        let c1 := c.updW fun w => w.updFrame c.fid fun f => { f with size := f.size - n, regs := f.regs.take (f.size - n) }
        (c1.upd fun m => m.grantsFor c.b c.w).s

/-- DIVG, R54. -/
def execDivg (h : Hdr) (i : BitVec 13) (s : State) : Host.Outcome State Fault Refusal :=
  s.word h [] fun c =>
    (c.updW fun w =>
      let k := i.toNat
      let w1 := match w.sites[k]? with | some x => w.releaseSite k x.waiting | none => w
      let site : Site := { expected := c.ex, arrived := 0, waiting := 0, depth := c.lanes.map fun l => (l, (c.w.lane l).depth) }
      { w1 with sites := w1.sites.set k site }).s

/-- RECONV, R55. -/
def execReconv (h : Hdr) (i : BitVec 13) (s : State) : Host.Outcome State Fault Refusal :=
  s.word h [] fun c =>
    (c.afterFence.updW fun w =>
      let k := i.toNat
      match w.sites[k]? with
      | none => w
      | some x =>
        let here := c.ex &&& x.expected
        let w1 : Warp := { w with sites := w.sites.set k { x with arrived := x.arrived ||| here, waiting := x.waiting ||| here } }
        (w1.updLanes here fun l => { l with run := .reconv k }).siteCheck k).s

/-- BAR, R341, R189: the lanes' earlier accesses perform, and the lanes wait after the group. DEDUCED (log entry 94): what the group's later words do as they issue they do with it, and what performs after issue waits for the barrier. -/
def execBar (h : Hdr) (s : State) : Host.Outcome State Fault Refusal :=
  s.word h [] fun c => c.settledAll fun c => ((c.afterFence.updW fun w => w.updLanes c.ex fun l => { l with run := .bar }).updB Block.evalBar).s

/-- R429: the issuing path goes to the end of its warp's list with a yield mark. -/
def Warp.yielded (w : Warp) (lanes : Mask) : Warp :=
  let w1 := w.demote lanes
  { w1 with paths := w1.paths.map fun p => if (p.lanes &&& lanes) != 0 then { p with yield := true } else p }

/-- YIELD, R429: the path's place in its warp now, and its warp's on the core at the end of the cycle (`Mach.giveAway`). -/
def execYield (h : Hdr) (s : State) : Host.Outcome State Fault Refusal :=
  s.word h [] fun c => ((c.updW fun w => w.yielded c.is.lanes).upd Mach.markYield).s

/-- EXIT, R362: what its lanes have issued performs, the buffer is released, and the lanes exit. -/
def execExit (h : Hdr) (s : State) : Host.Outcome State Fault Refusal :=
  s.word h [] fun c => c.settledAll fun c => (c.release.upd fun m => m.exitLanes c.is.blk c.is.warp c.ex).s

/-- TRAP, R423. -/
def execTrap (h : Hdr) (i : BitVec 13) (s : State) : Host.Outcome State Fault Refusal :=
  s.word h [] fun c => c.raise (c.mkTrap 0x11 (i.toNat % 256) 0 i.toNat c.is.npc)

/-- BRK, R345. -/
def execBrk (h : Hdr) (i : BitVec 13) (s : State) : Host.Outcome State Fault Refusal :=
  s.word h [] fun c => c.raise (c.mkTrap 0x12 0 0 i.toNat c.is.npc)

/-- R291: what TRET reads of a lane's frame: resume packet and slot, saved g7, G7U. -/
structure TretFrame where
  pk  : Nat
  sl  : Nat
  g7  : Word
  g7u : Bool
  deriving DecidableEq, Repr

def tretFrame (bs : List Byte) : TretFrame :=
  { pk := fieldAt bs 8 4 % 2 ^ 21, sl := fieldAt bs 3 1 / 4 % 4, g7 := BitVec.ofNat 32 (fieldAt bs 0x30 4), g7u := (fieldAt bs 2 1).testBit 2 }

/-- TRET, R291; lanes that return into a spilled frame wait for its fill (R92). -/
def execTret (h : Hdr) (s : State) : Host.Outcome State Fault Refusal :=
  s.word h [] fun c =>
    if c.lanes.any fun l => !(c.w.lane l).handler then c.trap 0x01 2 0 0
    else
      let off := c.is.base.sliceSize c.b - 64
      let rs := c.lanes.map fun l => c.localAccess l off 64 { r := true, w := false, x := false }
      c.checked rs 1 c.b.die fun c accs => c.settled (accs.map fun a => a.1) fun c => c.arrived (accs.map fun a => a.1) fun c =>
        let bytes (l : Nat) : List Byte := (accs.find? fun a => a.1.lane == l).elim [] fun a => c.s.m.readAccess c.now false a.1
        let fr (l : Nat) : TretFrame := tretFrame (bytes l)
        match c.lanes.find? fun l => lastPacket < (fr l).pk || (fr l).sl == 3 with
        | some l =>
          let t := c.mkTrap 0x01 4 0 0 c.is.group
          c.undo fun m => m.killGrid c.b.grid (killRec c.b c.is.warp t 0x01 4 1 c.ex.toNat) (some (bytes l))
        | none =>
          let v := (fr c.low).g7
          let g7 : RVal := if c.lanes.all fun l => (fr l).g7u && (fr l).g7 == v then .u v else RVal.lanes c.W fun l => (fr l).g7
          let c1 := ((c.upd fun m => m.touchAll accs false).short 63 g7).updW fun w =>
            (w.mapLanes c.ex fun l k => { k with handler := false, first := [], pc := ⟨(fr l).pk, (fr l).sl⟩ }).setHeld 0 c.ex false
          (c1.upd fun m => m.awaitFill c.b c.is.warp c.ex).s

end Sys2Proof.Machine
end

