-- ==== Sys2Proof/Machine/FloatWords.lean ====
section
/-! DEFINITION. Floating-point words: FP32, FP64 and packed-half arithmetic, compares, special functions, FRND and CVT (R353, R359, R361, R365, R366, R368, R371). -/

namespace Sys2Proof.Machine

/-- R365: a short f32 result with its flags. -/
def Cx.f32Op (c : Cx) (d : BitVec 6) (srcs : List RVal) (f : Nat → Nat × Word) : State :=
  ((c.short d.toNat (RVal.perLane c.W srcs fun l => BitVec.ofNat 32 (f l).1)).flags (c.orFlags fun l => (f l).2)).s

/-- R365: a two-source f32 word. -/
def Cx.f32Bin (c : Cx) (d a b : BitVec 6) (m : Bool) (op : Nat → Nat → Nat × Word) : State :=
  let x := c.reg a.toNat
  let y := c.f32B b m
  c.f32Op d [x, y] fun l => op (x.get l).toNat (y.get l).toNat

/-- FADD, R365. -/
def execFadd (h : Hdr) (d a b : BitVec 6) (m : Bool) (s : State) : Host.Outcome State Fault Refusal :=
  s.word h ([d.toNat, a.toNat] ++ regsB b m) fun c => c.f32Bin d a b m (f32.addF c.rm c.ftz)

/-- FSUB, R365. -/
def execFsub (h : Hdr) (d a b : BitVec 6) (m : Bool) (s : State) : Host.Outcome State Fault Refusal :=
  s.word h ([d.toNat, a.toNat] ++ regsB b m) fun c => c.f32Bin d a b m (f32.subF c.rm c.ftz)

/-- FMUL, R365. -/
def execFmul (h : Hdr) (d a b : BitVec 6) (m : Bool) (s : State) : Host.Outcome State Fault Refusal :=
  s.word h ([d.toNat, a.toNat] ++ regsB b m) fun c => c.f32Bin d a b m (f32.mulF c.rm c.ftz)

/-- FMIN, R365. -/
def execFmin (h : Hdr) (d a b : BitVec 6) (m : Bool) (s : State) : Host.Outcome State Fault Refusal :=
  s.word h ([d.toNat, a.toNat] ++ regsB b m) fun c => c.f32Bin d a b m (f32.minmax c.ftz false)

/-- FMAX, R365. -/
def execFmax (h : Hdr) (d a b : BitVec 6) (m : Bool) (s : State) : Host.Outcome State Fault Refusal :=
  s.word h ([d.toNat, a.toNat] ++ regsB b m) fun c => c.f32Bin d a b m (f32.minmax c.ftz true)

/-- FFMA, R365. -/
def execFfma (h : Hdr) (d a b : BitVec 6) (m : Bool) (pf : Option (BitVec 23)) (s : State) : Host.Outcome State Fault Refusal :=
  s.word h ([d.toNat, a.toNat, thirdReg pf d] ++ regsB b m) fun c =>
    let x := c.reg a.toNat
    let y := c.f32B b m
    let z := c.reg (thirdReg pf d)
    c.f32Op d [x, y, z] fun l => f32.fmaF c.rm c.ftz (x.get l).toNat (y.get l).toNat (z.get l).toNat

/-- R361: a predicate result with its flags. -/
def Cx.predOp (c : Cx) (p : BitVec 3) (f : Nat → Bool × Word) : State :=
  ((c.shortPred p.toNat (maskOf fun l => (f l).1)).flags (c.orFlags fun l => (f l).2)).s

/-- FSETP, R361. -/
def execFsetp (h : Hdr) (p k : BitVec 3) (a b : BitVec 6) (m : Bool) (s : State) : Host.Outcome State Fault Refusal :=
  s.word h ([a.toNat] ++ regsB b m) fun c =>
    c.predOp p fun l => f32.compare c.ftz k.toNat (c.val a.toNat l).toNat ((c.f32B b m).get l).toNat

/-- DSETP, R361. -/
def execDsetp (h : Hdr) (p k : BitVec 3) (a b : BitVec 6) (m : Bool) (s : State) : Host.Outcome State Fault Refusal :=
  s.word h (pairRegs a ++ pairB b m) fun c =>
    c.predOp p fun l => f64.compare false k.toNat (c.pair a.toNat l).toNat (c.f64B b m l).toNat

/-- R359: a short f64 result with its flags. -/
def Cx.f64Op (c : Cx) (d : BitVec 6) (srcs : List RVal) (f : Nat → Nat × Word) : State :=
  ((c.short64 d srcs fun l => BitVec.ofNat 64 (f l).1).flags (c.orFlags fun l => (f l).2)).s

/-- R359: a two-source f64 word. -/
def Cx.f64Bin (c : Cx) (d a b : BitVec 6) (m : Bool) (op : Nat → Nat → Nat × Word) : State :=
  c.f64Op d (c.pairSrc a ++ c.pairSrcB b m) fun l => op (c.pair a.toNat l).toNat (c.f64B b m l).toNat

/-- DADD, R359. -/
def execDadd (h : Hdr) (d a b : BitVec 6) (m : Bool) (s : State) : Host.Outcome State Fault Refusal :=
  s.word h (pairRegs d ++ pairRegs a ++ pairB b m) fun c => c.f64Bin d a b m (f64.addF c.rm false)

/-- DMUL, R359. -/
def execDmul (h : Hdr) (d a b : BitVec 6) (m : Bool) (s : State) : Host.Outcome State Fault Refusal :=
  s.word h (pairRegs d ++ pairRegs a ++ pairB b m) fun c => c.f64Bin d a b m (f64.mulF c.rm false)

/-- DMIN, R359. -/
def execDmin (h : Hdr) (d a b : BitVec 6) (m : Bool) (s : State) : Host.Outcome State Fault Refusal :=
  s.word h (pairRegs d ++ pairRegs a ++ pairB b m) fun c => c.f64Bin d a b m (f64.minmax false false)

/-- DMAX, R359. -/
def execDmax (h : Hdr) (d a b : BitVec 6) (m : Bool) (s : State) : Host.Outcome State Fault Refusal :=
  s.word h (pairRegs d ++ pairRegs a ++ pairB b m) fun c => c.f64Bin d a b m (f64.minmax false true)

/-- DFMA, R359. -/
def execDfma (h : Hdr) (d a b : BitVec 6) (m : Bool) (pf : Option (BitVec 23)) (s : State) : Host.Outcome State Fault Refusal :=
  let z := thirdReg pf d
  s.word h (pairRegs d ++ pairRegs a ++ pairB b m ++ [z, z + 1]) fun c =>
    c.f64Op d (c.pairSrc a ++ c.pairSrcB b m ++ [c.reg z, c.reg (z + 1)]) fun l =>
      f64.fmaF c.rm false (c.pair a.toNat l).toNat (c.f64B b m l).toNat (c.pair z l).toNat

/-- R371: the element format of a packed-half word, and whether FTZ applies to it (R128). -/
def Cx.halfFmt (c : Cx) (pf : Option (BitVec 23)) : Fmt × Bool := if pfBit pf 2 then (bf16, false) else (f16, c.ftz)

/-- R371: the second operand of a packed-half word: the immediate fills both halves. -/
def Cx.halfB (c : Cx) (b : BitVec 6) (m : Bool) (f : Fmt) : RVal :=
  if m then .u (BitVec.ofNat 32 (65537 * f.ofNat b.toNat)) else c.reg b.toNat

/-- R371: a packed-half word. -/
def Cx.halfOp (c : Cx) (d : BitVec 6) (x y z : RVal) (srcs : List RVal) (f : Nat → Nat → Nat → Nat × Word) : State :=
  let r (l : Nat) : Word × Word := halves f (x.get l) (y.get l) (z.get l)
  ((c.short d.toNat (RVal.perLane c.W srcs fun l => (r l).1)).flags (c.orFlags fun l => (r l).2)).s

/-- HADD2, R371. -/
def execHadd2 (h : Hdr) (d a b : BitVec 6) (m : Bool) (pf : Option (BitVec 23)) (s : State) : Host.Outcome State Fault Refusal :=
  s.word h ([d.toNat, a.toNat] ++ regsB b m) fun c =>
    let f := c.halfFmt pf
    let x := c.reg a.toNat
    let y := c.halfB b m f.1
    c.halfOp d x y x [x, y] fun p q _ => f.1.addF c.rm f.2 p q

/-- HMUL2, R371. -/
def execHmul2 (h : Hdr) (d a b : BitVec 6) (m : Bool) (pf : Option (BitVec 23)) (s : State) : Host.Outcome State Fault Refusal :=
  s.word h ([d.toNat, a.toNat] ++ regsB b m) fun c =>
    let f := c.halfFmt pf
    let x := c.reg a.toNat
    let y := c.halfB b m f.1
    c.halfOp d x y x [x, y] fun p q _ => f.1.mulF c.rm f.2 p q

/-- HFMA2, R371. -/
def execHfma2 (h : Hdr) (d a b : BitVec 6) (m : Bool) (pf : Option (BitVec 23)) (s : State) : Host.Outcome State Fault Refusal :=
  s.word h ([d.toNat, a.toNat, thirdReg pf d] ++ regsB b m) fun c =>
    let f := c.halfFmt pf
    let x := c.reg a.toNat
    let y := c.halfB b m f.1
    let z := c.reg (thirdReg pf d)
    c.halfOp d x y z [x, y, z] fun p q r => f.1.fmaF c.rm f.2 p q r

/-- R366: a special function, a long result whose flags count at issue (R132). -/
def Cx.sfuWord (c : Cx) (fn : Nat) (d a : BitVec 6) : State :=
  let x := c.reg a.toNat
  let r (l : Nat) : Nat × Word := sfuOp fn c.rm c.ftz (x.get l).toNat
  ((c.long d.toNat [RVal.perLane c.W [x] fun l => BitVec.ofNat 32 (r l).1]).flags (c.orFlags fun l => (r l).2)).s

/-- FRCP, R366. -/
def execFrcp (h : Hdr) (d a : BitVec 6) (s : State) : Host.Outcome State Fault Refusal :=
  s.word h [d.toNat, a.toNat] fun c => c.sfuWord 0 d a

/-- FRSQ, R366. -/
def execFrsq (h : Hdr) (d a : BitVec 6) (s : State) : Host.Outcome State Fault Refusal :=
  s.word h [d.toNat, a.toNat] fun c => c.sfuWord 1 d a

/-- FSQRT, R366. -/
def execFsqrt (h : Hdr) (d a : BitVec 6) (s : State) : Host.Outcome State Fault Refusal :=
  s.word h [d.toNat, a.toNat] fun c => c.sfuWord 2 d a

/-- FEXP2, R366. -/
def execFexp2 (h : Hdr) (d a : BitVec 6) (s : State) : Host.Outcome State Fault Refusal :=
  s.word h [d.toNat, a.toNat] fun c => c.sfuWord 3 d a

/-- FLOG2, R366. -/
def execFlog2 (h : Hdr) (d a : BitVec 6) (s : State) : Host.Outcome State Fault Refusal :=
  s.word h [d.toNat, a.toNat] fun c => c.sfuWord 4 d a

/-- FSIN, R366. -/
def execFsin (h : Hdr) (d a : BitVec 6) (s : State) : Host.Outcome State Fault Refusal :=
  s.word h [d.toNat, a.toNat] fun c => c.sfuWord 5 d a

/-- FCOS, R366. -/
def execFcos (h : Hdr) (d a : BitVec 6) (s : State) : Host.Outcome State Fault Refusal :=
  s.word h [d.toNat, a.toNat] fun c => c.sfuWord 6 d a

/-- FRND, R368: type t (f32 or f64), mode x; FPMODE.RM does not apply. -/
def execFrnd (h : Hdr) (d a : BitVec 6) (t : Bool) (x : BitVec 2) (s : State) : Host.Outcome State Fault Refusal :=
  if t then
    s.word h (pairRegs d ++ pairRegs a) fun c =>
      let r (l : Nat) : Nat × Word := f64.integral x.toNat false (c.pair a.toNat l).toNat
      ((c.long d.toNat (pairVals c.W (c.pairSrc a) fun l => BitVec.ofNat 64 (r l).1)).flags (c.orFlags fun l => (r l).2)).s
  else
    s.word h [d.toNat, a.toNat] fun c =>
      let v := c.reg a.toNat
      let r (l : Nat) : Nat × Word := f32.integral x.toNat c.ftz (v.get l).toNat
      ((c.long d.toNat [RVal.perLane c.W [v] fun l => BitVec.ofNat 32 (r l).1]).flags (c.orFlags fun l => (r l).2)).s

/-- R353: the source bits of a CVT. -/
def Cx.cvtSrc (c : Cx) (st : Nat) (a : BitVec 6) (l : Nat) : Nat :=
  if st = 0 then (c.pair a.toNat l).toNat
  else if st = 2 || st = 3 then (c.val a.toNat l).toNat % 65536
  else if st = 4 || st = 5 then (c.val a.toNat l).toNat % 256
  else (c.val a.toNat l).toNat

/-- R137: where a CVT result goes: the bits it places, and how far up they stand. -/
def cvtPlaceOf (dt : Nat) (pf : Option (BitVec 23)) : Word × Nat :=
  let half := pfField pf 1 2
  let byte := pfField pf 3 2
  if half = 0 then (fullBits, 0)
  else if dt = 4 || dt = 5 then (BitVec.ofNat 32 (0xFF * 2 ^ (8 * byte)), 8 * byte)
  else if half = 2 then (0xFFFF0000#32, 16)
  else (0x0000FFFF#32, 0)

/-- CVT, R353: x names the destination type, y the source type. -/
def execCvt (h : Hdr) (d a : BitVec 6) (x y : BitVec 3) (m : Bool) (pf : Option (BitVec 23)) (s : State) : Host.Outcome State Fault Refusal :=
  let dt := x.toNat
  let st := y.toNat
  s.word h ((if dt = 0 then pairRegs d else [d.toNat]) ++ if st = 0 then pairRegs a else [a.toNat]) fun c =>
    let srcs := if st = 0 then c.pairSrc a else [c.reg a.toNat]
    let r (l : Nat) : Nat × Word := cvtOp dt st (if m then 1 else 0) c.ftz (pfBit pf 0) (c.cvtSrc st a l)
    let fl := c.orFlags fun l => (r l).2
    if dt = 0 then ((c.long d.toNat (pairVals c.W srcs fun l => BitVec.ofNat 64 (r l).1)).flags fl).s
    else
      let p := cvtPlaceOf dt pf
      ((c.enter [.reg d.toNat c.fid p.1] .value [RVal.perLane c.W srcs fun l => BitVec.ofNat 32 ((r l).1 * 2 ^ p.2)] false []).flags fl).s

end Sys2Proof.Machine
end

