-- ==== Sys2Proof/Machine/Sync.lean ====
section
/-! DEFINITION. Phase barriers (R393 to R396), fences (R185, R367), completion tags (R167, R418) and timelines (R193, R421). -/

namespace Sys2Proof.Machine

/-- R395: the check of a phase-barrier object: 8 aligned bytes wholly inside the shared window. -/
def Cx.checkObj (c : Cx) (a : BitVec 6) (l : Nat) : LaneRes :=
  let o := (c.val a.toNat l).toNat
  if o % 8 ≠ 0 then .bad l o 0x04 2 none
  else if c.b.shTotal < o + 8 then .bad l o 0x07 2 none
  else .ok { lane := l, va := o, loc := .shared o, size := 8, ops := [] } PteRef.absent false false

/-- PBINIT, R395. -/
def execPbinit (h : Hdr) (a b : BitVec 6) (s : State) : Host.Outcome State Fault Refusal :=
  s.word h [a.toNat, b.toNat] fun c =>
    c.checked (c.lanes.map (c.checkObj a)) 2 c.b.die fun c accs =>
      let o := (c.val a.toNat c.low).toNat
      let n := (c.val b.toNat c.low).toNat
      if n = 0 ∨ 65535 < n then c.trap 0x07 9 o c.ex.toNat
      else
        c.settled (accs.map fun x => x.1) fun c =>
          (c.updB fun b => b.sharedWrite o (leBytes 2 n ++ leBytes 2 n ++ leBytes 4 0)).s

/-- PBARR, R395, R396: a release at block scope: the lanes' earlier accesses perform first. -/
def execPbarr (h : Hdr) (a : BitVec 6) (s : State) : Host.Outcome State Fault Refusal :=
  s.word h [a.toNat] fun c =>
    c.checked (c.lanes.map (c.checkObj a)) 2 c.b.die fun c accs =>
      c.settledAll fun c =>
        (c.updB fun b => (accs.foldl (fun b x => b.arrivePb x.1.va) b).pbWake).s

/-- PBWAIT, R395: the path waits at it until the wait is done for each lane of Exec; earlier acquires of the lanes come first (R185). -/
def execPbwait (h : Hdr) (a b : BitVec 6) (s : State) : Host.Outcome State Fault Refusal :=
  s.word h [a.toNat, b.toNat] fun c =>
    c.checked (c.lanes.map (c.checkObj a)) 1 c.b.die fun c accs =>
      c.settled (accs.map fun x => x.1) fun c =>
        let qs := c.lanes.map fun l => ((c.val a.toNat l).toNat, (c.val b.toNat l).toNat)
        if qs.all (pbDone c.now.shared) then c.s else c.waitIn id (.pbwait qs)

/-- FENCE, R367, R185: earlier accesses of the lanes perform; .pair and .die release the block and wait until the entries homed on the die are visible and the earlier ST.rel stores have performed; behind a BAR of the same group they are made visible at once. -/
def execFence (h : Hdr) (i : BitVec 13) (s : State) : Host.Outcome State Fault Refusal :=
  s.word h [] fun c =>
    c.settledAll fun c =>
      if i = 0 then c.s
      else
        let c1 := c.release
        let waits := c1.s.m.unperformed c1.now
        let free := c.lanes.all fun l => (((c.s.m.warp? c.is.blk c.is.warp).getD c.w).lane l).run == .ready
        if waits.isEmpty then c1.s
        else if !free then (c1.upd fun m => m.allVisible c.is.blk).s
        else (c1.updW fun w => w.updLanes c.ex fun l => { l with run := .fence waits }).s

/-- R418: the tag mask in the lowest lane; a bit at or above the block's count traps TAG. -/
def Cx.tagMask (c : Cx) (a : BitVec 6) (k : Nat → State) : State :=
  let mask := (c.pair a.toNat c.low).toNat
  if 2 ^ c.b.ntags ≤ mask then c.trap 0x14 2 0 0 else k mask

/-- R167, R168, R418: a TWAIT that finds its tags ready goes on, or consumes the error latched on one; else the path waits at it, and goes on when they have been ready (`tagWake`). -/
def Cx.twait (c : Cx) (all : Bool) (a : BitVec 6) : State :=
  c.tagMask a fun mask =>
    match c.s.m.block? c.is.blk with
    | none => c.s
    | some b =>
      if (c.w.lane c.low).run == .drained then c.s
      else if b.tagsDone all mask then
        (match b.tagLatch mask with
         | none => c.s
         | some t => Cx.consume (c.standing fun m => m.updBlock c.is.blk fun b => { b with tagErr := b.tagErr.filter fun q => q != t }) 0x0F 2 (some t.2))
      else c.waitIn id (.tag all mask c.is.here)

/-- TWAIT.any, R418. -/
def execTwaitAny (h : Hdr) (a : BitVec 6) (s : State) : Host.Outcome State Fault Refusal :=
  s.word h (pairRegs a) fun c => c.twait false a

/-- TWAIT.all, R418. -/
def execTwaitAll (h : Hdr) (a : BitVec 6) (s : State) : Host.Outcome State Fault Refusal :=
  s.word h (pairRegs a) fun c => c.twait true a

/-- TFIRST, R418: its answer is sampled as the result arrives, before any later access of its lanes performs (R191). -/
def execTfirst (h : Hdr) (d a : BitVec 6) (s : State) : Host.Outcome State Fault Refusal :=
  s.word h (d.toNat :: pairRegs a) fun c =>
    c.tagMask a fun mask => (c.enter [.reg d.toNat c.fid fullBits] (.tfirst mask) [] true []).s

/-- TLWAIT, R193, R421: the path waits at it. -/
def execTlwait (h : Hdr) (d a : BitVec 6) (s : State) : Host.Outcome State Fault Refusal :=
  s.word h (pairRegs a) fun c =>
    let v := (c.pair a.toNat c.low).toNat
    if v ≤ c.s.m.tlCount c.b.ctx d.toNat then c.s
    else c.waitIn id (.timeline d.toNat v)

/-- TLREAD, R421. -/
def execTlread (h : Hdr) (d a : BitVec 6) (s : State) : Host.Outcome State Fault Refusal :=
  s.word h (pairRegs d) fun c =>
    (c.enter [.reg d.toNat c.fid fullBits, .reg (d.toNat + 1) c.fid fullBits] (.sample (0x3000 + a.toNat)) [] false []).s

end Sys2Proof.Machine
end

