-- ==== Sys2Proof/Machine/Sys.lean ====
section
/-! DEFINITION. Control registers (R45, R119, R352, R354), MAPACK (R37) and LAUNCH (R284). -/

namespace Sys2Proof.Machine

/-- The side whose core the warp runs on. -/
def Cx.side (c : Cx) : Side := c.b.side c.w.side

/-- The launch descriptor of the block's grid. -/
def Cx.desc (c : Cx) : Desc := match c.is.base.grids.find? fun g => g.num == c.b.grid && !g.complete with | some g => g.desc | none => Desc.ofBytes []

/-- R80: FRAMESZ of the current frame. -/
def Cx.frameSz (c : Cx) : Nat := match c.w.frame? c.fid with | some f => f.level * 2 ^ 16 + f.id * 2 ^ 8 + f.size | none => 0

/-- R45, R119: the value of a short control register. -/
def Cx.crShort (c : Cx) (n : Nat) : RVal :=
  let k (v : Nat) : RVal := .u (BitVec.ofNat 32 v)
  let s := c.side
  let ex := c.ex.toNat
  if n = 0x000 then .a 0 1
  else if n = 0x001 then k c.w.num
  else if n = 0x002 then k c.W
  else if n = 0x003 then k ex
  else if n = 0x004 then k (ex / 2 ^ 32)
  else if n = 0x005 then k c.b.bx
  else if n = 0x006 then k c.b.bY
  else if n = 0x007 then k c.b.bz
  else if n = 0x008 then k c.desc.nx
  else if n = 0x009 then k c.desc.ny
  else if n = 0x00A then k c.desc.nz
  else if n = 0x00B then .a (BitVec.ofNat 32 (c.w.num * c.W)) 1
  else if n = 0x00C then k c.b.threads
  else if n = 0x00D then k c.b.die
  else if n = 0x00E then k (s.core % 20)
  else if n = 0x00F then k c.w.side
  else if n = 0x010 then k c.w.role
  else if n = 0x015 then k 0x00010000
  else if n = 0x016 then k c.desc.param
  else if n = 0x017 then k (c.desc.param / 2 ^ 32)
  else if n = 0x018 then .u c.w.fpmode
  else if n = 0x01B then k c.frameSz
  else if n = 0x01C then RVal.lanes c.W fun l => BitVec.ofNat 32 (c.w.lane l).depth
  else if n = 0x01D then .u (lo32 c.b.trapbase)
  else if n = 0x01E then .u (hi32 c.b.trapbase)
  else if n = 0x01F then k (c.b.ntags * 2 ^ 16 + s.tagFirst)
  else if 0x030 ≤ n ∧ n < 0x040 then .u (s.tctl.getD (n - 0x030) 0)
  else if 0x040 ≤ n ∧ n < 0x060 then
    let v := s.eng.coef.getD ((n - 0x040) / 2) 0
    .u (if n % 2 = 0 then lo32 v else hi32 v)
  else if n = 0x060 then .u s.eng.mitcap
  else if n = 0x061 then .u s.eng.mittol
  else if n = 0x062 then .u s.eng.mitdiv
  else .u (c.w.vcs.getD (n - 0x068) 0)

/-- R132: is a MITER or a mirrored word of the warp running whose flags are still to come and count. -/
def Cx.miterOpen (c : Cx) : Bool :=
  c.s.m.cores.any fun k => match k.mx with | some r => r.blk == c.is.blk && r.warp == c.is.warp && r.seq.isSome && !r.dead | none => false

/-- R245: is a control register the TCTL of a tile the block does not hold. -/
def Cx.noTile (c : Cx) (n : Nat) : Bool := decide (0x030 ≤ n ∧ n < 0x040 ∧ c.b.ntiles ≤ n - 0x030)

/-- R352: a long control register read. CLOCK and FPFLAGS take their value at issue; the others are sampled as the result arrives. -/
def Cx.crLongRead (c : Cx) (d n : Nat) : State :=
  let clock := c.is.base.clock
  if n = 0x011 then ((c.long d [.u (BitVec.ofNat 32 clock)]).updW fun w => { w with clkHi := BitVec.ofNat 32 (clock / 2 ^ 32) }).s
  else if n = 0x012 then (c.long d [.u c.w.clkHi]).s
  else if n = 0x019 then
    let now := match c.s.m.warp? c.is.blk c.is.warp with | some w => w.fpflags | none => 0
    if c.miterOpen then (c.enter [.reg d c.fid fullBits] (.sample 0x019) [.u now] false []).s else (c.long d [.u now]).s
  else (c.enter [.reg d c.fid fullBits] (.sample n) [] false []).s

/-- CRD, R352. -/
def execCrd (h : Hdr) (d : BitVec 6) (r : BitVec 13) (s : State) : Host.Outcome State Fault Refusal :=
  s.word h [d.toNat] fun c =>
    if c.noTile r.toNat then c.trap 0x08 1 0 c.ex.toNat
    else if crLong r.toNat then c.crLongRead d.toNat r.toNat
    else (c.short d.toNat (c.crShort r.toNat)).s

/-- Is an f32 encoding a NaN. -/
def isNan32 (v : Word) : Bool := (v.extractLsb' 23 8) == 0xFF && (v.extractLsb' 0 23) != 0

/-- R354: the trap of an invalid CWR value: ILLOP or TILE with its sub-cause. -/
def crInvalid (n : Nat) (v : Word) : Option (Nat × Nat) :=
  let x := v.toNat
  if n = 0x018 then (if x / 8 ≠ 0 then some (0x01, 3) else none)
  else if n = 0x019 then (if x / 64 ≠ 0 then some (0x01, 3) else none)
  else if n = 0x01E then (if x / 2 ^ 20 ≠ 0 then some (0x01, 3) else none)
  else if 0x030 ≤ n ∧ n < 0x040 then
    (if x / 2 ^ 18 % 2 ^ 13 ≠ 0 ∨ 10 < x % 16 ∨ 31 < x / 16 % 64 then some (0x08, 6) else none)
  else if n = 0x060 then (if x / 256 ≠ 0 ∨ x = 0 then some (0x08, 6) else none)
  else if n = 0x061 then (if isNan32 v then some (0x08, 6) else none)
  else if n = 0x062 then (if x / 2 ^ 16 % 2 ^ 15 ≠ 0 then some (0x08, 6) else none)
  else if n = 0x063 then (if x ≠ 0 then some (0x08, 6) else none)
  else if 0x068 ≤ n ∧ n ≤ 0x06B then (if 64 < x then some (0x08, 6) else none)
  else none

/-- R260, R355: is a MITER of the block running on a side's array, alone or as half of a pair. -/
def Mach.miterOn (m : Mach) (b : Block) (side : Nat) : Bool :=
  match (m.core (b.side side).core).mx with | some r => r.blk == b.id && r.miter | none => false

/-- R258, R260, R355: write a coefficient or an iteration register; a CWR of MITSTAT is held while a MITER runs. -/
def MitRegs.setCr (s : MitRegs) (n : Nat) (v : Word) (running : Bool) : MitRegs :=
  if 0x040 ≤ n ∧ n < 0x060 then
    { s with coef := modAt s.coef ((n - 0x040) / 2) fun old => if n % 2 = 0 then pair64 v (hi32 old) else pair64 (lo32 old) v }
  else if n = 0x060 then { s with mitcap := v }
  else if n = 0x061 then { s with mittol := v }
  else if n = 0x062 then { s with mitdiv := v }
  else if running then { s with heldClr := true }
  else { s with mitstat := 0, owner := none }

/-- R132: a CWR of FPFLAGS overrides the flags of the warp's running MITER or mirrored word. -/
def Mach.deadFlags (m : Mach) (blk w : Nat) : Mach :=
  { m with cores := m.cores.map fun k =>
      { k with mx := k.mx.map fun r => if r.blk == blk && r.warp == w then { r with dead := true } else r } }

/-- R355: write a control register in its scope. -/
def Cx.setCr (c : Cx) (n : Nat) (v : Word) : Cx :=
  if n = 0x018 then c.updW fun w => { w with fpmode := v }
  else if n = 0x019 then (c.updW fun w => { w with fpflags := v }).upd fun m => m.deadFlags c.is.blk c.is.warp
  else if n = 0x01D then c.updB fun b => { b with trapbase := pair64 v (hi32 b.trapbase) }
  else if n = 0x01E then c.updB fun b => { b with trapbase := pair64 (lo32 b.trapbase) v }
  else if 0x068 ≤ n then c.updW fun w => { w with vcs := putAt 0 w.vcs (n - 0x068) v }
  else if n < 0x040 then c.updB fun b => b.updSide c.w.side fun s => { s with tctl := putAt 0 s.tctl (n - 0x030) v }
  else c.updB fun b => b.updEng c.w.side fun e => e.setCr n v (c.s.m.miterOn c.b c.w.side)

/-- CWR, R354. -/
def execCwr (h : Hdr) (d : BitVec 6) (r : BitVec 13) (s : State) : Host.Outcome State Fault Refusal :=
  s.word h [d.toNat] fun c =>
    let v := c.val d.toNat c.low
    if !c.allU [d.toNat] then c.trap 0x03 0 0 0
    else if c.noTile r.toNat then c.trap 0x08 1 0 c.ex.toNat
    else
      match crInvalid r.toNat v with
      | some e => c.trap e.1 e.2 0 (if e.1 = 0x08 then c.ex.toNat else 0)
      | none => (c.setCr r.toNat v).s

/-- MAPACK, R37. -/
def execMapack (h : Hdr) (a : BitVec 6) (s : State) : Host.Outcome State Fault Refusal :=
  s.word h [a.toNat] fun c =>
    let v := (c.val a.toNat c.low).toNat
    if !c.allU [a.toNat] then c.trap 0x03 0 0 0
    else if (match c.ctx? with | some k => k.mapver | none => 0) < v then c.trap 0x15 3 0 0
    else (c.upd fun m => m.ackMap c.b.ctx v).s

/-- R285: what of a block still has to become visible or be acknowledged: its released entries, stores of an ST.rel, sectors of a TST, and what of them is on ch0. -/
def Block.toLand (b : Block) : List StartCond :=
  ((b.sb.filter fun e => e.released || e.tst).map fun e => StartCond.visible b.id e.seq) ++
    (b.rels.map fun r => StartCond.visible b.id r.seq) ++
    ((b.chan 0).queue.filterMap fun e => e.src.map fun s => StartCond.visible b.id s) ++
    (b.chan 0).sent.filterMap fun e => e.src.map fun s => StartCond.visible b.id s

/-- R186, R285: what a LAUNCH's child waits for: what its block has released, what other blocks of the die had released that the launching thread may have observed (log entry 16), and the operations enqueued on the channels of the mask. -/
def Mach.startConds (m : Mach) (b : Block) (mask : Nat) : List StartCond :=
  b.toLand ++ ((m.blocks.filter fun x => x.id != b.id && x.die == b.die).flatMap Block.toLand) ++
    ((List.range b.nchan).filter fun i => mask.testBit i).map fun i => StartCond.acked b.id i (b.chan i).issued

/-- R284: the launch reaches the FE. -/
def Cx.launch (c : Cx) (d mask : Nat) (raw : List Byte) : State :=
  let conds := match c.s.m.block? c.is.blk with | some b => c.s.m.startConds b mask | none => []
  let r := c.s.m.acceptLaunch c.b.ctx raw true none conds
  let n := BitVec.ofNat 64 r.2.2
  (((c.upd fun _ => r.1).updB fun b => { b with sealed := true }).long d [.u (lo32 n), .u (hi32 n)]).s

/-- R110, R284: a descriptor read from poison reaches no FE; the result commits the poison. -/
def Cx.launchPoison (c : Cx) (d : Nat) (a : Access) : State :=
  let n := c.nextSeq
  ((c.long d [.u 0, .u 0]).updW fun w =>
    { w with rb := modWhere w.rb (fun e => e.seq == n) fun e => { e with fault := some (poisonFault c.ex a) } }).s

/-- LAUNCH, R284: a release point whose release stands when the descriptor read faults. -/
def execLaunch (h : Hdr) (d a b : BitVec 6) (s : State) : Host.Outcome State Fault Refusal :=
  s.word h (pairRegs d ++ pairRegs a ++ [b.toNat]) fun c =>
    let addr := (c.pair a.toNat c.low).toNat
    let mask := (c.val b.toNat c.low).toNat
    if !c.allU [a.toNat, a.toNat + 1, b.toNat] then c.trap 0x03 0 0 0
    else if 2 ^ 52 ≤ addr then c.trap 0x07 4 addr c.ex.toNat
    else if addr % 128 ≠ 0 then c.trap 0x04 4 addr c.ex.toNat
    else if 2 ^ min c.b.nchan 16 ≤ mask then c.trap 0x0D 1 0 0
    else
      c.settledAll fun c =>
        if 4096 ≤ c.s.m.deviceGrids c.b.ctx then c.stall
        else
          (c.standing fun m => m.released c.is.blk).checked (c.lanes.map fun l => c.checkGlob l addr 128 { r := true, w := false, x := false }) 1 c.b.die fun c2 accs =>
            match accs with
            | x :: _ =>
              let b := c2.now
              let far := keyPkg x.1.key != c2.s.m.rmap.pkg
              let y := if far then b.direct x.1 else (x.1, [])
              if !y.2.isEmpty then c.stallWith fun m => (m.released c.is.blk).updBlock c.is.blk fun b => y.2.foldl (fun b p => b.endHold p.1) b
              else if c2.s.m.accInFlight b y.1 then c.stall
              else
                let c3 := c2.upd fun m => m.touchAll [x] false
                if c3.s.m.poisonedAt b far y.1 then c3.launchPoison d.toNat y.1 else c3.launch d.toNat mask (c3.s.m.readAccess b far y.1)
            | [] => c2.s

end Sys2Proof.Machine
end

