-- ==== Sys2Proof/Machine/Dispatch.lean ====
section
/-! DEFINITION. The meaning of every row of the opcode table: one arm per constructor. -/

namespace Sys2Proof.Machine

def exec (i : Instr) (s : State) : Host.Outcome State Fault Refusal :=
  match i with
  | .packageReset r => Sys2Proof.Machine.execPackageReset r s
  | .coreRetired die core => Sys2Proof.Machine.execCoreRetired die core s
  | .l2SliceRetired die slice unread => Sys2Proof.Machine.execL2SliceRetired die slice unread s
  | .hbmChannelFailing die chan => Sys2Proof.Machine.execHbmChannelFailing die chan s
  | .hbmChannelRemap die chan unread => Sys2Proof.Machine.execHbmChannelRemap die chan unread s
  | .linkHalving link => Sys2Proof.Machine.execLinkHalving link s
  | .linkSilenceTimeout link => Sys2Proof.Machine.execLinkSilenceTimeout link s
  | .linkLost l => Sys2Proof.Machine.execLinkLost l s
  | .planeLost l => Sys2Proof.Machine.execPlaneLost l s
  | .portLost port => Sys2Proof.Machine.execPortLost port s
  | .boardCapChange watts => Sys2Proof.Machine.execBoardCapChange watts s
  | .contextSuspend ctx => Sys2Proof.Machine.execContextSuspend ctx s
  | .tokenGrant temp => Sys2Proof.Machine.execTokenGrant temp s
  | .descriptorValidation => Sys2Proof.Machine.execDescriptorValidation s
  | .blockPlacement die => Sys2Proof.Machine.execBlockPlacement die s
  | .steal die grid => Sys2Proof.Machine.execSteal die grid s
  | .warpExchange core => Sys2Proof.Machine.execWarpExchange core s
  | .pathAged blk warp => Sys2Proof.Machine.execPathAged blk warp s
  | .pollWatchWake blk warp lane => Sys2Proof.Machine.execPollWatchWake blk warp lane s
  | .pollWatchExpiry blk warp lane => Sys2Proof.Machine.execPollWatchExpiry blk warp lane s
  | .bankSwap core => Sys2Proof.Machine.execBankSwap core s
  | .swapComplete core => Sys2Proof.Machine.execSwapComplete core s
  | .contextSave blk => Sys2Proof.Machine.execContextSave blk s
  | .blockRestore blk => Sys2Proof.Machine.execBlockRestore blk s
  | .longResultArrival blk warp seq => Sys2Proof.Machine.execLongResultArrival blk warp seq s
  | .cellarStart core => Sys2Proof.Machine.execCellarStart core s
  | .cellarSpillComplete core => Sys2Proof.Machine.execCellarSpillComplete core s
  | .cellarFillComplete core => Sys2Proof.Machine.execCellarFillComplete core s
  | .subwarpReplay blk warp lane => Sys2Proof.Machine.execSubwarpReplay blk warp lane s
  | .softErrorDetected blk warp sub lanes => Sys2Proof.Machine.execSoftErrorDetected blk warp sub lanes s
  | .memoryEccError pa => Sys2Proof.Machine.execMemoryEccError pa s
  | .ch0RoomEnqueue blk => Sys2Proof.Machine.execCh0RoomEnqueue blk s
  | .copyComplete blk tag => Sys2Proof.Machine.execCopyComplete blk tag s
  | .snoopWritebackInFlight line => Sys2Proof.Machine.execSnoopWritebackInFlight line s
  | .hostMemAccess write pa len bytes => Sys2Proof.Machine.execHostMemAccess write pa len bytes s
  | .mergeHoldExpiry blk ch => Sys2Proof.Machine.execMergeHoldExpiry blk ch s
  | .packetSend blk ch => Sys2Proof.Machine.execPacketSend blk ch s
  | .escapementPacketArrival pkt => Sys2Proof.Machine.execEscapementPacketArrival pkt s
  | .streamAck ack => Sys2Proof.Machine.execStreamAck ack s
  | .startRetry blk ch => Sys2Proof.Machine.execStartRetry blk ch s
  | .escapementContextFree esc => Sys2Proof.Machine.execEscapementContextFree esc s
  | .retentionResend pkt => Sys2Proof.Machine.execRetentionResend pkt s
  | .flitReplayRequest at_ loss => Sys2Proof.Machine.execFlitReplayRequest at_ loss s
  | .suspectAckTimeout line => Sys2Proof.Machine.execSuspectAckTimeout line s
  | .coherenceReissueTimeout line => Sys2Proof.Machine.execCoherenceReissueTimeout line s
  | .managementResendTimeout link => Sys2Proof.Machine.execManagementResendTimeout link s
  | .bufferLimitRecompute link toB => Sys2Proof.Machine.execBufferLimitRecompute link toB s
  | .bufferLimitAnnounce link toB => Sys2Proof.Machine.execBufferLimitAnnounce link toB s
  | .linklost link => Sys2Proof.Machine.execLinklost link s
  | .routesRecomputed src dst => Sys2Proof.Machine.execRoutesRecomputed src dst s
  | .delivered src dst strm => Sys2Proof.Machine.execDelivered src dst strm s
  | .exchangeTimeout src dst => Sys2Proof.Machine.execExchangeTimeout src dst s
  | .syncdone src dst => Sys2Proof.Machine.execSyncdone src dst s
  | .slotContribution rr => Sys2Proof.Machine.execSlotContribution rr s
  | .slotDeadline plane slot => Sys2Proof.Machine.execSlotDeadline plane slot s
  | .slotFree plane slot => Sys2Proof.Machine.execSlotFree plane slot s
  | .timelineAdvance ctx tl => Sys2Proof.Machine.execTimelineAdvance ctx tl s
  | .gridComplete grid => Sys2Proof.Machine.execGridComplete grid s
  | .miterPhaseStart core => Sys2Proof.Machine.execMiterPhaseStart core s
  | .miterIterationEnd core => Sys2Proof.Machine.execMiterIterationEnd core s
  | .errorLogDrain die => Sys2Proof.Machine.execErrorLogDrain die s
  | .netpostAcknowledged q seq data => Sys2Proof.Machine.execNetpostAcknowledged q seq data s
  | .doorbell q v => Sys2Proof.Machine.execDoorbell q v s
  | .queueEnable q => Sys2Proof.Machine.execQueueEnable q s
  | .queueDisable q => Sys2Proof.Machine.execQueueDisable q s
  | .ringHeadWrite ring v => Sys2Proof.Machine.execRingHeadWrite ring v s
  | .hostRegisterWrite off size v => Sys2Proof.Machine.execHostRegisterWrite off size v s
  | .hostLaunch q => Sys2Proof.Machine.execHostLaunch q s
  | .copy q => Sys2Proof.Machine.execCopy q s
  | .tlhold q => Sys2Proof.Machine.execTlhold q s
  | .netpost q => Sys2Proof.Machine.execNetpost q s
  | .netqp q => Sys2Proof.Machine.execNetqp q s
  | .ctxcreate q => Sys2Proof.Machine.execCtxcreate q s
  | .ctxdestroy q => Sys2Proof.Machine.execCtxdestroy q s
  | .tlbinv q => Sys2Proof.Machine.execTlbinv q s
  | .biasflip q => Sys2Proof.Machine.execBiasflip q s
  | .faultresp q => Sys2Proof.Machine.execFaultresp q s
  | .hostMapack q => Sys2Proof.Machine.execHostMapack q s
  | .chanconf q => Sys2Proof.Machine.execChanconf q s
  | .kill q => Sys2Proof.Machine.execKill q s
  | .brkresume q => Sys2Proof.Machine.execBrkresume q s
  | .suspend q => Sys2Proof.Machine.execSuspend q s
  | .resume q => Sys2Proof.Machine.execResume q s
  | .slotread q => Sys2Proof.Machine.execSlotread q s
  | .keyinstall q => Sys2Proof.Machine.execKeyinstall q s
  | .keyremove q => Sys2Proof.Machine.execKeyremove q s
  | .powercap q => Sys2Proof.Machine.execPowercap q s
  | .attest q => Sys2Proof.Machine.execAttest q s
  | .fwstage q => Sys2Proof.Machine.execFwstage q s
  | .pfx hi lo => Sys2Proof.Machine.execPfx hi lo s
  | .nop h => Sys2Proof.Machine.execNop h s
  | .bra h t => Sys2Proof.Machine.execBra h t s
  | .brx h a => Sys2Proof.Machine.execBrx h a s
  | .call h e t => Sys2Proof.Machine.execCall h e t s
  | .callx h e a => Sys2Proof.Machine.execCallx h e a s
  | .ret h => Sys2Proof.Machine.execRet h s
  | .unwind h a => Sys2Proof.Machine.execUnwind h a s
  | .yield h => Sys2Proof.Machine.execYield h s
  | .exit h => Sys2Proof.Machine.execExit h s
  | .trap h im => Sys2Proof.Machine.execTrap h im s
  | .tret h => Sys2Proof.Machine.execTret h s
  | .brk h im => Sys2Proof.Machine.execBrk h im s
  | .bar h => Sys2Proof.Machine.execBar h s
  | .pbinit h a b => Sys2Proof.Machine.execPbinit h a b s
  | .pbarr h a => Sys2Proof.Machine.execPbarr h a s
  | .pbwait h a b => Sys2Proof.Machine.execPbwait h a b s
  | .divg h im => Sys2Proof.Machine.execDivg h im s
  | .reconv h im => Sys2Proof.Machine.execReconv h im s
  | .grow h a => Sys2Proof.Machine.execGrow h a s
  | .growTry h p a => Sys2Proof.Machine.execGrowTry h p a s
  | .shrink h a => Sys2Proof.Machine.execShrink h a s
  | .launch h d a b => Sys2Proof.Machine.execLaunch h d a b s
  | .mapack h a => Sys2Proof.Machine.execMapack h a s
  | .fence h im => Sys2Proof.Machine.execFence h im s
  | .iadd h d a b m pf => Sys2Proof.Machine.execIadd h d a b m pf s
  | .iaddi h d a im pf => Sys2Proof.Machine.execIaddi h d a im pf s
  | .isub h d a b m pf => Sys2Proof.Machine.execIsub h d a b m pf s
  | .imul h d a b m => Sys2Proof.Machine.execImul h d a b m s
  | .imulh h d a b m pf => Sys2Proof.Machine.execImulh h d a b m pf s
  | .imad h d a b m pf => Sys2Proof.Machine.execImad h d a b m pf s
  | .imin h d a b m pf => Sys2Proof.Machine.execImin h d a b m pf s
  | .imax h d a b m pf => Sys2Proof.Machine.execImax h d a b m pf s
  | .iaddw h d a b m => Sys2Proof.Machine.execIaddw h d a b m s
  | .isubw h d a b m => Sys2Proof.Machine.execIsubw h d a b m s
  | .shlw h d a b m => Sys2Proof.Machine.execShlw h d a b m s
  | .isetp h p k a b m pf => Sys2Proof.Machine.execIsetp h p k a b m pf s
  | .isetpw h p k a b m pf => Sys2Proof.Machine.execIsetpw h p k a b m pf s
  | .and h d a b m => Sys2Proof.Machine.execAnd h d a b m s
  | .or h d a b m => Sys2Proof.Machine.execOr h d a b m s
  | .xor h d a b m => Sys2Proof.Machine.execXor h d a b m s
  | .lop3 h d a b m pf => Sys2Proof.Machine.execLop3 h d a b m pf s
  | .shl h d a b m => Sys2Proof.Machine.execShl h d a b m s
  | .shr h d a b m => Sys2Proof.Machine.execShr h d a b m s
  | .sar h d a b m => Sys2Proof.Machine.execSar h d a b m s
  | .rot h d a b m => Sys2Proof.Machine.execRot h d a b m s
  | .popc h d a => Sys2Proof.Machine.execPopc h d a s
  | .clz h d a => Sys2Proof.Machine.execClz h d a s
  | .brev h d a => Sys2Proof.Machine.execBrev h d a s
  | .bfx h d a b m => Sys2Proof.Machine.execBfx h d a b m s
  | .bfi h d a b pf => Sys2Proof.Machine.execBfi h d a b pf s
  | .mov h d a => Sys2Proof.Machine.execMov h d a s
  | .movi h d im pf => Sys2Proof.Machine.execMovi h d im pf s
  | .shape h d a => Sys2Proof.Machine.execShape h d a s
  | .unif h d a => Sys2Proof.Machine.execUnif h d a s
  | .plop h p f q r sr => Sys2Proof.Machine.execPlop h p f q r sr s
  | .p2v h d => Sys2Proof.Machine.execP2v h d s
  | .v2p h a => Sys2Proof.Machine.execV2p h a s
  | .shflLane h d a b pf => Sys2Proof.Machine.execShflLane h d a b pf s
  | .shflSwap h d a b pf => Sys2Proof.Machine.execShflSwap h d a b pf s
  | .shflBelow h d a b pf => Sys2Proof.Machine.execShflBelow h d a b pf s
  | .shflAbove h d a b pf => Sys2Proof.Machine.execShflAbove h d a b pf s
  | .voteAll h sr p => Sys2Proof.Machine.execVoteAll h sr p s
  | .voteAny h sr p => Sys2Proof.Machine.execVoteAny h sr p s
  | .voteEq h sr p => Sys2Proof.Machine.execVoteEq h sr p s
  | .voteBallotLo h d sr => Sys2Proof.Machine.execVoteBallotLo h d sr s
  | .voteBallotHi h d sr => Sys2Proof.Machine.execVoteBallotHi h d sr s
  | .matchW h d a => Sys2Proof.Machine.execMatchW h d a s
  | .redw h d a b => Sys2Proof.Machine.execRedw h d a b s
  | .crd h d r => Sys2Proof.Machine.execCrd h d r s
  | .cwr h d r => Sys2Proof.Machine.execCwr h d r s
  | .fadd h d a b m => Sys2Proof.Machine.execFadd h d a b m s
  | .fsub h d a b m => Sys2Proof.Machine.execFsub h d a b m s
  | .fmul h d a b m => Sys2Proof.Machine.execFmul h d a b m s
  | .ffma h d a b m pf => Sys2Proof.Machine.execFfma h d a b m pf s
  | .fmin h d a b m => Sys2Proof.Machine.execFmin h d a b m s
  | .fmax h d a b m => Sys2Proof.Machine.execFmax h d a b m s
  | .fsetp h p k a b m => Sys2Proof.Machine.execFsetp h p k a b m s
  | .frcp h d a => Sys2Proof.Machine.execFrcp h d a s
  | .frsq h d a => Sys2Proof.Machine.execFrsq h d a s
  | .fsqrt h d a => Sys2Proof.Machine.execFsqrt h d a s
  | .fexp2 h d a => Sys2Proof.Machine.execFexp2 h d a s
  | .flog2 h d a => Sys2Proof.Machine.execFlog2 h d a s
  | .fsin h d a => Sys2Proof.Machine.execFsin h d a s
  | .fcos h d a => Sys2Proof.Machine.execFcos h d a s
  | .frnd h d a t x => Sys2Proof.Machine.execFrnd h d a t x s
  | .cvt h d a x y m pf => Sys2Proof.Machine.execCvt h d a x y m pf s
  | .dadd h d a b m => Sys2Proof.Machine.execDadd h d a b m s
  | .dmul h d a b m => Sys2Proof.Machine.execDmul h d a b m s
  | .dfma h d a b m pf => Sys2Proof.Machine.execDfma h d a b m pf s
  | .dmin h d a b m => Sys2Proof.Machine.execDmin h d a b m s
  | .dmax h d a b m => Sys2Proof.Machine.execDmax h d a b m s
  | .dsetp h p k a b m => Sys2Proof.Machine.execDsetp h p k a b m s
  | .hadd2 h d a b m pf => Sys2Proof.Machine.execHadd2 h d a b m pf s
  | .hmul2 h d a b m pf => Sys2Proof.Machine.execHmul2 h d a b m pf s
  | .hfma2 h d a b m pf => Sys2Proof.Machine.execHfma2 h d a b m pf s
  | .ld h d a z o pf => Sys2Proof.Machine.execLd h d a z o pf s
  | .ldAcq h d a z o pf => Sys2Proof.Machine.execLdAcq h d a z o pf s
  | .ldPoll h d a z o pf => Sys2Proof.Machine.execLdPoll h d a z o pf s
  | .ldU h d a z o pf => Sys2Proof.Machine.execLdU h d a z o pf s
  | .st h sr a z o pf => Sys2Proof.Machine.execSt h sr a z o pf s
  | .stRel h sr a z o pf => Sys2Proof.Machine.execStRel h sr a z o pf s
  | .lds h d a z o pf => Sys2Proof.Machine.execLds h d a z o pf s
  | .sts h sr a z o pf => Sys2Proof.Machine.execSts h sr a z o pf s
  | .ldt h d a z o pf => Sys2Proof.Machine.execLdt h d a z o pf s
  | .stt h sr a z o pf => Sys2Proof.Machine.execStt h sr a z o pf s
  | .atomArith h d a b u pf => Sys2Proof.Machine.execAtomArith h d a b u pf s
  | .atomMinmax h d a b u pf => Sys2Proof.Machine.execAtomMinmax h d a b u pf s
  | .atomBit h d a b u pf => Sys2Proof.Machine.execAtomBit h d a b u pf s
  | .atomCas h d a b u pf => Sys2Proof.Machine.execAtomCas h d a b u pf s
  | .stashmap h d a b => Sys2Proof.Machine.execStashmap h d a b s
  | .stashmapUn h d => Sys2Proof.Machine.execStashmapUn h d s
  | .stashpin h a => Sys2Proof.Machine.execStashpin h a s
  | .stashpinUn h a => Sys2Proof.Machine.execStashpinUn h a s
  | .rld h a sr x => Sys2Proof.Machine.execRld h a sr x s
  | .rst h ch a sr x => Sys2Proof.Machine.execRst h ch a sr x s
  | .ratom h ch a sr x => Sys2Proof.Machine.execRatom h ch a sr x s
  | .rred h ch a sr x => Sys2Proof.Machine.execRred h ch a sr x s
  | .chjoin h ch k => Sys2Proof.Machine.execChjoin h ch k s
  | .chdrain h ch => Sys2Proof.Machine.execChdrain h ch s
  | .chstat h ch d => Sys2Proof.Machine.execChstat h ch d s
  | .cpySh h t a b => Sys2Proof.Machine.execCpySh h t a b s
  | .cpySt h t a b => Sys2Proof.Machine.execCpySt h t a b s
  | .cpyTile h t a b => Sys2Proof.Machine.execCpyTile h t a b s
  | .cpyr h t a b => Sys2Proof.Machine.execCpyr h t a b s
  | .twaitAny h a => Sys2Proof.Machine.execTwaitAny h a s
  | .twaitAll h a => Sys2Proof.Machine.execTwaitAll h a s
  | .tfirst h d a => Sys2Proof.Machine.execTfirst h d a s
  | .tlwait h d a => Sys2Proof.Machine.execTlwait h d a s
  | .tlread h d a => Sys2Proof.Machine.execTlread h d a s
  | .tld h t a b p v => Sys2Proof.Machine.execTld h t a b p v s
  | .tst h t a b v => Sys2Proof.Machine.execTst h t a b v s
  | .tzero h t v => Sys2Proof.Machine.execTzero h t v s
  | .tmov h t a v => Sys2Proof.Machine.execTmov h t a v s
  | .mtrn h t a v => Sys2Proof.Machine.execMtrn h t a v s
  | .tget h d t b r im pf => Sys2Proof.Machine.execTget h d t b r im pf s
  | .tset h d t b r im pf => Sys2Proof.Machine.execTset h d t b r im pf s
  | .mma h t a b f p v => Sys2Proof.Machine.execMma h t a b f p v s
  | .mmab h t a b f v => Sys2Proof.Machine.execMmab h t a b f v s
  | .mscale h t a sr => Sys2Proof.Machine.execMscale h t a sr s
  | .mpoly h t a n p => Sys2Proof.Machine.execMpoly h t a n p s
  | .miterNs h t p => Sys2Proof.Machine.execMiterNs h t p s
  | .miterNinv h t a p => Sys2Proof.Machine.execMiterNinv h t a p s
  | .miterPoly h t n p => Sys2Proof.Machine.execMiterPoly h t n p s
  | .tqnt h t a sr => Sys2Proof.Machine.execTqnt h t a sr s
  | .tdq h t a sr => Sys2Proof.Machine.execTdq h t a sr s
  | .mxWordEnd core => Sys2Proof.Machine.execMxWordEnd core s
  | .entryVisibleAtDieScope blk seq => Sys2Proof.Machine.execEntryVisibleAtDieScope blk seq s
  | .cplheadWrite q v => Sys2Proof.Machine.execCplheadWrite q v s

end Sys2Proof.Machine
end

