-- ==== Sys2Proof/Machine/Install.lean ====
section
/-! DEFINITION. Placing an instruction where the next step fetches it (log entry 7): stands for the boot, the context creation, the launch and the placement that bring a program to run from reset. -/

namespace Sys2Proof.Machine

/-- The descriptor of the one-block grid an installed program runs in. -/
def installDesc : Desc :=
  { entry := 0x10000, param := 0, nx := 1, ny := 1, nz := 1, threads := 16, width := 16, frame := 56, roles := [],
    shared := 1024, stash := 0, tiles := 4, tags := 4, channels := 2, quota := 16, diemask := 1, priority := 0,
    checked := false, coop := false, paired := false, timeline := 255, isareq := 0x10000 }

def installGrid : Grid :=
  { num := 1, ctx := 0, raw := [], desc := installDesc, valid := true, dies := [0], chunks := [], left := 1, total := 1,
    failed := none, killed := false, execErr := false, cmd := none, tlNum := 0, device := false, conds := [],
    refused := [], complete := false }

/-- A live compute die. -/
def installDie : DieEnt := { state := 1, cores := 2 ^ 20 - 1, slices := 2 ^ 16 - 1, channels := 2 ^ 32 - 1, hwver := 0, serial := 0 }

def installCtx : Ctx :=
  { id := 0, root := 0x100000, locbase := 0, lsize := 65536, lslots := 1, csabase := 0, ackver := 1, mapver := 1, events := [],
    suspMap := false, suspHost := false, killed := false, tls := List.replicate 32 { next := 1, count := 0, fin := [] }, stops := 0, born := 0, draws := 0 }

/-- Page tables that map the code page: root, level 1, level 2, and a leaf for the 64 KiB at 0x10000. -/
def installTables : List Host.Cell :=
  cellsFrom 0x100000 (leBytes 8 0x101001) ++ cellsFrom 0x101000 (leBytes 8 0x102001) ++
  cellsFrom 0x102000 (leBytes 8 0x103001) ++ cellsFrom 0x103008 (leBytes 8 0x100003F)

/-- A machine that has booted and holds one placed block at the start of its code. -/
def Mach.installed (m : Mach) : Mach :=
  let m1 := { m with
    bootState := 2, bootStep := 6,
    rmap := { m.rmap with ver := 1, dies := [installDie], limit := 2400, rate := 4096, ratemax := 4096, templim := 100, pkg := 0, dom := 1 },
    rateNow := 4096,
    ctxs := [installCtx], tlb := [], grids := [installGrid], gridCnt := 2,
    cores := modAt m.cores 0 fun k => { k with live := true, grains := 4096 } }
  (m1.putCells (installTables.map fun c => (m1.memKey c.1, c.2))).settleBlock installGrid 0 0 0 0 [(0, 0, 0)]

/-- Where the next step fetches: the key of the word at the PC of the path it issues first. -/
def Mach.fetchKey (m : Mach) : Option Nat :=
  match m.pick fun _ _ _ _ _ => true with
  | none => none
  | some p =>
    match m.translate p.b.ctx (p.b.entry + (p.w.lane (lowest p.first.1.lanes)).pc.offset) { r := false, w := false, x := true } with
    | .ok k _ _ _ => some k
    | _ => none

/-- Store a word where the next step fetches; on a machine with nothing to issue, install a program first. -/
def State.placeWord (s : State) (w : Word) : State :=
  let m0 := { s.m with front := none, clock := s.m.clock + s.m.clock % 2 }
  let m1 := if m0.fetchKey.isSome then m0 else m0.installed.balanceAll fun _ _ _ _ _ => true
  match m1.fetchKey with
  | some k => { m := m1.putCells (cellsFrom k (wordBytes w)), iss := none, inputs := [] }
  | none => { m := m1, iss := none, inputs := [] }

end Sys2Proof.Machine
end

