-- ==== Sys2Proof/Machine/Step.lean ====
section
/-! DEFINITION. One step of the machine, and the placing of an instruction word where the next step fetches it (log entries 2 and 7). -/

namespace Sys2Proof.Machine

/-- One step of the package. -/
def step (s : State) : Host.Outcome State Fault Refusal := s.cycle exec unitGate Mach.due Mach.own

/-- The state with an instruction's word stored where the next step fetches. -/
def State.withFetchWord (s : State) (nbits w : Nat) : State := s.placeWord (BitVec.ofNat 32 (w % 2 ^ min nbits 32))

end Sys2Proof.Machine
end

