-- ==== Sys2Proof/Safety.lean ====
section
/-! DEFINITION. What a sound state and a safe run are, and the words the statements are made of: what it is for an encoded word to run, and the forms its effect takes (a register, a pair, a predicate, a return-buffer entry, a change of the machine). Each form names the whole next state, so it is the instruction's frame as well. -/

namespace Sys2Proof.Machine

/-- A step goes on: it answers a next state, no fault and no refusal. -/
def Safe (s : State) : Prop := ∃ t, step s = .next t

/-- The word under way runs (R102, R103): c is what it works on, the block and warp are those its group read, and its Exec is not empty. -/
structure Runs (s : State) (h : Hdr) (c : Cx) : Prop where
  iss   : s.iss = some c.is
  state : c.s = s
  block : c.is.base.block? c.is.blk = some c.b
  warp  : c.is.base.warp? c.is.blk c.is.warp = some c.w
  exec  : c.ex = c.is.exec c.w h
  some  : c.ex ≠ 0
  frame : c.fid = (c.w.lane (lowest c.ex)).fid

/-- R69: every named v register lies in the current frame. -/
def Cx.Holds (c : Cx) (regs : List Nat) : Prop :=
  ∀ r ∈ regs, r < 56 → ∃ f, c.w.frame? c.fid = some f ∧ r < f.size

/-- R103, R106: the value lane l reads in register r. -/
abbrev Cx.lane (c : Cx) (r : BitVec 6) (l : Nat) : Word := c.val r.toNat l

/-- R113: the second operand of an integer word in lane l: register b, or the immediate b. -/
def Cx.second (c : Cx) (b : BitVec 6) (m : Bool) (l : Nat) : Word := if m then b.setWidth 32 else c.lane b l

/-- R372: a word as a number: unsigned, or in two's complement. -/
def numberOf (uns : Bool) (x : Word) : Int := if uns then (x.toNat : Int) else x.toInt

/-- R125: a sign and a magnitude m * 2^k as an integer, for a k that is not negative. -/
def scaled (neg : Bool) (m : Nat) (k : Int) : Int := let v : Int := (m * 2 ^ k.toNat : Nat); if neg then -v else v

/-- R147: node j of level n of the pairwise tree over the leaves present, lower-numbered child first; a lone child passes. -/
def treeNode (f : Word → Word → Word) (leaf : Nat → Option Word) : Nat → Nat → Option Word
  | 0, j => leaf j
  | n + 1, j =>
    match treeNode f leaf n (2 * j), treeNode f leaf n (2 * j + 1) with
    | some x, some y => some (f x y)
    | some x, none => some x
    | none, y => y

/-- R401: the flags of the combinations at and below node j of level n of that tree. -/
def treeFlags (f g : Word → Word → Word) (leaf : Nat → Option Word) : Nat → Nat → Word
  | 0, _ => 0
  | n + 1, j =>
    treeFlags f g leaf n (2 * j) ||| treeFlags f g leaf n (2 * j + 1) |||
      match treeNode f leaf n (2 * j), treeNode f leaf n (2 * j + 1) with
      | some x, some y => g x y
      | _, _ => 0

/-- R134, R372: a number saturated to 32 bits. -/
def saturate (uns : Bool) (t : Int) : Word :=
  if uns then BitVec.ofInt 32 (max 0 (min 4294967295 t)) else BitVec.ofInt 32 (max (-2147483648) (min 2147483647 t))

/-- R72, R78: a new value of a register: f in the lanes of Exec, the old value in the other lanes of the register's live set. -/
def Cx.NewVal (c : Cx) (r : Nat) (f : Nat → Word) (old new : RVal) : Prop :=
  ∀ l, l < c.W → (c.ex.getLsbD l = true → new.get l = f l) ∧
    (c.ex.getLsbD l = false → (c.w.liveSet c.fid r).getLsbD l = true → new.get l = old.get l)

/-- The state with the issuing warp changed, and nothing else. -/
def Cx.withWarp (c : Cx) (g : Warp → Warp) : State :=
  { c.s with m := c.s.m.updWarp c.is.blk c.is.warp g }

/-- R132: flags ORed into FPFLAGS. -/
def Warp.orFlags (w : Warp) (k : Word) : Warp := { w with fpflags := w.fpflags ||| k }

/-- The word completes: lane l of Exec gets f l in register d, FPFLAGS takes the flags k, and nothing else changes. -/
def Cx.SetsReg (c : Cx) (o : Host.Outcome State Fault Refusal) (d : BitVec 6) (k : Word) (f : Nat → Word) : Prop :=
  ∃ v : Warp → RVal, o = .next (c.withWarp fun w => (w.orFlags k).setReg c.fid d.toNat (v w)) ∧
    ∀ w, c.NewVal d.toNat f (w.reg c.fid d.toNat) (v w)

/-- The same of the pair d: the even register takes bits 31..0 (R68). -/
def Cx.SetsPair (c : Cx) (o : Host.Outcome State Fault Refusal) (d : BitVec 6) (k : Word) (f : Nat → BitVec 64) : Prop :=
  ∃ v u : Warp → RVal,
    o = .next (c.withWarp fun w => ((w.orFlags k).setReg c.fid d.toNat (v w)).setReg c.fid (d.toNat + 1) (u w)) ∧
    ∀ w, c.NewVal d.toNat (fun l => lo32 (f l)) (w.reg c.fid d.toNat) (v w) ∧
      c.NewVal (d.toNat + 1) (fun l => hi32 (f l)) (w.reg c.fid (d.toNat + 1)) (u w)

/-- The word completes: predicate p takes f in the lanes of Exec (p7 takes nothing, R70), FPFLAGS takes the flags k, and nothing else changes. -/
def Cx.SetsPred (c : Cx) (o : Host.Outcome State Fault Refusal) (p : BitVec 3) (k : Word) (f : Nat → Bool) : Prop :=
  ∃ v : Mask, o = .next (c.withWarp fun w => (w.orFlags k).setPred p.toNat c.ex v) ∧
    ∀ l, c.ex.getLsbD l = true → v.getLsbD l = f l

/-- R104, R105: the return-buffer entry a long word makes: its lanes, its destinations, and how its result comes. -/
structure Cx.NewEntry (c : Cx) (seq : Nat) (e : Entry) : Prop where
  seq   : e.seq = seq
  word  : e.word = c.is.word
  pfx   : e.pfx = c.is.pfx
  pc    : e.pc = c.is.here
  exec  : e.exec = c.ex
  empty : e.done = false ∧ e.fail = 0 ∧ e.polls = [] ∧ e.fault = none ∧ e.held = false

/-- A warp with one more return-buffer entry. -/
def Warp.push (w : Warp) (e : Entry) : Warp := { w with rb := w.rb ++ [e], nextSeq := w.nextSeq + 1 }

/-- The word completes: a return-buffer entry for the registers d, d + 1 and on, which will take the values f gives (R104, R105); FPFLAGS takes the flags k; nothing else changes until the entry commits. -/
def Cx.Enters (c : Cx) (o : Host.Outcome State Fault Refusal) (d : BitVec 6) (k : Word) (fs : List (Nat → Word)) : Prop :=
  ∃ e : Warp → Entry, o = .next (c.withWarp fun w => (w.orFlags k).push (e w)) ∧
    ∀ w, c.NewEntry w.nextSeq (e w) ∧ (e w).pend = .value ∧
      (e w).dests = (List.range fs.length).map (fun i => .reg (d.toNat + i) c.fid fullBits) ∧
      (e w).vals.length = fs.length ∧
      ∀ i f, fs[i]? = some f → ∀ l, l < c.W → c.ex.getLsbD l = true → ((e w).vals.getD i (.u 0)).get l = f l

/-- The word completes: f changes the machine, and a return-buffer entry waits for its result, to be placed in the registers or predicates listed (R105); `waits` are released entries that must be visible first (R181). -/
def Cx.Awaits (c : Cx) (o : Host.Outcome State Fault Refusal) (f : Mach → Mach) (dests : List Dest) (pend : Pend) (acq : Bool) (waits : List Nat) : Prop :=
  ∃ e : Warp → Entry, o = .next { c.s with m := (f c.s.m).updWarp c.is.blk c.is.warp fun w => w.push (e w) } ∧
    ∀ w, c.NewEntry w.nextSeq (e w) ∧ (e w).dests = dests ∧ (e w).pend = pend ∧ (e w).acq = acq ∧ (e w).waits = waits

/-- Whole registers of the current frame as destinations. -/
def Cx.wholeRegs (c : Cx) (rs : List Nat) : List Dest := rs.map fun r => .reg r c.fid fullBits

/-- The word completes: f changes the machine, and nothing else happens. -/
def Cx.Does (c : Cx) (o : Host.Outcome State Fault Refusal) (f : Mach → Mach) : Prop := o = .next { c.s with m := f c.s.m }

/-- R171, R173: the machine a trapping group leaves: as it was when the group issued, with the page entries of its fetch marked unless the cause is ALIGN, PROT, BOUNDS or TILE. -/
def Cx.fetched (c : Cx) (cause : Nat) : Mach :=
  if cause ∈ [0x04, 0x06, 0x07, 0x08] then c.is.base else c.is.base.touchPcs c.b.ctx c.b.entry c.is.code

/-- R287, R289: the group has no effect but a trap with this cause, sub-cause, address and detail, resumed at its first word. -/
def Cx.Traps (c : Cx) (o : Host.Outcome State Fault Refusal) (cause sub addr detail : Nat) : Prop :=
  o = .next { c.s with
    m := (((c.fetched cause).markIssued c.is.lanes).trapEntry c.is.blk c.is.warp c.ex (c.mkTrap cause sub addr detail c.is.group)).grantsFor c.b c.w, iss := none }

/-- R101, R203: the group has no effect; its ready lanes stand aside and the path tries again after any event. -/
def Cx.Stalls (c : Cx) (o : Host.Outcome State Fault Refusal) : Prop :=
  o = .next { c.s with
    m := c.is.base.updLanes c.is.blk c.is.warp c.is.lanes fun l => if l.run == .ready then { l with run := .stall } else l, iss := none }

/-- R101: the group's words have no effect when it ends but f, the wait itself; m is what the word has worked on. -/
def Cx.Waits (c : Cx) (o : Host.Outcome State Fault Refusal) (m : Mach) (f : Mach → Mach) : Prop :=
  o = .next { c.s with m := m, iss := c.s.iss.map fun i => { i with wait := some (f (i.wait.getD i.base)) } }

/-- R201: what stands in the store buffer for ch0 goes there, as it has room, before an operation of the block that names channel i. -/
def Cx.ahead (c : Cx) (i : Nat) (m : Mach) : Mach :=
  if i = 0 then m.updBlock c.is.blk fun b => b.ch0Flush m.rmap.pkg m.clock b.sb.length else m

/-- R203, R446: channel i of a block has room for n more entries among its 64, and for ch0 nothing released before them waits outside it. -/
def Mach.Room (m : Mach) (b : Block) (i n : Nat) : Prop :=
  (i ≠ 0 → (b.chan i).queue.length + n ≤ 64) ∧ (i = 0 → m.ch0Ready b n = true)

/-- The path of the group goes to a run state when the group ends (R101). -/
def Cx.WaitsIn (c : Cx) (o : Host.Outcome State Fault Refusal) (m : Mach) (f : Mach → Mach) (r : Run) : Prop :=
  c.Waits o m fun m => (f m).updLanes c.is.blk c.is.warp c.is.lanes fun l => { l with run := r }

/-- R327: c is the command of queue q that the event of an opcode moves on. -/
def Mach.Turn (m : Mach) (q op : Nat) (c : Cmd) : Prop := (m.turnOf q op).head? = some c

/-- The memory form (log entry 1): addresses strictly rising, and no listed byte that reads as an unlisted one does. -/
def FormKept (s : State) : Prop := s.m.mem.wf = true ∧ s.iss = none

end Sys2Proof.Machine
end

