-- ==== Sys2Proof/Certificates/Slice0/Obligations.lean ====
section
/-! DEFINITION. The statements about the model, one definition each. A statement about an encoded word takes any state in which it runs (`Runs`) and says what the whole next state is, so each is a completion statement, a result statement and a frame at once. -/

open Sys2Proof Sys2Proof.Machine

/-- R372, R374, R375: IADD, ISUB, IADDI, IMUL, IMULH, IMAD, IMIN and IMAX complete with the named number in every lane of Exec and nothing else changed. -/
def Obligations.IntegerArithmetic : Prop :=
  ∀ (s : State) (h : Hdr) (c : Cx) (d a b : BitVec 6) (i : BitVec 7) (m : Bool) (pf : Option (BitVec 23)), Runs s h c →
    c.Holds ([d.toNat, a.toNat, thirdReg pf d] ++ regsB b m) →
    c.SetsReg (exec (.iadd h d a b m pf) s) d 0 (fun l =>
      if pfBit pf 0 then saturate (pfBit pf 1) (numberOf (pfBit pf 1) (c.lane a l) + numberOf (pfBit pf 1) (c.second b m l))
      else c.lane a l + c.second b m l) ∧
    c.SetsReg (exec (.isub h d a b m pf) s) d 0 (fun l =>
      if pfBit pf 0 then saturate (pfBit pf 1) (numberOf (pfBit pf 1) (c.lane a l) - numberOf (pfBit pf 1) (c.second b m l))
      else c.lane a l - c.second b m l) ∧
    c.SetsReg (exec (.iaddi h d a i none) s) d 0 (fun l => c.lane a l + i.signExtend 32) ∧
    (∀ p, c.SetsReg (exec (.iaddi h d a i (some p)) s) d 0 fun l => c.lane a l + (p ++ i : BitVec 30).signExtend 32) ∧
    c.SetsReg (exec (.imul h d a b m) s) d 0 (fun l => c.lane a l * c.second b m l) ∧
    c.SetsReg (exec (.imulh h d a b m pf) s) d 0 (fun l =>
      BitVec.ofInt 32 (numberOf (pfBit pf 1) (c.lane a l) * numberOf (pfBit pf 1) (c.second b m l) / 2 ^ 32)) ∧
    c.SetsReg (exec (.imad h d a b m pf) s) d 0 (fun l => c.lane a l * c.second b m l + c.val (thirdReg pf d) l) ∧
    c.SetsReg (exec (.imin h d a b m pf) s) d 0 (fun l =>
      if numberOf (pfBit pf 1) (c.lane a l) < numberOf (pfBit pf 1) (c.second b m l) then c.lane a l else c.second b m l) ∧
    c.SetsReg (exec (.imax h d a b m pf) s) d 0 (fun l =>
      if numberOf (pfBit pf 1) (c.lane a l) < numberOf (pfBit pf 1) (c.second b m l) then c.second b m l else c.lane a l)

/-- R373, R412: IADDW, ISUBW and SHLW complete with the 64-bit result in the pair d of every lane of Exec and nothing else changed. -/
def Obligations.WideArithmetic : Prop :=
  ∀ (s : State) (h : Hdr) (c : Cx) (d a b : BitVec 6) (m : Bool), Runs s h c → c.Holds (pairRegs d ++ pairRegs a ++ regsB b m) →
    c.SetsPair (exec (.iaddw h d a b m) s) d 0 (fun l =>
      c.pair a.toNat l + if m then b.setWidth 64 else (c.lane b l).signExtend 64) ∧
    c.SetsPair (exec (.isubw h d a b m) s) d 0 (fun l =>
      c.pair a.toNat l - if m then b.setWidth 64 else (c.lane b l).signExtend 64) ∧
    c.SetsPair (exec (.shlw h d a b m) s) d 0 (fun l =>
      if 64 ≤ (c.second b m l).toNat then 0 else c.pair a.toNat l <<< (c.second b m l).toNat)

/-- R337, R404, R408: AND, OR, XOR, SHL, SHR, SAR and ROT complete with the named word in every lane of Exec and nothing else changed; a shift by 32 or more leaves zeros, or copies of the sign for SAR. -/
def Obligations.LogicAndShifts : Prop :=
  ∀ (s : State) (h : Hdr) (c : Cx) (d a b : BitVec 6) (m : Bool), Runs s h c → c.Holds ([d.toNat, a.toNat] ++ regsB b m) →
    c.SetsReg (exec (.and h d a b m) s) d 0 (fun l => c.lane a l &&& c.second b m l) ∧
    c.SetsReg (exec (.or h d a b m) s) d 0 (fun l => c.lane a l ||| c.second b m l) ∧
    c.SetsReg (exec (.xor h d a b m) s) d 0 (fun l => c.lane a l ^^^ c.second b m l) ∧
    c.SetsReg (exec (.shl h d a b m) s) d 0 (fun l => c.lane a l <<< (c.second b m l).toNat) ∧
    c.SetsReg (exec (.shr h d a b m) s) d 0 (fun l => c.lane a l >>> (c.second b m l).toNat) ∧
    c.SetsReg (exec (.sar h d a b m) s) d 0 (fun l => (c.lane a l).sshiftRight (c.second b m l).toNat) ∧
    c.SetsReg (exec (.rot h d a b m) s) d 0 (fun l => (c.lane a l).rotateLeft ((c.second b m l).toNat % 32))

/-- R342, R343, R382: LOP3, POPC, CLZ, BREV, BFX and BFI complete; each bit of the result, or the count, is as its entry says, and nothing else changed. -/
def Obligations.BitOperations : Prop :=
  ∀ (s : State) (h : Hdr) (c : Cx) (d a b : BitVec 6) (m : Bool) (pf : Option (BitVec 23)), Runs s h c →
    c.Holds ([d.toNat, a.toNat, b.toNat, pfField pf 8 6, thirdReg pf d]) →
    (∃ f, c.SetsReg (exec (.lop3 h d a b m pf) s) d 0 f ∧ ∀ l i, i < 32 →
      (f l).getLsbD i = pfBit pf (((c.lane a l).getLsbD i).toNat + 2 * ((c.second b m l).getLsbD i).toNat +
        4 * ((c.val (pfField pf 8 6) l).getLsbD i).toNat)) ∧
    (∃ f, c.SetsReg (exec (.popc h d a) s) d 0 f ∧ ∀ l, (f l).toNat = (List.range 32).countP fun i => (c.lane a l).getLsbD i) ∧
    (∃ f, c.SetsReg (exec (.clz h d a) s) d 0 f ∧ ∀ l, (f l).toNat ≤ 32 ∧
      (∀ i, 32 - (f l).toNat ≤ i → (c.lane a l).getLsbD i = false) ∧
      ((f l).toNat < 32 → (c.lane a l).getLsbD (31 - (f l).toNat) = true)) ∧
    (∃ f, c.SetsReg (exec (.brev h d a) s) d 0 f ∧ ∀ l i, i < 32 → (f l).getLsbD i = (c.lane a l).getLsbD (31 - i)) ∧
    (∃ f, c.SetsReg (exec (.bfx h d a b m) s) d 0 f ∧ ∀ l i, i < 32 →
      let p := ((c.lane b l).extractLsb' 0 8).toNat
      let w := min ((c.lane b l).extractLsb' 8 8).toNat (32 - p)
      (f l).getLsbD i = if i < w then (c.lane a l).getLsbD (p + i) else m && decide (0 < w) && (c.lane a l).getLsbD (p + w - 1)) ∧
    (∃ f, c.SetsReg (exec (.bfi h d a b pf) s) d 0 f ∧ ∀ l i, i < 32 →
      let p := ((c.lane b l).extractLsb' 0 8).toNat
      let w := min ((c.lane b l).extractLsb' 8 8).toNat (32 - p)
      (f l).getLsbD i = if p ≤ i ∧ i < p + w then (c.lane a l).getLsbD (i - p) else (c.val (thirdReg pf d) l).getLsbD i)

/-- R387, R391, R392, R397: MOV, MOVI and P2V complete with their value in every lane of Exec; NOP and PFX complete with no effect. -/
def Obligations.Moves : Prop :=
  ∀ (s : State) (h : Hdr) (c : Cx) (d a : BitVec 6) (i : BitVec 13), Runs s h c → c.Holds [d.toNat, a.toNat] →
    c.SetsReg (exec (.mov h d a) s) d 0 (fun l => c.lane a l) ∧
    c.SetsReg (exec (.movi h d i none) s) d 0 (fun _ => i.signExtend 32) ∧
    (∀ p : BitVec 23, c.SetsReg (exec (.movi h d i (some p)) s) d 0 fun _ => BitVec.ofNat 32 (i.toNat + 2 ^ 13 * (p.toNat % 2 ^ 19))) ∧
    (∃ f, c.SetsReg (exec (.p2v h d) s) d 0 f ∧ ∀ l j, l < 64 → (f l).getLsbD j = (decide (j < 8) && (c.w.pred j).getLsbD l)) ∧
    exec (.nop h) s = .next s ∧ ∀ hi lo, exec (.pfx hi lo) s = .next s

/-- R376, R398, R427: ISETP and ISETPW write the compare CMP names, PLOP its function of two predicates, and V2P predicates p0 to p6 from a lane's bits, in the lanes of Exec and nothing else. -/
def Obligations.PredicateWords : Prop :=
  ∀ (s : State) (h : Hdr) (c : Cx) (p f q r : BitVec 3) (a b : BitVec 6) (m n : Bool) (pf : Option (BitVec 23)), Runs s h c →
    c.Holds (pairRegs a ++ pairB b m) →
    (∀ cmp ∈ [((0 : BitVec 3), fun x y : Int => decide (x = y)), (1, fun x y => decide (x ≠ y)), (2, fun x y => decide (x < y)),
        (3, fun x y => decide (x ≤ y)), (4, fun x y => decide (x > y)), (5, fun x y => decide (x ≥ y))],
      c.SetsPred (exec (.isetp h p cmp.1 a b m pf) s) p 0 (fun l =>
        cmp.2 (numberOf (pfBit pf 1) (c.lane a l)) (numberOf (pfBit pf 1) (c.second b m l))) ∧
      c.SetsPred (exec (.isetpw h p cmp.1 a b m pf) s) p 0 (fun l =>
        let y : BitVec 64 := if m then b.setWidth 64 else c.pair b.toNat l
        if pfBit pf 1 then cmp.2 (c.pair a.toNat l).toNat y.toNat else cmp.2 (c.pair a.toNat l).toInt y.toInt)) ∧
    (f.toNat < 4 → c.SetsPred (exec (.plop h p f q r n) s) p 0 (fun l =>
      let x := (c.w.pred q.toNat).getLsbD l
      let y := (c.w.pred r.toNat).getLsbD l ^^ n
      [x && y, x || y, x ^^ y, x].getD f.toNat false)) ∧
    ∃ t, exec (.v2p h a) s = .next (c.withWarp t) ∧ ∀ w, (t w) = { w with preds := (t w).preds } ∧
      ∀ j l, j < 7 → l < 64 → ((t w).pred j).getLsbD l = if c.ex.getLsbD l then (c.lane a l).getLsbD j else (w.pred j).getLsbD l

/-- R72, R73: when Exec covers the destination's live set, IADD and ISUB of U and A sources give the sum or difference of bases and strides, IMUL and SHL of an A source by a U one scale both, and AND of U sources gives U; a write to fewer lanes leaves a G register. -/
def Obligations.ShapeTags : Prop :=
  ∀ (s : State) (h : Hdr) (c : Cx) (d a b : BitVec 6) (m : Bool), Runs s h c → c.Holds ([d.toNat, a.toNat] ++ regsB b m) →
    let gives (i : Instr) (v : RVal) : Prop := exec i s = .next (c.withWarp fun w => w.setReg c.fid d.toNat v)
    (subset (c.w.liveSet c.fid d.toNat) c.ex = true →
      (∀ x p y q, (c.reg a.toNat).line = some (x, p) → (c.opB b m).line = some (y, q) →
        gives (.iadd h d a b m none) (RVal.affine (x + y) (p + q)) ∧ gives (.isub h d a b m none) (RVal.affine (x - y) (p - q))) ∧
      (∀ x p y, c.reg a.toNat = .a x p → c.opB b m = .u y →
        gives (.imul h d a b m) (RVal.affine (x * y) (p * y)) ∧ gives (.shl h d a b m) (RVal.affine (x <<< y.toNat) (p <<< y.toNat))) ∧
      (∀ x y, c.reg a.toNat = .u x → c.opB b m = .u y → gives (.and h d a b m) (.u (x &&& y)))) ∧
    (subset (c.w.liveSet c.fid d.toNat) c.ex = false →
      ∃ v : Warp → RVal, exec (.mov h d a) s = .next (c.withWarp fun w => w.setReg c.fid d.toNat (v w)) ∧ ∀ w, (v w).code = 2)

/-- R70, R71: the values and codes of the three shape tags, A with stride 0 being U; p7 reads as 1 and ignores writes, and a predicate write changes one predicate, in the lanes of Exec. R72, R74, R78: a write of a register gives the lanes of Exec the new value and leaves the register's other live lanes as they were; when it misses a live lane, or its value is tagged G, the register is G; a narrow write keeps the other half of every lane. R69: a word that names a v register outside the current frame traps FRAME, sub-cause 0x01. -/
def Obligations.RegisterRules : Prop :=
  (∀ (x p : Word) (vs : List Word) (l : Nat), (RVal.u x).get l = x ∧ (RVal.a x p).get l = x + BitVec.ofNat 32 l * p ∧
    (RVal.g vs).get l = vs.getD l 0 ∧ (RVal.u x).code = 0 ∧ (RVal.a x p).code = 1 ∧ (RVal.g vs).code = 2 ∧
    (∀ q, (RVal.affine x q).get l = x + BitVec.ofNat 32 l * q ∧ ((RVal.affine x q).code = 0 ↔ q = 0))) ∧
  (∀ (w : Warp) (p : Nat) (ex v : Mask) (l : Nat), l < 64 →
    (w.pred 7).getLsbD l = true ∧ w.setPred 7 ex v = w ∧
    (p < 7 → ((w.setPred p ex v).pred p).getLsbD l = if ex.getLsbD l then v.getLsbD l else (w.pred p).getLsbD l) ∧
    (p < 7 → ∀ q, q ≠ p → (w.setPred p ex v).pred q = w.pred q) ∧ (w.setPred p ex v) = { w with preds := (w.setPred p ex v).preds }) ∧
  (∀ (W : Nat) (old val : RVal) (ex live : Mask) (k : Word) (l : Nat), l < W → l < 64 →
    let new : RVal := RVal.write W old ex live k val
    (ex.getLsbD l = true → new.get l = (old.get l &&& ~~~k) ||| (val.get l &&& k)) ∧
    (ex.getLsbD l = false → live.getLsbD l = true → new.get l = old.get l) ∧
    ((∃ j, j < 64 ∧ live.getLsbD j = true ∧ ex.getLsbD j = false) → new.code = 2) ∧ (val.code = 2 → new.code = 2)) ∧
  ∀ (s : State) (h : Hdr) (c : Cx) (d a b : BitVec 6) (f : Frame), Runs s h c → c.w.frame? c.fid = some f →
    ((d.toNat < 56 ∧ f.size ≤ d.toNat) ∨ (a.toNat < 56 ∧ f.size ≤ a.toNat) → c.Traps (exec (.mov h d a) s) 0x0B 1 0 0) ∧
    (∀ m, (a.toNat < 55 ∧ f.size ≤ a.toNat + 1) ∨ (d.toNat < 55 ∧ f.size ≤ d.toNat + 1) → c.Traps (exec (.iaddw h d a b m) s) 0x0B 1 0 0) ∧
    ∀ m, b.toNat < 56 → f.size ≤ b.toNat → c.Traps (exec (.and h d a b false) s) 0x0B 1 0 0 ∧
      ∀ q k, c.Traps (exec (.fsetp h q k a b false) s) 0x0B 1 0 0 ∧ (m = false → c.Traps (exec (.fadd h d a b m) s) 0x0B 1 0 0)

/-- R365, R127, R132: FADD, FSUB, FMUL, FFMA, FMIN and FMAX complete with the rounded result of their operation in every lane of Exec, OR their flags into FPFLAGS, and change nothing else. R359, R128: DADD, DMUL, DFMA, DMIN and DMAX complete with the rounded 64-bit result in the pair d, never flush, OR their flags into FPFLAGS, and change nothing else. -/
def Obligations.FloatArithmetic : Prop :=
  (∀ (s : State) (h : Hdr) (c : Cx) (d a b : BitVec 6) (m : Bool) (pf : Option (BitVec 23)), Runs s h c →
     c.Holds ([d.toNat, a.toNat, thirdReg pf d] ++ regsB b m) →
     let x (l : Nat) : Nat := (c.lane a l).toNat
     let y (l : Nat) : Nat := if m then f32.ofNat b.toNat % 2 ^ 32 else (c.lane b l).toNat
     let gives (i : Instr) (r : Nat → Nat × Word) : Prop :=
       c.SetsReg (exec i s) d (c.orFlags fun l => (r l).2) fun l => BitVec.ofNat 32 (r l).1
     gives (.fadd h d a b m) (fun l => f32.addF c.rm c.ftz (x l) (y l)) ∧
     gives (.fsub h d a b m) (fun l => f32.subF c.rm c.ftz (x l) (y l)) ∧
     gives (.fmul h d a b m) (fun l => f32.mulF c.rm c.ftz (x l) (y l)) ∧
     gives (.ffma h d a b m pf) (fun l => f32.fmaF c.rm c.ftz (x l) (y l) (c.val (thirdReg pf d) l).toNat) ∧
     gives (.fmin h d a b m) (fun l => f32.minmax c.ftz false (x l) (y l)) ∧
     gives (.fmax h d a b m) (fun l => f32.minmax c.ftz true (x l) (y l))) ∧
  (∀ (s : State) (h : Hdr) (c : Cx) (d a b : BitVec 6) (m : Bool) (pf : Option (BitVec 23)), Runs s h c →
     c.Holds (pairRegs d ++ pairRegs a ++ pairB b m ++ [thirdReg pf d, thirdReg pf d + 1]) →
     let x (l : Nat) : Nat := (c.pair a.toNat l).toNat
     let y (l : Nat) : Nat := (c.f64B b m l).toNat
     let gives (i : Instr) (r : Nat → Nat × Word) : Prop :=
       c.SetsPair (exec i s) d (c.orFlags fun l => (r l).2) fun l => BitVec.ofNat 64 (r l).1
     gives (.dadd h d a b m) (fun l => f64.addF c.rm false (x l) (y l)) ∧
     gives (.dmul h d a b m) (fun l => f64.mulF c.rm false (x l) (y l)) ∧
     gives (.dfma h d a b m pf) (fun l => f64.fmaF c.rm false (x l) (y l) (c.pair (thirdReg pf d) l).toNat) ∧
     gives (.dmin h d a b m) (fun l => f64.minmax false false (x l) (y l)) ∧
     gives (.dmax h d a b m) (fun l => f64.minmax false true (x l) (y l)))

/-- R371: HADD2, HMUL2 and HFMA2 complete with the operation done on each 16-bit half, in f16 or with payload bit 2 in bf16, and OR the flags of both halves into FPFLAGS. -/
def Obligations.PackedHalf : Prop :=
  ∀ (s : State) (h : Hdr) (c : Cx) (d a b : BitVec 6) (m : Bool) (pf : Option (BitVec 23)), Runs s h c →
    c.Holds ([d.toNat, a.toNat, thirdReg pf d] ++ regsB b m) →
    let g : Fmt := if pfBit pf 2 then bf16 else f16
    let z : Bool := if pfBit pf 2 then false else c.ftz
    let half (v : Word) (i : Nat) : Nat := v.toNat / 2 ^ (16 * i) % 2 ^ 16
    let y (l i : Nat) : Nat := if m then g.ofNat b.toNat % 2 ^ 16 else half (c.lane b l) i
    let gives (i : Instr) (r : Nat → Nat → Nat × Word) : Prop :=
      c.SetsReg (exec i s) d (c.orFlags fun l => (r l 0).2 ||| (r l 1).2) fun l =>
        BitVec.ofNat 32 ((r l 0).1 % 2 ^ 16 + 2 ^ 16 * ((r l 1).1 % 2 ^ 16))
    gives (.hadd2 h d a b m pf) (fun l i => g.addF c.rm z (half (c.lane a l) i) (y l i)) ∧
    gives (.hmul2 h d a b m pf) (fun l i => g.mulF c.rm z (half (c.lane a l) i) (y l i)) ∧
    gives (.hfma2 h d a b m pf) (fun l i => g.fmaF c.rm z (half (c.lane a l) i) (y l i) (half (c.val (thirdReg pf d) l) i))

/-- R361, R133: FSETP and DSETP write the compare CMP names and its flags, and nothing else. R133: the compare of two numbers is that of the values they stand for, zeros of either sign equal, with no flag; with a NaN operand only ne and unordered hold, and INVALID is raised by an ordered compare or a signalling NaN. -/
def Obligations.FloatCompares : Prop :=
  (∀ (s : State) (h : Hdr) (c : Cx) (p k : BitVec 3) (a b : BitVec 6) (m : Bool), Runs s h c → c.Holds (pairRegs a ++ pairB b m) →
    let r (l : Nat) : Bool × Word := f32.compare c.ftz k.toNat (c.lane a l).toNat ((c.f32B b m).get l).toNat
    let q (l : Nat) : Bool × Word := f64.compare false k.toNat (c.pair a.toNat l).toNat (c.f64B b m l).toNat
    c.SetsPred (exec (.fsetp h p k a b m) s) p (c.orFlags fun l => (r l).2) (fun l => (r l).1) ∧
    c.SetsPred (exec (.dsetp h p k a b m) s) p (c.orFlags fun l => (q l).2) (fun l => (q l).1)) ∧
  ∀ f ∈ [f32, f64], ∀ (ftz : Bool) (cmp x y : Nat), cmp < 8 →
    let u := f.value (f.input ftz x)
    let v := f.value (f.input ftz y)
    let res (lt gt : Bool) : Bool × Word := ([!lt && !gt, lt || gt, lt, !gt, gt, !lt, false, true].getD cmp false, 0)
    (u.isNan = true ∨ v.isNan = true →
      f.compare ftz cmp x y = (decide (cmp = 1 ∨ cmp = 6), if (2 ≤ cmp ∧ cmp ≤ 5) ∨ u.isSig = true ∨ v.isSig = true then fInvalid else 0)) ∧
    (∀ n k, u = .inf n → v = .inf k → f.compare ftz cmp x y = res (n && !k) (k && !n)) ∧
    (∀ n k j e, u = .inf n → v = .fin k j e → f.compare ftz cmp x y = res n (!n)) ∧
    (∀ n k j e, u = .fin k j e → v = .inf n → f.compare ftz cmp x y = res (!n) n) ∧
    (∀ n i d k j e q, u = .fin n i d → v = .fin k j e → q ≤ d → q ≤ e →
      f.compare ftz cmp x y = res (decide (scaled n i (d - q) < scaled k j (e - q))) (decide (scaled k j (e - q) < scaled n i (d - q))))

/-- R127: a value between two multiples of the unit rounds to the multiple its mode names: the nearer one, the even one on a tie, the one toward zero, toward plus infinity, or toward minus infinity. R130: a sum, difference or product with a NaN operand is the canonical NaN of its format and raises INVALID exactly when an operand signals; so is a fused product with a quiet NaN factor, which raises nothing. -/
def Obligations.RoundingAndNans : Prop :=
  (∀ (neg : Bool) (n : Nat) (e q : Int), e < q →
     let den := 2 ^ (q - e).toNat
     let r (mode : Nat) : Nat := (roundAt mode neg n e q).1
     (r 0 * den ≤ n + den / 2 ∧ n ≤ r 0 * den + den / 2) ∧
     (2 * (n % den) = den → r 0 % 2 = 0) ∧
     (r 1 = n / den) ∧
     (r 2 * den < n + den ∧ n < (r 2 + 1) * den ∧ (neg = false → n ≤ r 2 * den) ∧ (neg = true → r 2 * den ≤ n)) ∧
     (r 3 * den < n + den ∧ n < (r 3 + 1) * den ∧ (neg = true → n ≤ r 3 * den) ∧ (neg = false → r 3 * den ≤ n)) ∧
     ∀ mode, (roundAt mode neg n e q).2 = true ↔ r mode * den ≠ n) ∧
  (∀ f ∈ [f64, f32, f16, bf16], ∀ (mode : Nat) (ftz : Bool) (x y : Nat),
     (f.value (f.input ftz x)).isNan = true ∨ (f.value (f.input ftz y)).isNan = true →
     let k : Word := if (f.value (f.input ftz x)).isSig ∨ (f.value (f.input ftz y)).isSig then fInvalid else 0
     f.addF mode ftz x y = (f.nan, k) ∧ f.subF mode ftz x y = (f.nan, k) ∧ f.mulF mode ftz x y = (f.nan, k) ∧
     ((f.value (f.input ftz x)).isSig = false → (f.value (f.input ftz y)).isSig = false →
       ∀ z, (f.value (f.input ftz z)).isSig = false → f.fmaF mode ftz x y z = (f.nan, 0)))

/-- R366, R132, R135: each special function completes with one return-buffer entry that will take its table's result in every lane of Exec, and ORs its flags into FPFLAGS at issue. R135: the results the special functions fix: reciprocals and roots of zeros, infinities and negative numbers, the exponential and logarithm of zero and the infinities, the sine and cosine of zero and the infinities, powers of two, and the ranges where FEXP2 overflows and FSIN and FCOS give a value of [-1, 1]; FSQRT's result is the correctly rounded root, and FRCP's lies within one ulp of the reciprocal. -/
def Obligations.SpecialFunctions : Prop :=
  (∀ (s : State) (h : Hdr) (c : Cx) (d a : BitVec 6), Runs s h c → c.Holds [d.toNat, a.toNat] →
     let gives (i : Instr) (n : Nat) : Prop :=
       c.Enters (exec i s) d (c.orFlags fun l => (sfuOp n c.rm c.ftz (c.lane a l).toNat).2)
         [fun l => BitVec.ofNat 32 (sfuOp n c.rm c.ftz (c.lane a l).toNat).1]
     gives (.frcp h d a) 0 ∧ gives (.frsq h d a) 1 ∧ gives (.fsqrt h d a) 2 ∧ gives (.fexp2 h d a) 3 ∧ gives (.flog2 h d a) 4 ∧
     gives (.fsin h d a) 5 ∧ gives (.fcos h d a) 6) ∧
  (∀ (rm : Nat) (ftz : Bool),
     sfuOp 0 rm ftz 0x00000000 = (0x7F800000, fDivZero) ∧ sfuOp 0 rm ftz 0x80000000 = (0xFF800000, fDivZero) ∧
     sfuOp 0 rm ftz 0xFF800000 = (0x80000000, 0) ∧ sfuOp 1 rm ftz 0x00000000 = (0x7F800000, fDivZero) ∧
     sfuOp 1 rm ftz 0x7F800000 = (0, 0) ∧ sfuOp 2 rm ftz 0x80000000 = (0x80000000, 0) ∧ sfuOp 3 rm ftz 0xFF800000 = (0, 0) ∧
     sfuOp 3 rm ftz 0x00000000 = (0x3F800000, 0) ∧ sfuOp 4 rm ftz 0x80000000 = (0xFF800000, fDivZero) ∧
     sfuOp 0 rm ftz 0x7F800000 = (0, 0) ∧ sfuOp 1 rm ftz 0x80000000 = (0xFF800000, fDivZero) ∧ sfuOp 2 rm ftz 0x00000000 = (0, 0) ∧
     sfuOp 2 rm ftz 0x7F800000 = (0x7F800000, 0) ∧ sfuOp 3 rm ftz 0x7F800000 = (0x7F800000, 0) ∧
     sfuOp 3 rm ftz 0x80000000 = (0x3F800000, 0) ∧ sfuOp 4 rm ftz 0x00000000 = (0xFF800000, fDivZero) ∧
     sfuOp 4 rm ftz 0x7F800000 = (0x7F800000, 0) ∧ sfuOp 5 rm ftz 0x00000000 = (0, 0) ∧ sfuOp 6 rm ftz 0x80000000 = (0x3F800000, 0) ∧
     sfuOp 5 rm ftz 0x80000000 = (0x80000000, 0) ∧ sfuOp 6 rm ftz 0x00000000 = (0x3F800000, 0) ∧
     (∀ n ∈ [1, 2, 4], ∀ x, x < 2 ^ 32 → x.testBit 31 = true → f32.subnormal x = false → x % 2 ^ 31 ≠ 0 → sfuOp n rm ftz x =
       (f32.nan, if (f32.value x).isNan && !(f32.value x).isSig then 0 else fInvalid)) ∧
     (∀ n ∈ [5, 6], ∀ x ∈ [0x7F800000, 0xFF800000], sfuOp n rm ftz x = (f32.nan, fInvalid)) ∧
     (∀ k, 1 ≤ k → k ≤ 253 → sfuOp 0 rm ftz (k * 2 ^ 23) = ((254 - k) * 2 ^ 23, 0)) ∧
     (∀ k, 1 ≤ k → k ≤ 126 → sfuOp 1 rm ftz ((2 * k + 1) * 2 ^ 23) = ((190 - k) * 2 ^ 23, 0)) ∧
     (∀ n, n < 2 ^ 7 → sfuOp 3 rm ftz (f32.ofNat n) = ((n + 127) * 2 ^ 23, 0) ∧ sfuOp 4 rm ftz ((n + 127) * 2 ^ 23) = (f32.ofNat n, 0)) ∧
     (∀ x, 0x43000000 ≤ x → x < 0x7F800000 → sfuOp 3 rm ftz x = (0x7F800000, fOverflow ||| fInexact)) ∧
     (∀ n ∈ [5, 6], ∀ x, 0x49800000 < x → x < 0x7F800000 → (sfuOp n rm ftz x).1 % 2 ^ 31 ≤ 0x3F800000 ∧ (sfuOp n rm ftz x).2 = fInexact)) ∧
  (∀ (rm : Nat) (ftz : Bool) (x m k : Nat) (e a : Int) (n : Bool), rm < 4 → f32.value x = .fin false m e → f32.subnormal x = false → m ≠ 0 →
     f32.value (sfuOp 2 rm ftz x).1 = .fin n k a →
     let X : Nat := m * 2 ^ (e + 300).toNat
     let sq (j : Nat) : Nat := j ^ 2 * 2 ^ (2 * a + 298).toNat
     n = false ∧ (rm = 0 → sq (2 * k - 1) ≤ X ∧ X ≤ sq (2 * k + 1)) ∧ (rm = 1 ∨ rm = 3 → sq (2 * k) ≤ X ∧ X < sq (2 * k + 2)) ∧
       (rm = 2 → sq (2 * k - 2) < X ∧ X ≤ sq (2 * k))) ∧
  (∀ (rm x m k : Nat) (e a : Int) (n j : Bool), f32.value x = .fin n m e → m ≠ 0 → f32.value (sfuOp 0 rm false x).1 = .fin j k a →
     let u : Int := max (-(e + bitLen m)) (-126) - 23
     j = n ∧ ((k * m * 2 ^ (e + a + 600).toNat : Nat) - (2 ^ 600 : Nat) : Int).natAbs ≤ m * 2 ^ (e + u + 600).toNat)

/-- R368, R353, R137: FRND completes with its operand rounded to an integral value, and CVT with its operand converted into the bits HALF and BYTE name, each as one return-buffer entry, with their flags. R368: the integral value, by mode; R136 (log entry 97 on its flags): a floating value to an integer, rounded and clamped; to a floating type, exact where the type holds it, NaN and infinities by the table; an integer to the other integer type; and the corners the table gives of e4m3 and e5m2. -/
def Obligations.Conversions : Prop :=
  (∀ (s : State) (h : Hdr) (c : Cx) (d a : BitVec 6) (t : BitVec 2) (x y : BitVec 3) (m : Bool) (pf : Option (BitVec 23)), Runs s h c →
    c.Holds (pairRegs d ++ pairRegs a) →
    let r (l : Nat) : Nat × Word := f32.integral t.toNat c.ftz (c.lane a l).toNat
    let q (l : Nat) : Nat × Word := f64.integral t.toNat false (c.pair a.toNat l).toNat
    let v (l : Nat) : Nat × Word := cvtOp x.toNat y.toNat (if m then 1 else 0) c.ftz (pfBit pf 0) (c.cvtSrc y.toNat a l)
    c.Enters (exec (.frnd h d a false t) s) d (c.orFlags fun l => (r l).2) [fun l => BitVec.ofNat 32 (r l).1] ∧
    c.Enters (exec (.frnd h d a true t) s) d (c.orFlags fun l => (q l).2)
      [fun l => lo32 (BitVec.ofNat 64 (q l).1), fun l => hi32 (BitVec.ofNat 64 (q l).1)] ∧
    (x = 0 → c.Enters (exec (.cvt h d a x y m pf) s) d (c.orFlags fun l => (v l).2)
      [fun l => lo32 (BitVec.ofNat 64 (v l).1), fun l => hi32 (BitVec.ofNat 64 (v l).1)]) ∧
    (x ≠ 0 → ∃ e : Warp → Entry,
      exec (.cvt h d a x y m pf) s = .next (c.withWarp fun w => (w.orFlags (c.orFlags fun l => (v l).2)).push (e w)) ∧
      ∀ w, c.NewEntry w.nextSeq (e w) ∧ (e w).pend = .value ∧ (e w).dests = [.reg d.toNat c.fid (cvtPlaceOf x.toNat pf).1] ∧
        ∃ u, (e w).vals = [u] ∧ ∀ l, l < c.W → c.ex.getLsbD l = true → u.get l = BitVec.ofNat 32 ((v l).1 * 2 ^ (cvtPlaceOf x.toNat pf).2))) ∧
  (∀ f ∈ [f32, f64], ∀ (mode : Nat) (ftz : Bool) (x : Nat),
     let v := f.value (f.input ftz x)
     (v.isNan = true → f.integral mode ftz x = (f.nan, if v.isSig then fInvalid else 0)) ∧
     (∀ n, v = .inf n → f.integral mode ftz x = (f.input ftz x, 0)) ∧ (∀ n e, v = .fin n 0 e → f.integral mode ftz x = (f.input ftz x, 0)) ∧
     ∀ n m e, v = .fin n m e → m ≠ 0 → (f.integral mode ftz x).2 = 0 ∧ ∃ k a, f.value (f.integral mode ftz x).1 = .fin n k a ∧
       k * 2 ^ a.toNat = (roundAt mode n m e 0).1 * 2 ^ (-a).toNat) ∧
  (∀ p ∈ [(0, f64), (1, f32), (2, f16), (3, bf16), (4, e4m3), (5, e5m2)], ∀ (mode raw : Nat) (ftz sat : Bool),
     let v := p.2.value (p.2.input (ftz && (p.1 == 1 || p.1 == 2)) raw)
     (∀ q ∈ [(6, -2147483648, 2147483647), (7, (0 : Int), (4294967295 : Int))],
       let r := cvtOp q.1 p.1 mode ftz sat raw
       (v.isNan = true → r = (0, fInvalid)) ∧
       (∀ n, v = .inf n → BitVec.ofNat 32 r.1 = BitVec.ofInt 32 (if n then q.2.1 else q.2.2) ∧ r.2 = fInvalid) ∧
       ∀ n m e, v = .fin n m e →
         let t : Int := scaled n (roundAt mode n m e 0).1 0
         BitVec.ofNat 32 r.1 = BitVec.ofInt 32 (max q.2.1 (min q.2.2 t)) ∧
           r.2 = if t < q.2.1 ∨ q.2.2 < t then fInvalid else if (roundAt mode n m e 0).2 then fInexact else 0) ∧
     ∀ g ∈ [(0, f64), (1, f32), (2, f16), (3, bf16), (4, e4m3), (5, e5m2)],
       let r := cvtOp g.1 p.1 mode ftz sat raw
       (v.isNan = true → r = (g.2.nan, if v.isSig then fInvalid else 0)) ∧
       (∀ n, v = .inf n → sat = false → r = if g.1 = 4 then (0x7F, fInvalid) else (g.2.inf n, 0)) ∧
       ∀ n m e y k a b, ftz = false → v = .fin n m e → g.2.value y = .fin n k a → b ≤ e → b ≤ a → m * 2 ^ (e - b).toNat = k * 2 ^ (a - b).toNat →
         r.2 = 0 ∧ ∃ j d, g.2.value r.1 = .fin n j d ∧ ∀ b, b ≤ e → b ≤ d → m * 2 ^ (e - b).toNat = j * 2 ^ (d - b).toNat) ∧
  (∀ (x : Word) (ftz : Bool) (mode : Nat), cvtOp 6 7 mode ftz false x.toNat = (x.toNat, 0) ∧ cvtOp 7 6 mode ftz false x.toNat = (x.toNat, 0) ∧
     cvtOp 6 7 mode ftz true x.toNat = (min x.toNat 2147483647, 0) ∧ cvtOp 7 6 mode ftz true x.toNat = ((max 0 x.toInt).toNat, 0)) ∧
  (∀ ftz, cvtOp 4 1 0 ftz true 0x43FA0000 = (0x7E, fSat ||| fInexact) ∧ cvtOp 4 1 0 ftz false 0x43E80000 = (0x7E, fInexact) ∧
     cvtOp 4 1 0 ftz false 0x43E88000 = (0x7F, fOverflow ||| fInexact) ∧ cvtOp 4 1 1 ftz false 0x43E80000 = (0x7E, fOverflow ||| fInexact) ∧
     cvtOp 5 1 0 ftz false 0x47700000 = (0x7C, fOverflow ||| fInexact) ∧ cvtOp 5 1 1 ftz false 0x47600100 = (0x7B, fOverflow ||| fInexact) ∧
     ∀ p ∈ [((0 : Nat), (0xC0000000 : Nat)), (1, 0xC0000000), (2, 0xC0000000), (3, 0xC0400000)], f32.integral p.1 ftz 0xC0200000 = (p.2, 0))

/-- R76, R384, R411: SHAPE, UNIF, MATCH and the four SHFLs complete with one return-buffer entry whose value in a lane of Exec is the shape code, the lowest lane's value, the mask of the lanes that agree, or the value of the lane the selector names (the lane's own where that lane is out of range or outside Exec). -/
def Obligations.CrossLaneMoves : Prop :=
  ∀ (s : State) (h : Hdr) (c : Cx) (d a b : BitVec 6) (pf : Option (BitVec 23)), Runs s h c → (∀ l, c.ex.getLsbD l = true → l < c.W) →
    c.Holds (pairRegs d ++ [a.toNat, b.toNat]) →
    let n (l : Nat) : Nat := match pf with | some p => p.toNat % 64 | none => (c.lane b l).toNat
    let from_ (l : Nat) (j : Nat) : Word := if c.ex.getLsbD j then c.lane a j else c.lane a l
    c.Enters (exec (.shape h d a) s) d 0 [fun _ => BitVec.ofNat 32 (c.reg a.toNat).code] ∧
    c.Enters (exec (.unif h d a) s) d 0 [fun _ => c.lane a c.low] ∧
    (∃ q : Nat → Mask, c.Enters (exec (.matchW h d a) s) d 0 [fun l => lo32 (q l), fun l => hi32 (q l)] ∧
      ∀ l k, k < 64 → (q l).getLsbD k = (c.ex.getLsbD k && decide (c.lane a k = c.lane a l))) ∧
    c.Enters (exec (.shflLane h d a b pf) s) d 0 [fun l => from_ l (n l % c.W)] ∧
    c.Enters (exec (.shflSwap h d a b pf) s) d 0 [fun l => from_ l (l ^^^ (n l % c.W))] ∧
    c.Enters (exec (.shflBelow h d a b pf) s) d 0 [fun l => if n l ≤ l then from_ l (l - n l) else c.lane a l] ∧
    c.Enters (exec (.shflAbove h d a b pf) s) d 0 [fun l => if l + n l < c.W then from_ l (l + n l) else c.lane a l]

/-- R428: the five VOTEs complete with one return-buffer entry: whether all, any, or all or none of the lanes of Exec hold the source predicate true, or a half of the mask of those that do. R401, R147: REDW completes with one return-buffer entry that gives every lane the reduction over the lanes of Exec: for the integer operations their sum, least, greatest, AND, OR or exclusive OR, raising no flag; for the floating ones the root of the pairwise tree, each lane's value flushed first under FTZ and a NaN root made canonical, with the flags of the combinations (log entry 98: a lone value raises none). -/
def Obligations.VotesAndReductions : Prop :=
  (∀ (s : State) (h : Hdr) (c : Cx) (d : BitVec 6) (q p : BitVec 3), Runs s h c → c.Holds [d.toNat] →
     let yes (l : Nat) : Bool := (c.w.pred q.toNat).getLsbD l
     let votes (i : Instr) (v : Prop) : Prop :=
       ∃ e : Warp → Entry, exec i s = .next (c.withWarp fun w => w.push (e w)) ∧ ∀ w, c.NewEntry w.nextSeq (e w) ∧
         (e w).pend = .value ∧ (e w).dests = [.pred p.toNat] ∧ ∃ x, (e w).vals = [.u x] ∧ (x ≠ 0 ↔ v)
     votes (.voteAll h q p) (∀ l, c.ex.getLsbD l = true → yes l = true) ∧
     votes (.voteAny h q p) (∃ l, c.ex.getLsbD l = true ∧ yes l = true) ∧
     votes (.voteEq h q p) (∀ l k, c.ex.getLsbD l = true → c.ex.getLsbD k = true → yes l = yes k) ∧
     c.Enters (exec (.voteBallotLo h d q) s) d 0 [fun _ => lo32 (c.ex &&& c.w.pred q.toNat)] ∧
     c.Enters (exec (.voteBallotHi h d q) s) d 0 [fun _ => hi32 (c.ex &&& c.w.pred q.toNat)]) ∧
  (∀ (s : State) (h : Hdr) (c : Cx) (d a b : BitVec 6), Runs s h c → c.Holds [d.toNat, a.toNat] →
     c.W ∈ [16, 32, 64] → (∀ l, c.ex.getLsbD l = true → l < c.W) →
     let vs : List Word := c.lanes.map fun l => c.lane a l
     let gives (r : Word) : Prop := c.Enters (exec (.redw h d a b) s) d 0 [fun _ => r]
     (b = 0 → gives (vs.foldl (fun x y => x + y) 0)) ∧
     (b = 2 → ∃ r ∈ vs, gives r ∧ ∀ v ∈ vs, r.toInt ≤ v.toInt) ∧
     (b = 3 → ∃ r ∈ vs, gives r ∧ ∀ v ∈ vs, v.toInt ≤ r.toInt) ∧
     (b = 4 → ∃ r ∈ vs, gives r ∧ ∀ v ∈ vs, r.toNat ≤ v.toNat) ∧
     (b = 5 → ∃ r ∈ vs, gives r ∧ ∀ v ∈ vs, v.toNat ≤ r.toNat) ∧
     (b = 8 → gives (vs.foldl (fun x y => x &&& y) (~~~0))) ∧
     (b = 9 → gives (vs.foldl (fun x y => x ||| y) 0)) ∧
     (b = 10 → gives (vs.foldl (fun x y => x ^^^ y) 0)) ∧
     (∀ p ∈ [((1 : BitVec 6), f32.addF 0 c.ftz), (6, f32.minmax c.ftz false), (7, f32.minmax c.ftz true)], b = p.1 →
       let one (x y : Word) : Word := BitVec.ofNat 32 (p.2 x.toNat y.toNat).1
       let flag (x y : Word) : Word := (p.2 x.toNat y.toNat).2
       let leaf (l : Nat) : Option Word := if c.ex.getLsbD l then some (BitVec.ofNat 32 (f32.input c.ftz (c.lane a l).toNat)) else none
       ∀ n r, 2 ^ n = c.W → treeNode one leaf n 0 = some r → c.Enters (exec (.redw h d a b) s) d (treeFlags one flag leaf n 0)
         [fun _ => if (f32.value r.toNat).isNan then BitVec.ofNat 32 f32.nan else r]))

/-- R45, R80, R119, R352, R355: CRD of a short control register gives its value to every lane of Exec; of CLOCK it gives the low half and latches the high half, which CLOCKHI gives; of another long one it leaves an entry that samples the register, but FPFLAGS, whose value is the one at issue unless a MITER or mirrored word of the warp still runs (R132); of the TCTL of a tile the block does not hold it traps TILE, sub-cause 0x01. -/
def Obligations.ControlReads : Prop :=
  ∀ (s : State) (h : Hdr) (c : Cx) (d : BitVec 6) (r : BitVec 13), Runs s h c → c.Holds [d.toNat] →
    let k (v : Nat) : Nat → Word := fun _ => BitVec.ofNat 32 v
    let read (n : BitVec 13) : Host.Outcome State Fault Refusal := exec (.crd h d n) s
    (∀ p ∈ [((0x000 : BitVec 13), fun l => BitVec.ofNat 32 l), (0x001, k c.w.num), (0x002, k c.b.width), (0x003, fun _ => lo32 c.ex),
        (0x004, fun _ => hi32 c.ex), (0x005, k c.b.bx), (0x006, k c.b.bY), (0x007, k c.b.bz), (0x008, k c.desc.nx), (0x009, k c.desc.ny),
        (0x00A, k c.desc.nz), (0x00B, fun l => BitVec.ofNat 32 (c.w.num * c.b.width + l)), (0x00C, k c.b.threads), (0x00D, k c.b.die),
        (0x00E, k (c.side.core % 20)), (0x00F, k c.w.side), (0x010, k c.w.role), (0x015, k 0x00010000), (0x016, k c.desc.param),
        (0x017, k (c.desc.param / 2 ^ 32)), (0x018, fun _ => c.w.fpmode), (0x01C, fun l => BitVec.ofNat 32 (c.w.lane l).depth),
        (0x01D, fun _ => lo32 c.b.trapbase), (0x01E, fun _ => hi32 c.b.trapbase), (0x01F, k (c.b.ntags * 2 ^ 16 + c.side.tagFirst)),
        (0x060, fun _ => c.side.eng.mitcap), (0x061, fun _ => c.side.eng.mittol), (0x062, fun _ => c.side.eng.mitdiv)],
      c.SetsReg (read p.1) d 0 p.2) ∧
    (∀ f, c.w.frame? c.fid = some f → c.SetsReg (read 0x01B) d 0 (k (f.level * 2 ^ 16 + f.id * 2 ^ 8 + f.size))) ∧
    (0x040 ≤ r.toNat → r.toNat < 0x060 → c.SetsReg (read r) d 0 fun _ =>
      (if r.toNat % 2 = 0 then lo32 else hi32) (c.side.eng.coef.getD ((r.toNat - 0x040) / 2) 0)) ∧
    (0x068 ≤ r.toNat → r.toNat ≤ 0x06B → c.SetsReg (read r) d 0 fun _ => c.w.vcs.getD (r.toNat - 0x068) 0) ∧
    (0x030 ≤ r.toNat → r.toNat < 0x030 + c.b.ntiles → c.b.ntiles ≤ 16 → c.SetsReg (read r) d 0 fun _ => c.side.tctl.getD (r.toNat - 0x030) 0) ∧
    (0x030 + c.b.ntiles ≤ r.toNat → r.toNat < 0x040 → c.Traps (read r) 0x08 1 0 c.ex.toNat) ∧
    (∃ e : Warp → Entry, read 0x011 = .next (c.withWarp fun w => { w.push (e w) with clkHi := BitVec.ofNat 32 (c.is.base.clock / 2 ^ 32) }) ∧
      ∀ w, c.NewEntry w.nextSeq (e w) ∧ (e w).dests = c.wholeRegs [d.toNat] ∧ (e w).vals = [.u (BitVec.ofNat 32 c.is.base.clock)]) ∧
    c.Enters (read 0x012) d 0 [fun _ => c.w.clkHi] ∧
    (∀ n ∈ [(0x013 : BitVec 13), 0x014, 0x01A, 0x020, 0x021, 0x063, 0x064, 0x065],
      c.Awaits (read n) id (c.wholeRegs [d.toNat]) (.sample n.toNat) false []) ∧
    ∀ w0, c.s.m.warp? c.is.blk c.is.warp = some w0 → ∃ e : Warp → Entry, read 0x019 = .next (c.withWarp fun w => w.push (e w)) ∧
      ∀ w, c.NewEntry w.nextSeq (e w) ∧ (e w).dests = c.wholeRegs [d.toNat] ∧ (e w).vals = [.u w0.fpflags] ∧
        (e w).pend = if c.miterOpen then .sample 0x019 else .value

/-- R354, R355: CWR of a U register with a valid value writes the named control register in its scope (a tile or engine register, the copy of the issuing core) and nothing else; of an invalid value, a tile the block does not hold or a register that is not U it traps and writes nothing. -/
def Obligations.ControlWrites : Prop :=
  ∀ (s : State) (h : Hdr) (c : Cx) (d : BitVec 6) (r : BitVec 13) (v : Word), Runs s h c → c.Holds [d.toNat] → c.lane d c.low = v →
    let wrote (n : BitVec 13) : Host.Outcome State Fault Refusal := exec (.cwr h d n) s
    let side (f : Side → Side) (m : Mach) : Mach := m.updBlock c.is.blk fun b => b.updSide c.w.side f
    let eng (f : MitRegs → MitRegs) : Mach → Mach := side fun x => { x with eng := f x.eng }
    ((c.reg d.toNat).isU = false → c.Traps (wrote r) 0x03 0 0 0) ∧
    ((c.reg d.toNat).isU = true →
      (v.toNat < 8 → wrote 0x018 = .next (c.withWarp fun w => { w with fpmode := v })) ∧
      (8 ≤ v.toNat → c.Traps (wrote 0x018) 0x01 3 0 0) ∧
      (v.toNat < 64 → c.Does (wrote 0x019) fun m => (m.updWarp c.is.blk c.is.warp fun w => { w with fpflags := v }).deadFlags c.is.blk c.is.warp) ∧
      (64 ≤ v.toNat → c.Traps (wrote 0x019) 0x01 3 0 0) ∧
      c.Does (wrote 0x01D) (fun m => m.updBlock c.is.blk fun b => { b with trapbase := pair64 v (hi32 b.trapbase) }) ∧
      (v.toNat < 2 ^ 20 → c.Does (wrote 0x01E) fun m => m.updBlock c.is.blk fun b => { b with trapbase := pair64 (lo32 b.trapbase) v }) ∧
      (2 ^ 20 ≤ v.toNat → c.Traps (wrote 0x01E) 0x01 3 0 0) ∧
      (0x030 ≤ r.toNat → r.toNat < 0x030 + c.b.ntiles → r.toNat < 0x040 → v.toNat / 2 ^ 18 % 2 ^ 13 = 0 → v.toNat % 16 ≤ 10 →
        v.toNat / 16 % 64 ≤ 31 → c.Does (wrote r) (side fun x => { x with tctl := putAt 0 x.tctl (r.toNat - 0x030) v })) ∧
      (0x030 ≤ r.toNat → r.toNat < 0x030 + c.b.ntiles → r.toNat < 0x040 → v.toNat / 2 ^ 18 % 2 ^ 13 ≠ 0 ∨ 10 < v.toNat % 16 ∨ 31 < v.toNat / 16 % 64 →
        c.Traps (wrote r) 0x08 6 0 c.ex.toNat) ∧
      (0x030 + c.b.ntiles ≤ r.toNat → r.toNat < 0x040 → c.Traps (wrote r) 0x08 1 0 c.ex.toNat) ∧
      (0x040 ≤ r.toNat → r.toNat < 0x060 → c.Does (wrote r) (eng fun x =>
        { x with coef := modAt x.coef ((r.toNat - 0x040) / 2) fun old => if r.toNat % 2 = 0 then pair64 v (hi32 old) else pair64 (lo32 old) v })) ∧
      (0 < v.toNat → v.toNat < 256 → c.Does (wrote 0x060) (eng fun x => { x with mitcap := v })) ∧
      (v = 0 ∨ 256 ≤ v.toNat → c.Traps (wrote 0x060) 0x08 6 0 c.ex.toNat) ∧
      (isNan32 v = false → c.Does (wrote 0x061) (eng fun x => { x with mittol := v })) ∧
      (isNan32 v = true → c.Traps (wrote 0x061) 0x08 6 0 c.ex.toNat) ∧
      (v.toNat / 2 ^ 16 % 2 ^ 15 = 0 → c.Does (wrote 0x062) (eng fun x => { x with mitdiv := v })) ∧
      (v.toNat / 2 ^ 16 % 2 ^ 15 ≠ 0 → c.Traps (wrote 0x062) 0x08 6 0 c.ex.toNat) ∧
      (v ≠ 0 → c.Traps (wrote 0x063) 0x08 6 0 c.ex.toNat) ∧
      (v = 0 → c.s.m.miterOn c.b c.w.side = false → c.Does (wrote 0x063) (eng fun x => { x with mitstat := 0, owner := none })) ∧
      (v = 0 → c.s.m.miterOn c.b c.w.side = true → c.Does (wrote 0x063) (eng fun x => { x with heldClr := true })) ∧
      (0x068 ≤ r.toNat → r.toNat ≤ 0x06B → v.toNat ≤ 64 →
        wrote r = .next (c.withWarp fun w => { w with vcs := putAt 0 w.vcs (r.toNat - 0x068) v })) ∧
      (0x068 ≤ r.toNat → r.toNat ≤ 0x06B → 64 < v.toNat → c.Traps (wrote r) 0x08 6 0 c.ex.toNat))

/-- R344, R346: BRA goes to its packet, counted from its own, and BRX to the address its U pair holds in the lowest lane; only the pc of the lanes of Exec changes. A target outside the code segment traps BOUNDS, sub-cause 0x01, a misaligned one ALIGN, sub-cause 0x01, and a pair that is not U traps SHAPE. With an empty Exec neither has an effect. -/
def Obligations.Branches : Prop :=
  (∀ (s : State) (h : Hdr) (a : BitVec 6) (t : BitVec 19) (k : Issue) (b : Block) (x : Warp), s.iss = some k →
    k.base.block? k.blk = some b → k.base.warp? k.blk k.warp = some x → k.exec x h = 0 →
    exec (.bra h t) s = .next s ∧ exec (.brx h a) s = .next s) ∧
  ∀ (s : State) (h : Hdr) (c : Cx) (a : BitVec 6) (t : BitVec 19), Runs s h c → c.Holds (pairRegs a) →
    let tp : Int := (c.is.here.pk : Int) + t.toInt
    let va : Nat := (c.pair a.toNat c.low).toNat
    let off : Nat := va - c.b.entry
    let goes (i : Instr) (p : PC) : Prop := exec i s = .next (c.withWarp fun w => w.updLanes c.ex fun l => { l with pc := p })
    (0 ≤ tp → tp ≤ 1398100 → goes (.bra h t) ⟨tp.toNat, 0⟩) ∧
    (tp < 0 ∨ 1398100 < tp → ∃ x, c.Traps (exec (.bra h t) s) 0x07 1 x c.ex.toNat) ∧
    (c.allU (pairRegs a) = false → c.Traps (exec (.brx h a) s) 0x03 0 0 0) ∧
    (c.allU (pairRegs a) = true →
      (c.b.entry ≤ va → off % 4 = 0 → off < 16777212 → goes (.brx h a) ⟨off / 12, off % 12 / 4⟩) ∧
      (va < c.b.entry ∨ c.b.entry + 2 ^ 24 ≤ va → c.Traps (exec (.brx h a) s) 0x07 1 va c.ex.toNat) ∧
      (c.b.entry ≤ va → va < c.b.entry + 2 ^ 24 → off % 4 ≠ 0 ∨ 16777212 ≤ off → c.Traps (exec (.brx h a) s) 0x04 1 va c.ex.toNat))

/-- R85, R86, R347: CALL and CALLX of a target in the segment, by lanes with room on their return stacks: each lane of Exec pushes the address of the word after the group with its frame, and goes to the target; with a demand the lines are there for, the lanes enter a new frame of that many registers, all 0. A lane 64 deep traps FRAME, sub-cause 0x04, and a call that wants a frame when 256 exist traps FRAME, sub-cause 0x06. -/
def Obligations.Calls : Prop :=
  ∀ (s : State) (h : Hdr) (c : Cx) (e : BitVec 3) (a : BitVec 6) (t : BitVec 16) (p : PC), Runs s h c → c.Holds (pairRegs a) →
    let size : Nat := 8 * e.toNat
    let pushed (l : Lane) : Lane := { l with depth := l.depth + 1, stack := ⟨c.b.entry + 12 * c.is.npc.pk + 4 * c.is.npc.sl, c.fid⟩ :: l.stack.take 15 }
    let new (w : Warp) : Warp :=
      { w with
        frames := w.frames ++ [{ id := c.w.freeFid, level := (match c.w.frame? c.fid with | some f => f.level + 1 | none => 1), size := size,
                                 members := c.ex, regs := List.replicate size (.u 0), resident := true, clob := 0, slots := [], order := w.nextOrd }],
        nextOrd := w.nextOrd + 1 }
    ∀ i, (i = .call h e t ∧ (c.is.here.pk : Int) + t.toInt = p.pk ∧ p.sl = 0 ∧ p.pk ≤ 1398100) ∨
        (i = .callx h e a ∧ c.allU (pairRegs a) = true ∧ codePc c.b.entry (c.pair a.toNat c.low).toNat = .ok p) →
      ((∃ l ∈ c.lanes, (c.w.lane l).depth = 64) → c.Traps (exec i s) 0x0B 4 0 0) ∧
      ((∀ l ∈ c.lanes, (c.w.lane l).stack.length < 16 ∧ (c.w.lane l).depth ≠ 64) →
        (e = 0 → exec i s = .next (c.withWarp fun w => (w.updLanes c.ex pushed).updLanes c.ex fun l => { l with pc := p })) ∧
        (e ≠ 0 → c.w.frames.length < 256 → c.allocates (c.b.lines size) = true →
          exec i s = .next (c.withWarp fun w =>
            ((new (w.updLanes c.ex pushed)).updLanes c.ex fun l => { l with fid := c.w.freeFid }).updLanes c.ex fun l => { l with pc := p })) ∧
        (e ≠ 0 → 256 ≤ c.w.frames.length → c.Traps (exec i s) 0x0B 6 0 0))

/-- R86, R88, R89, R402, R426: RET, and UNWIND of n entries, by lanes that hold that many on chip, each naming a live frame the lane is still a member of, with the last one's address in the segment: every lane leaves the frames passed, takes the last entry's frame and address, and reconvergence sites are looked at again. RET from depth 0 and UNWIND of 0 or of more than a lane's depth trap. -/
def Obligations.Returns : Prop :=
  ∀ (s : State) (h : Hdr) (c : Cx) (a : BitVec 6), Runs s h c → c.Holds [a.toNat] →
    (∀ (n : Nat) (i : Instr) (left : Nat → List Nat) (last : Nat → RetEnt) (dest : Nat → PC),
      (i = .ret h ∧ n = 1) ∨ (i = .unwind h a ∧ c.allU [a.toNat] = true ∧ n = (c.lane a c.low).toNat ∧ n ≠ 0) →
      (∀ l ∈ c.lanes, n ≤ (c.w.lane l).stack.length ∧ n ≤ (c.w.lane l).depth ∧ (c.w.lane l).stack[n - 1]? = some (last l) ∧
        framesPassed (fun e => match c.w.frame? e.fid with | some f => f.members.getLsbD l | none => false) (c.w.lane l).fid []
          ((c.w.lane l).stack.take n) = some (left l) ∧ codePc c.b.entry (last l).addr = .ok (dest l)) →
      c.Does (exec i s) fun m =>
        ((m.updWarp c.is.blk c.is.warp fun w =>
          ((c.lanes.foldl (fun w l => (left l).foldl (fun w f => w.leave (bit l) f) w) w).mapLanes c.ex fun l k =>
            { k with pc := dest l, fid := (last l).fid, depth := k.depth - n, stack := k.stack.drop n }).sitesCheck).grantsFor c.b c.w).awaitFill
          c.b c.is.warp c.ex) ∧
    ((∃ l ∈ c.lanes, (c.w.lane l).depth = 0) → c.Traps (exec (.ret h) s) 0x0C 1 0 0) ∧
    (c.allU [a.toNat] = false → c.Traps (exec (.unwind h a) s) 0x03 0 0 0) ∧
    (c.allU [a.toNat] = true → c.lane a c.low = 0 → c.Traps (exec (.unwind h a) s) 0x13 1 0 0) ∧
    (c.allU [a.toNat] = true → c.lane a c.low ≠ 0 → (∃ l ∈ c.lanes, (c.w.lane l).depth < (c.lane a c.low).toNat) →
      c.Traps (exec (.unwind h a) s) 0x13 2 0 0)

/-- R83, R84, R369, R413: GROW, GROW.try and SHRINK of a U count that is a positive multiple of 8, by every live lane of the frame: GROW adds that many zero registers when the pool has the lines, GROW.try the same and tells by a predicate whether it did, SHRINK takes the top ones away, and a grant pass follows it. A count that is not U, a lane left out, a bad count, and a frame that would pass 56 or fall below 8 trap. -/
def Obligations.FrameSizes : Prop :=
  ∀ (s : State) (h : Hdr) (c : Cx) (p : BitVec 3) (a : BitVec 6) (fr : Frame), Runs s h c → c.Holds [a.toNat] →
    c.w.frame? c.fid = some fr →
    let n : Nat := (c.lane a c.low).toNat
    let grow (w : Warp) : Warp := w.updFrame c.fid fun f => { f with size := f.size + n, regs := f.regs ++ List.replicate n (.u 0) }
    let bank : Bank := (c.s.m.core (c.b.side c.w.side).core).bank (c.b.side c.w.side).bank
    let room : Bool := bank.queue.isEmpty && decide (c.b.lines n ≤ c.s.m.freeLines (c.b.side c.w.side).core (c.b.side c.w.side).bank)
    (∀ i ∈ [Instr.grow h a, .growTry h p a, .shrink h a],
      (c.allU [a.toNat] = false → c.Traps (exec i s) 0x03 0 0 0) ∧
      (c.allU [a.toNat] = true → subset (c.w.liveSet c.fid 0) c.ex = false → c.Traps (exec i s) 0x0B 2 0 0) ∧
      (c.allU [a.toNat] = true → subset (c.w.liveSet c.fid 0) c.ex = true → n = 0 ∨ n % 8 ≠ 0 → c.Traps (exec i s) 0x0B 3 0 0)) ∧
    (c.allU [a.toNat] = true → subset (c.w.liveSet c.fid 0) c.ex = true → n ≠ 0 → n % 8 = 0 →
      (56 < fr.size + n → c.Traps (exec (.grow h a) s) 0x0B 3 0 0 ∧ c.Traps (exec (.growTry h p a) s) 0x0B 3 0 0) ∧
      (fr.size + n ≤ 56 → c.allocates (c.b.lines n) = true → exec (.grow h a) s = .next (c.withWarp grow)) ∧
      (fr.size + n ≤ 56 → room = true →
        exec (.growTry h p a) s = .next (c.withWarp fun w => grow (w.setPred p.toNat c.ex c.ex))) ∧
      (fr.size + n ≤ 56 → room = false →
        exec (.growTry h p a) s = .next (c.withWarp fun w => w.setPred p.toNat c.ex 0)) ∧
      (fr.size < n + 8 → c.Traps (exec (.shrink h a) s) 0x0B 3 0 0) ∧
      (n + 8 ≤ fr.size → c.Does (exec (.shrink h a) s) fun m =>
        (m.updWarp c.is.blk c.is.warp fun w => w.updFrame c.fid fun f => { f with size := f.size - n, regs := f.regs.take (f.size - n) }).grantsFor
          c.b c.w))

/-- R54, R55, R341, R362, R429: DIVG records the lanes of Exec and their depths at its site, after releasing lanes still waiting there; RECONV makes expected lanes arrive and wait, and looks at the site; BAR, once the lanes' earlier accesses have performed, makes them wait and looks at the barrier (for both, what a fence of their own group still waits for becomes visible first: log entry 39); YIELD moves the path to the end of the order, marked, and marks the warp, which at the end of the cycle gives its place in the active set to the oldest ready warp outside it, if there is one; EXIT, once the lanes' earlier accesses have performed, releases the store buffer and retires the lanes. -/
def Obligations.SitesAndExit : Prop :=
  ∀ (s : State) (h : Hdr) (c : Cx) (k : BitVec 13), Runs s h c →
    let site (w : Warp) : Option Site := w.sites[k.toNat]?
    let opened (w : Warp) : Warp :=
      { w with sites := w.sites.set k.toNat { expected := c.ex, arrived := 0, waiting := 0, depth := c.lanes.map fun l => (l, (c.w.lane l).depth) } }
    let arrive (w : Warp) (x : Site) : Warp :=
      { w with sites := w.sites.set k.toNat { x with arrived := x.arrived ||| (c.ex &&& x.expected), waiting := x.waiting ||| (c.ex &&& x.expected) } }
    exec (.divg h k) s = .next (c.withWarp fun w =>
      match site w with | some x => opened (w.releaseSite k.toNat x.waiting) | none => opened w) ∧
    exec (.reconv h k) s = .next (c.afterFence.withWarp fun w =>
      match site w with
      | some x => ((arrive w x).updLanes (c.ex &&& x.expected) fun l => { l with run := .reconv k.toNat }).siteCheck k.toNat
      | none => w) ∧
    (∀ m1, c.s.m.settleAll c.is.blk c.is.warp c.ex = (m1, true) →
      Cx.Does (Cx.afterFence { c with s := { c.s with m := m1 } }) (exec (.bar h) s) (fun m =>
        (m.updWarp c.is.blk c.is.warp fun w => w.updLanes c.ex fun l => { l with run := .bar }).updBlock c.is.blk Block.evalBar) ∧
      c.Does (exec (.exit h) s) fun _ =>
        (m1.updBlock c.is.blk fun b => b.release m1.rmap.pkg m1.clock).exitLanes c.is.blk c.is.warp c.ex) ∧
    (∀ m1, c.s.m.settleAll c.is.blk c.is.warp c.ex = (m1, false) → c.Stalls (exec (.bar h) s) ∧ c.Stalls (exec (.exit h) s)) ∧
    c.Does (exec (.yield h) s) (fun m => (m.updWarp c.is.blk c.is.warp fun w =>
      { w.demote c.is.lanes with
        paths := (w.demote c.is.lanes).paths.map fun p => if (p.lanes &&& c.is.lanes) != 0 then { p with yield := true } else p }).markYield) ∧
    ∀ (m : Mach) (f : Front) (b : Block) (w : Warp), m.front = some f → m.block? f.blk = some b → m.warp? f.blk f.warp = some w →
      (∃ g, m.markYield.front = some g ∧ g.yields = true ∧ g.blk = f.blk ∧ g.warp = f.warp) ∧
      (f.yields = false → m.giveAway unitGate = m) ∧
      (f.yields = true →
        let core : Nat := (b.side w.side).core
        let ready : List (Block × Warp) := (m.coreWarps core).filter fun p =>
          !(m.core core).actSet.contains (p.1.id, p.2.num) && (p.1.id, p.2.num) != (f.blk, f.warp) && !(m.offers unitGate p.1 p.2).isEmpty
        (ready = [] → m.giveAway unitGate = m) ∧
        ∀ p rest, ready = p :: rest → m.giveAway unitGate = m.updCore core fun k =>
          { k with actSet := (k.actSet.filter fun q => q != (f.blk, f.warp)) ++ [(p.1.id, p.2.num)] })

/-- R423, R345: TRAP raises cause 0x11 with the low 8 bits of its immediate as sub-cause and the whole of it as detail, and BRK cause 0x12 with its immediate as detail; both resume after the group, and take their trap as every trap is taken. -/
def Obligations.TrapWords : Prop :=
  ∀ (s : State) (h : Hdr) (c : Cx) (i : BitVec 13), Runs s h c →
    let taken (t : Trap) : State :=
      { c.s with m := (((c.fetched t.cause).markIssued c.is.lanes).trapEntry c.is.blk c.is.warp c.ex t).grantsFor c.b c.w, iss := none }
    let t : Trap :=
      { cause := 0, sub := 0, commit := false, second := c.is.second, pc := c.is.here, rpc := c.is.npc, group := c.is.group,
        word := c.is.word, pfx := c.is.pfx, addr := 0, mask := c.ex, detail := i.toNat, pathid := c.is.pathid,
        mapver := (match c.is.base.ctx? c.b.ctx with | some k => k.mapver | none => 0), time := c.is.base.clock }
    exec (.trap h i) s = .next (taken { t with cause := 0x11, sub := i.toNat % 256 }) ∧
    exec (.brk h i) s = .next (taken { t with cause := 0x12 })

/-- R288, R289: a trap of lanes that hold no earlier result, are not in a handler, and whose slots translate: their path splits off, each lane's 64-byte frame enters the block's store buffer at its slot, g7 takes the slot's offset, and each lane goes on in handler mode at TRAPBASE; nothing else changes. R290: the fields of a trap frame stand at their offsets. -/
def Obligations.TrapEntry : Prop :=
  (∀ (m : Mach) (id wn : Nat) (lanes : Mask) (t : Trap) (b : Block) (x : Warp) (p : PC) (accs : List (Access × PteRef × Bool × Bool)),
     m.block? id = some b → m.warp? id wn = some x → x.pending lanes = [] → (∀ l, lanes.getLsbD l = true → (x.lane l).handler = false) →
     b.trapbase ≠ 0 → codePc b.entry b.trapbase.toNat = .ok p →
     let off : Nat := m.sliceSize b - 64
     verdict ((lanesOf lanes).map fun l =>
       m.checkOne b.ctx { lane := l, va := m.localVa b x l off, size := 64, need := { r := false, w := true, x := false } }) = .go accs [] →
     let split : Mach := m.updWarp id wn fun _ => (x.splitFront lanes).updLanes lanes fun l => { l with run := .ready }
     let frame (l : Nat) : List Byte := frameBytes t wn (x.value 0 63 l) (x.reg 0 63).isU
     let stored : Mach := accs.foldl
       (fun m a => match a.1.loc with | .glob k => m.bufferStore id a.1.va k (frame a.1.lane) | .shared _ => m) (split.touchAll accs true)
     m.trapEntry id wn lanes t = stored.updWarp id wn fun y =>
       (y.both fun z => z.write b.width 0 63 lanes z.liveLanes fullBits (.u (BitVec.ofNat 32 off))).mapLanes lanes fun i l =>
         { l with run := .ready, handler := true, first := frame i, pc := pcAt ((b.trapbase.toNat - b.entry) % 2 ^ 24) }) ∧
  (∀ (t : Trap) (w : Nat) (g7 : Word) (u : Bool), t.cause < 256 → t.sub < 256 → t.pc.sl < 3 → t.rpc.sl < 3 → t.pc.pk < 2 ^ 21 → t.rpc.pk < 2 ^ 21 →
     t.addr < 2 ^ 64 → t.detail < 2 ^ 64 → t.mapver < 2 ^ 32 → t.pathid < 2 ^ 16 → w < 256 → t.time < 2 ^ 64 →
     let f : Nat → Nat → Nat := fieldAt (frameBytes t w g7 u)
     (frameBytes t w g7 u).length = 64 ∧ f 0 1 = t.cause ∧ f 1 1 = t.sub ∧
     f 2 1 = (if t.commit then 1 else 0) + (if t.second then 2 else 0) + (if u then 4 else 0) ∧ f 3 1 = t.pc.sl + 4 * t.rpc.sl ∧
     f 4 4 = t.pc.pk ∧ f 8 4 = t.rpc.pk ∧ f 0x0C 4 = t.word.toNat ∧ f 0x10 8 = t.addr ∧ f 0x18 8 = t.mask.toNat ∧ f 0x20 8 = t.detail ∧
     f 0x28 4 = t.mapver ∧ f 0x2C 2 = t.pathid ∧ f 0x2E 1 = w ∧ f 0x30 4 = g7.toNat ∧ f 0x34 4 = t.pfx.toNat ∧ f 0x38 8 = t.time)

/-- R291: TRET by lanes all in handler mode, whose slots translate and hold resume points in the segment, once what must come first has performed and no store to those slots is on its way (log entry 16), restores each lane's g7 and resume point, leaves handler mode and puts entries held aside back; a lane not in handler mode makes it trap ILLOP, sub-cause 0x02. -/
def Obligations.TrapReturn : Prop :=
  ∀ (s : State) (h : Hdr) (c : Cx) (accs : List (Access × PteRef × Bool × Bool)) (m1 : Mach) (b1 : Block), Runs s h c →
    ((∃ l ∈ c.lanes, (c.w.lane l).handler = false) → c.Traps (exec (.tret h) s) 0x01 2 0 0) ∧
    ((∀ l ∈ c.lanes, (c.w.lane l).handler = true) →
      verdict (c.lanes.map fun l => c.localAccess l (c.is.base.sliceSize c.b - 64) 64 { r := true, w := false, x := false }) = .go accs [] →
      c.s.m.settle c.is.blk c.is.warp c.w.nextSeq c.ex (accs.map fun a => a.1) = (m1, true) → m1.block? c.is.blk = some b1 →
      (∀ a ∈ accs, m1.accInFlight b1 a.1 = false) →
      let bytes (l : Nat) : List Byte := (accs.find? fun a => a.1.lane == l).elim [] fun a => m1.readAccess b1 false a.1
      let slot (l : Nat) : Nat := fieldAt (bytes l) 3 1 / 4 % 4
      let pk (l : Nat) : Nat := fieldAt (bytes l) 8 4 % 2 ^ 21
      (∀ l ∈ c.lanes, pk l ≤ 1398100 ∧ slot l ≠ 3) →
      ∃ v : RVal, (∀ l, l < c.W → c.ex.getLsbD l = true → v.get l = BitVec.ofNat 32 (fieldAt (bytes l) 0x30 4)) ∧
        c.Does (exec (.tret h) s) fun _ => ((m1.touchAll accs false).updWarp c.is.blk c.is.warp fun w =>
          ((w.write c.W c.fid 63 c.ex (c.w.liveSet c.fid 63) fullBits v).mapLanes c.ex fun l k =>
            { k with handler := false, first := [], pc := ⟨pk l, slot l⟩ }).setHeld 0 c.ex false).awaitFill c.b c.is.warp c.ex)

/-- R378 to R381, R403: LD, LD.acq, LD.poll, LD.u, LDS, LDT and RLD whose lane checks find neither a fault nor a missing page complete: they mark the pages they touch accessed, end the merge holds of the channel stores they wait for, and leave one return-buffer entry that will fill the size's registers from the places checked. -/
def Obligations.Loads : Prop :=
  ∀ (s : State) (h : Hdr) (c : Cx) (d a r : BitVec 6) (q : BitVec 5) (z : BitVec 3) (x o : BitVec 4) (pf : Option (BitVec 23))
    (accs : List (Access × PteRef × Bool × Bool)) (b0 : Block), Runs s h c →
    c.Holds (sizeRegs d z.toNat ++ sizeRegs r x.toNat ++ pairRegs a ++ [2 * q.toNat, 2 * q.toNat + 1]) →
    c.s.m.block? c.is.blk = some b0 →
    let n : Nat := Machine.sizeOf z.toNat
    let loads (i : Instr) (rs : List LaneRes) (regs : List Nat) (ext : Nat) (uni poll acq : Bool) : Prop :=
      verdict rs = .go accs [] →
      ∃ (as : List Access) (waits : List (Nat × Nat)),
        as.map (fun y => (y.lane, y.va, y.loc, y.size)) = accs.map (fun y => (y.1.lane, y.1.va, y.1.loc, y.1.size)) ∧
        (b0.chans.all (fun k => k.queue.isEmpty) = true →
          as.map (fun y => { y with cached := false }) = accs.map fun y => { y.1 with cached := false }) ∧
        c.Awaits (exec i s) (fun m =>
          (m.touchAll (accs.filter fun y => match y.1.loc with | .glob _ => true | .shared _ => false) false).updBlock c.is.blk fun b =>
            waits.foldl (fun b p => b.endHold p.1) b) (c.wholeRegs regs) (.load ext uni poll as waits) acq []
    let at_ (hint : Bool) (l : Nat) : Nat := ((c.pair a.toNat l).toNat + memOff hint pf o * n) % 2 ^ 64
    let rs : List LaneRes := c.lanes.map fun l => c.checkGlob l (at_ true l) n needR
    loads (.ld h d a z o pf) rs (sizeRegs d z.toNat) z.toNat false false false ∧
    loads (.ldAcq h d a z o pf) rs (sizeRegs d z.toNat) z.toNat false false true ∧
    loads (.ldPoll h d a z o pf) rs (sizeRegs d z.toNat) z.toNat false true false ∧
    (c.allU (pairRegs a) = true → loads (.ldU h d a z o pf) (c.lanes.map fun l => c.checkGlob l (at_ true c.low) n needR)
      (sizeRegs d z.toNat) z.toNat true false false) ∧
    (c.allU (pairRegs a) = false → c.Traps (exec (.ldU h d a z o pf) s) 0x03 0 0 0) ∧
    loads (.lds h d a z o pf) (c.lanes.map fun l => c.checkShared l ((c.lane a l).toNat + memOff false pf o * n) n needR)
      (sizeRegs d z.toNat) z.toNat false false false ∧
    loads (.ldt h d a z o pf) (c.lanes.map fun l => c.checkLocal l ((c.lane a l).toNat + memOff false pf o * n) n needR)
      (sizeRegs d z.toNat) z.toNat false false false ∧
    loads (.rld h q r x) (c.lanes.map fun l => c.is.base.checkOne c.b.ctx
      { lane := l, va := (c.pair (2 * q.toNat) l).toNat, size := Machine.sizeOf x.toNat, need := needR }) (sizeRegs r x.toNat) x.toNat false false false

/-- R148, R151, R173, R293: a lane check that fails traps its cause, with the lowest such lane's address and the mask of the lanes that met it, and has no other effect; a protection fault is logged first, with its virtual and physical address; when every lane of a load or store misses its page, the lanes park at the word on their fault records. -/
def Obligations.AccessFaults : Prop :=
  ∀ (s : State) (h : Hdr) (c : Cx) (d a : BitVec 6) (z : BitVec 3) (o : BitVec 4) (pf : Option (BitVec 23)), Runs s h c →
    c.Holds (sizeRegs d z.toNat ++ pairRegs a) →
    let n : Nat := Machine.sizeOf z.toNat
    let glob (hint : Bool) (l : Nat) : Nat := ((c.pair a.toNat l).toNat + memOff hint pf o * n) % 2 ^ 64
    let off (l : Nat) : Nat := (c.lane a l).toNat + memOff false pf o * n
    ∀ p ∈ [(Instr.ld h d a z o pf, c.lanes.map fun l => c.checkGlob l (glob true l) n needR, c.place pf, 1),
        (.st h d a z o pf, c.lanes.map fun l => c.checkGlob l (glob false l) n needW, c.b.die, 2),
        (.lds h d a z o pf, c.lanes.map fun l => c.checkShared l (off l) n needR, c.b.die, 1),
        (.sts h d a z o pf, c.lanes.map fun l => c.checkShared l (off l) n needW, c.b.die, 2),
        (.ldt h d a z o pf, c.lanes.map fun l => c.checkLocal l (off l) n needR, c.b.die, 1),
        (.stt h d a z o pf, c.lanes.map fun l => c.checkLocal l (off l) n needW, c.b.die, 2)],
      (∀ cause sub va pa mask, verdict p.2.1 = .trap cause sub va pa mask → cause ≠ 0x06 → c.Traps (exec p.1 s) cause sub va mask.toNat) ∧
      (∀ sub va pa mask, verdict p.2.1 = .trap 0x06 sub va pa mask →
        let logged : Mach := c.is.base.log (Mach.blockLog c.b 0x06 sub 0 (some c.is.warp) (some va) pa (some c.is.here) 0) none
        Cx.Traps { c with is := { c.is with base := logged } } (exec p.1 s) 0x06 sub va mask.toNat) ∧
      (∀ misses, verdict p.2.1 = .go [] misses → misses ≠ [] →
        let gone : Mask := misses.foldl (fun k q => k ||| bit q.1) 0
        let r := c.s.m.missAll c.b [] misses p.2.2.2 p.2.2.1
        exec p.1 s = .next { c.s with
          m := r.1.updLanes c.is.blk c.is.warp gone fun l => { l with run := .parked .replay r.2, pc := c.is.replayPc },
          iss := c.s.iss.map fun i => { i with parked := i.parked ||| gone } })

/-- R183, R414, R415: ST, STS and STT whose lane checks all pass, once what must come first has performed, write each lane's data: shared bytes land in the window at the lane's offset, global and thread-local bytes enter the block's store buffer at the lane's address, in lane order; a quota that leaves no room makes the path wait instead. -/
def Obligations.Stores : Prop :=
  ∀ (s : State) (h : Hdr) (c : Cx) (r a : BitVec 6) (z : BitVec 3) (o : BitVec 4) (pf : Option (BitVec 23))
    (accs : List (Access × PteRef × Bool × Bool)) (m1 : Mach), Runs s h c → c.Holds (sizeRegs r z.toNat ++ pairRegs a) →
    let n : Nat := Machine.sizeOf z.toNat
    let glob (l : Nat) : Nat := ((c.pair a.toNat l).toNat + memOff false pf o * n) % 2 ^ 64
    let off (l : Nat) : Nat := (c.lane a l).toNat + memOff false pf o * n
    c.s.m.settle c.is.blk c.is.warp c.w.nextSeq c.ex (accs.map fun y => y.1) = (m1, true) →
    let toShared : List (Nat × List Byte) := accs.filterMap fun y =>
      match y.1.loc with | .shared k => some (k, c.dataBytes r.toNat z.toNat y.1.lane) | .glob _ => none
    let toBuffer : List (Nat × Nat × List Byte) := accs.filterMap fun y =>
      match y.1.loc with | .glob k => some (y.1.va, k, c.dataBytes r.toNat z.toNat y.1.lane) | .shared _ => none
    let marked : Mach := m1.touchAll (accs.filter fun y => match y.1.loc with | .glob _ => true | .shared _ => false) true
    let written : Mach :=
      if toShared.isEmpty then marked else marked.updBlock c.is.blk fun b => toShared.foldl (fun b p => b.sharedWrite p.1 p.2) b
    let done := Mach.storeAll c.is.blk toBuffer written
    ∀ p ∈ [(Instr.st h r a z o pf, c.lanes.map fun l => c.checkGlob l (glob l) n needW),
        (.sts h r a z o pf, c.lanes.map fun l => c.checkShared l (off l) n needW),
        (.stt h r a z o pf, c.lanes.map fun l => c.checkLocal l (off l) n needW)],
      verdict p.2 = .go accs [] →
      (done.2 = true → exec p.1 s = .next { c.s with m := done.1 }) ∧
      (done.2 = false → c.Waits (exec p.1 s) written fun m =>
        (m.makeRoom c.is.blk).updLanes c.is.blk c.is.warp c.is.lanes fun l => if l.run == .ready then { l with run := .stall } else l)

/-- R179, R182, R183: a store of bytes that lie in one 128-byte sector and find room in the buffer is what the block then reads at those bytes, and nothing else the block reads, and no byte of memory, changes. The premises say that the buffer's entries are numbered in order and that an entry's bytes lie in its sector. R180, R181, R415: ST.rel, once every earlier access of its lanes has performed, releases the whole buffer, puts each lane's store homed on the die behind the released entries still to become visible and the others behind what was released before them, to go on ch0 as it has room, and performs those that wait for nothing. -/
def Obligations.StoreOrder : Prop :=
  (∀ (m : Mach) (id va key : Nat) (bs : List Byte) (b : Block), m.block? id = some b → b.id = id → isMmio key = false →
     key % 128 + bs.length ≤ 128 → b.occupancy + 128 ≤ b.quota * 1024 →
     (b.sb.map fun e => e.seq).Pairwise (fun x y => x < y) → (∀ e ∈ b.sb, e.seq < b.sbSeq) → (∀ r ∈ b.rels, r.seq < b.sbSeq) →
     (∀ e ∈ b.sb, ∀ c ∈ e.cells, c.1 / 128 = e.sector) →
     (∀ e ∈ b.sb, e.released = false → e.tst = false →
       (∀ x ∈ b.sb, x.sector = e.sector → x.seq ≤ e.seq) ∧ (∀ r ∈ b.rels, (∃ c ∈ r.cells, c.1 / 128 = e.sector) → r.seq < e.seq)) →
     let t : Mach := m.bufferStore id va key bs
     ∃ b', t.block? id = some b' ∧
       (∀ i v, bs[i]? = some v → t.readByte b' (key + i) = v) ∧
       (∀ k, (k < key ∨ key + bs.length ≤ k) → t.readByte b' k = m.readByte b k) ∧
       (∀ k, Memory.get t.mem k = Memory.get m.mem k)) ∧
  (∀ (s : State) (h : Hdr) (c : Cx) (r a : BitVec 6) (z : BitVec 3) (o : BitVec 4) (pf : Option (BitVec 23))
     (accs : List (Access × PteRef × Bool × Bool)) (m1 : Mach) (b0 : Block), Runs s h c → c.Holds (sizeRegs r z.toNat ++ pairRegs a) →
     let n : Nat := Machine.sizeOf z.toNat
     verdict (c.lanes.map fun l => c.checkGlob l (((c.pair a.toNat l).toNat + memOff false pf o * n) % 2 ^ 64) n needW) = .go accs [] →
     c.s.m.settleAll c.is.blk c.is.warp c.ex = (m1, true) →
     let flushed : Mach := m1.updBlock c.is.blk fun b => b.ch0Flush m1.rmap.pkg m1.clock b.sb.length
     ∀ b2, flushed.block? c.is.blk = some b2 →
     let far : List (Access × PteRef × Bool × Bool) := accs.filter fun y => !flushed.near b2 y.1
     let start : Mach := if far.isEmpty then m1 else flushed
     let released : Mach := (start.updBlock c.is.blk fun b => b.release start.rmap.pkg start.clock).touchAll
       (accs.filter fun y => match y.1.loc with | .glob _ => true | .shared _ => false) true
     released.block? c.is.blk = some b0 → far = [] ∨ flushed.ch0Ready b2 far.length = true →
     exec (.stRel h r a z o pf) s = .next { c.s with
       m := ((released.updBlock c.is.blk fun b => (accs.map fun y => y.1).foldl
         (fun b y =>
           let cells : List Host.Cell := storeCells y.key (c.dataBytes r.toNat z.toNat y.lane)
           if released.near b0 y then b.addRel (released.unseen b0) y.va cells
           else b.addOwn y.key y.va cells (.store (sectorOf y.key) (y.va - y.key % 128) cells) (released.unperformed b0)) b).updBlock
         c.is.blk fun b => b.ch0Flush released.rmap.pkg released.clock b.sb.length).runRels c.is.blk })

/-- R338, R339, R340: an ATOM whose lanes all pass their checks: without release it first releases the sectors it touches, with release its lanes' earlier accesses perform and the whole buffer is released; it marks its pages accessed and dirty, and, with every word homed on the issuing die, leaves one entry that will make each lane's atomic step, after the entries released become visible when it releases. With some words homed elsewhere (log entries 16 and 40) it goes on once what must come first has performed, ch0 has room and what other blocks released to those words has arrived: what the block has released on its die becomes visible, the steps homed there are made, and the others go on ch0 behind it, for an entry that holds the results so far. The four opcodes name operations 0 to 3, 4 to 7, 8 to 11 and 12 to 13. R338: the value an atomic step leaves in memory, by operation code: wrapped sums, signed and unsigned minima and maxima, bitwise functions, exchange, and compare-and-swap. -/
def Obligations.Atomics : Prop :=
  (∀ (s : State) (h : Hdr) (c : Cx) (d b : BitVec 6) (a : BitVec 5) (u : BitVec 2) (pf : Option (BitVec 23))
     (oks : List (Access × PteRef × Bool × Bool)) (m1 : Mach) (b0 b1 : Block), Runs s h c →
     ∀ p ∈ [(Instr.atomArith h d a b u pf, u.toNat), (.atomMinmax h d a b u pf, 4 + u.toNat), (.atomBit h d a b u pf, 8 + u.toNat),
         (.atomCas h d a b u pf, 12 + u.toNat)],
       c.Holds (atomNames p.2 d a b) →
       verdict (c.lanes.map fun l => c.checkAtom l (c.pair (2 * a.toNat) l).toNat (atomSize p.2)) = .go oks [] →
       let ord : Nat := pfField pf 0 2
       let accs : List Access := oks.map fun y => { y.1 with ops := (atomRegs p.2 b.toNat).map fun i => c.val i y.1.lane }
       let mark (m : Mach) : Mach := m.touchAll (oks.filter fun y => match y.1.loc with | .glob _ => true | .shared _ => false) true
       let one (m : Mach) : Mach := mark (m.updBlock c.is.blk fun b =>
         (accs.map fun y => sectorOf y.key).foldl (fun b k => b.releaseOne m.rmap.pkg m.clock k) b)
       let all (m : Mach) : Mach := mark (m.updBlock c.is.blk fun b => b.release m.rmap.pkg m.clock)
       (ord < 2 → (one c.s.m).block? c.is.blk = some b0 → (∀ y ∈ accs, (one c.s.m).near b0 y = true) →
         c.Awaits (exec p.1 s) one (c.wholeRegs (atomDests p.2 d.toNat)) (.atom p.2 accs) (decide (ord = 1)) []) ∧
       (2 ≤ ord → ord < 4 → c.s.m.settleAll c.is.blk c.is.warp c.ex = (m1, true) → (all m1).block? c.is.blk = some b0 →
         (∀ y ∈ accs, (all m1).near b0 y = true) →
         c.Awaits (exec p.1 s) (fun _ => all m1) (c.wholeRegs (atomDests p.2 d.toNat)) (.atom p.2 accs) (decide (ord = 3)) ((all m1).unperformed b0)) ∧
       ((ord < 2 ∧ c.s.m.settle c.is.blk c.is.warp c.w.nextSeq c.ex accs = (m1, true)) ∨
           (2 ≤ ord ∧ ord < 4 ∧ c.s.m.settleAll c.is.blk c.is.warp c.ex = (m1, true)) →
         let flushed : Mach := m1.updBlock c.is.blk fun b => b.ch0Flush m1.rmap.pkg m1.clock b.sb.length
         flushed.block? c.is.blk = some b1 →
         let far : List Access := accs.filter fun y => !flushed.near b1 y
         let here : List Access := accs.filter fun y => flushed.near b1 y
         far ≠ [] → flushed.ch0Ready b1 far.length = true → (∀ y ∈ far, flushed.accInFlight b1 y = false) →
         let ready : Mach := if ord < 2 then one flushed else all flushed
         let seen : Mach := if here.isEmpty then ready else ready.allVisible c.is.blk
         ∀ b2 w2, seen.block? c.is.blk = some b2 → seen.warp? c.is.blk c.is.warp = some w2 →
         let r := Mach.atomLanes p.2 here seen [] 0 []
         let sent : Mach := (r.1.updBlock c.is.blk fun b => { b with sealed := b.sealed || !here.isEmpty }).farAtoms c.is.blk p.2 c.is.warp w2.nextSeq
           (if ord < 2 then [] else seen.unperformed b2) far
         ∃ e : Warp → Entry, exec p.1 s = .next { c.s with m := sent.updWarp c.is.blk c.is.warp fun w =>
             { w.push (e w) with rb := modWhere (w.push (e w)).rb (fun x => x.seq == w2.nextSeq) fun x =>
               { x with fail := r.2.2.1, fault := match r.2.2.2 with | [] => none | y :: _ => some (poisonFault (maskOfAccs r.2.2.2) y) } } } ∧
           ∀ w, c.NewEntry w.nextSeq (e w) ∧ (e w).dests = c.wholeRegs (atomDests p.2 d.toNat) ∧ (e w).pend = .chan (maskOfAccs far) accs ∧
             (e w).acq = decide (ord % 2 = 1) ∧ (e w).waits = [] ∧ (e w).vals = resVals c.W (atomDests p.2 d.toNat).length false r.2.1)) ∧
  (∀ (x y z : Word) (p q r : BitVec 64),
     BitVec.ofNat 32 (atomNew 0 x.toNat y.toNat 0) = x + y ∧ BitVec.ofNat 64 (atomNew 1 p.toNat q.toNat 0) = p + q ∧
     BitVec.ofNat 32 (atomNew 4 x.toNat y.toNat 0) = (if y.toInt < x.toInt then y else x) ∧
     BitVec.ofNat 32 (atomNew 5 x.toNat y.toNat 0) = (if x.toInt < y.toInt then y else x) ∧
     BitVec.ofNat 32 (atomNew 6 x.toNat y.toNat 0) = (if y < x then y else x) ∧
     BitVec.ofNat 32 (atomNew 7 x.toNat y.toNat 0) = (if x < y then y else x) ∧
     BitVec.ofNat 32 (atomNew 8 x.toNat y.toNat 0) = x &&& y ∧ BitVec.ofNat 32 (atomNew 9 x.toNat y.toNat 0) = x ||| y ∧
     BitVec.ofNat 32 (atomNew 10 x.toNat y.toNat 0) = x ^^^ y ∧ BitVec.ofNat 32 (atomNew 11 x.toNat y.toNat 0) = y ∧
     BitVec.ofNat 32 (atomNew 12 x.toNat y.toNat z.toNat) = (if x = y then z else x) ∧
     BitVec.ofNat 64 (atomNew 13 p.toNat q.toNat r.toNat) = (if p = q then r else p))

/-- R161, R163: STASHMAP adds a mapping of aligned, free ranges inside the stash, STASHMAP.un takes the one at its offset away, STASHPIN adds the lines of its lanes to the core's locked lines while they are at most 64, and STASHPIN.un takes its lanes' lines away; out of range, misaligned, overlapping or absent mappings trap. On a paired block an offset counts in the window of the issuing core, the other core's mappings do not overlap it there, and each core holds the lines locked from it, a line that several blocks lock counting once (log entries 75 and 76, the model's choice). -/
def Obligations.StashWords : Prop :=
  ∀ (s : State) (h : Hdr) (c : Cx) (d a b : BitVec 6) (accs : List (Access × PteRef × Bool × Bool)), Runs s h c →
    c.Holds (d.toNat :: pairRegs a ++ [b.toNat]) →
    let off : Nat := (c.lane d c.low).toNat
    let base : Nat := (c.pair a.toNat c.low).toNat
    let len : Nat := (c.lane b c.low).toNat
    let meets (x n y k : Nat) : Prop := x < y + k ∧ y < x + n
    let lines : List Nat := (accs.map fun x => x.1.key / 1024).eraseDups
    let mine : List Nat := (c.b.side c.w.side).locks
    let map_ : Host.Outcome State Fault Refusal := exec (.stashmap h d a b) s
    (2 ^ 52 ≤ base → c.Traps map_ 0x07 4 base c.ex.toNat) ∧
    (base < 2 ^ 52 → off % 1024 ≠ 0 ∨ base % 1024 ≠ 0 ∨ len % 1024 ≠ 0 ∨ len = 0 → c.Traps map_ 0x04 3 base c.ex.toNat) ∧
    (base < 2 ^ 52 → off % 1024 = 0 → base % 1024 = 0 → len % 1024 = 0 → len ≠ 0 →
      (c.b.stsize < off + len → c.Traps map_ 0x07 2 off c.ex.toNat) ∧
      (off + len ≤ c.b.stsize → c.b.maps.length = 16 ∨ (∃ p ∈ c.b.maps, (p.side = c.w.side ∧ meets off len p.off p.len) ∨ meets base len p.base p.len) →
        c.Traps map_ 0x07 5 base c.ex.toNat) ∧
      (off + len ≤ c.b.stsize → c.b.maps.length ≠ 16 →
        (∀ p ∈ c.b.maps, ¬ (p.side = c.w.side ∧ meets off len p.off p.len) ∧ ¬ meets base len p.base p.len) →
        c.Does map_ fun m => m.updBlock c.is.blk fun b =>
          { b with maps := b.maps ++ [{ side := c.w.side, off := off, base := base, len := len, undo := [] }] })) ∧
    ((∃ p ∈ c.b.maps, p.side = c.w.side ∧ p.off = off) →
      c.Does (exec (.stashmapUn h d) s) fun m => m.updBlock c.is.blk fun b =>
        { b with maps := b.maps.filter fun p => !(p.side == c.w.side && p.off == off) }) ∧
    ((∀ p ∈ c.b.maps, ¬ (p.side = c.w.side ∧ p.off = off)) → c.Traps (exec (.stashmapUn h d) s) 0x07 5 off c.ex.toNat) ∧
    (verdict (c.lanes.map fun l => c.checkLine l (c.pair a.toNat l).toNat) = .go accs [] →
      (((c.s.m.coreLocks (c.b.side c.w.side).core ++ lines.filter fun k => !mine.contains k).eraseDups).length ≤ 64 →
        c.Does (exec (.stashpin h a) s) fun m => m.updBlock c.is.blk fun b =>
          b.updSide c.w.side fun x => { x with locks := x.locks ++ lines.filter fun k => !mine.contains k }) ∧
      (64 < ((c.s.m.coreLocks (c.b.side c.w.side).core ++ lines.filter fun k => !mine.contains k).eraseDups).length →
        ∃ va, c.Traps (exec (.stashpin h a) s) 0x07 6 va c.ex.toNat) ∧
      c.Does (exec (.stashpinUn h a) s) fun m => m.updBlock c.is.blk fun b =>
        b.updSide c.w.side fun x => { x with locks := x.locks.filter fun k => !(accs.map fun y => y.1.key / 1024).contains k })

/-- R393 to R396: PBINIT of a U object stores PENDING and EXPECT n and PHASE 0, PBARR makes one arrival for each lane, the last of a phase starting the next, and PBWAIT goes on when the phase is over for each lane or leaves the path waiting at it; a count outside 1 to 65,535 traps BOUNDS, sub-cause 0x09. R185, R367: FENCE waits for its lanes' earlier accesses; .block does no more, and the wider scopes release the block's buffer and go on when no entry released there is still unseen and no earlier ST.rel still to perform, or leave the lanes waiting for what is; lanes that a BAR of the same group keeps waiting do not: what was released becomes visible at once (log entry 39). -/
def Obligations.BarriersAndFences : Prop :=
  (∀ (s : State) (h : Hdr) (c : Cx) (a b : BitVec 6) (accs : List (Access × PteRef × Bool × Bool)) (m1 : Mach) (b0 : Block), Runs s h c →
     c.Holds [a.toNat, b.toNat] → verdict (c.lanes.map (c.checkObj a)) = .go accs [] →
     let o : Nat := (c.lane a c.low).toNat
     let n : Nat := (c.lane b c.low).toNat
     (n = 0 ∨ 65535 < n → c.Traps (exec (.pbinit h a b) s) 0x07 9 o c.ex.toNat) ∧
     (1 ≤ n → n ≤ 65535 → c.s.m.settle c.is.blk c.is.warp c.w.nextSeq c.ex (accs.map fun x => x.1) = (m1, true) →
       exec (.pbinit h a b) s = .next { c.s with
         m := m1.updBlock c.is.blk fun b => b.sharedWrite o (leBytes 2 n ++ leBytes 2 n ++ leBytes 4 0) }) ∧
     (c.s.m.settleAll c.is.blk c.is.warp c.ex = (m1, true) →
       exec (.pbarr h a) s = .next { c.s with
         m := m1.updBlock c.is.blk fun b => (accs.foldl (fun b x => b.arrivePb x.1.va) b).pbWake }) ∧
     (c.s.m.settle c.is.blk c.is.warp c.w.nextSeq c.ex (accs.map fun x => x.1) = (m1, true) → m1.block? c.is.blk = some b0 →
      let phase (l : Nat) : Nat := leNat (b0.shared.bytes ((c.lane a l).toNat + 4) 4)
      let past (l : Nat) : Prop :=
        let d : Nat := (phase l + 2 ^ 32 - (c.lane b l).toNat) % 2 ^ 32
        1 ≤ d ∧ d ≤ 2 ^ 31
      ((∀ l ∈ c.lanes, past l) → exec (.pbwait h a b) s = .next { c.s with m := m1 }) ∧
      ((∃ l ∈ c.lanes, ¬ past l) → c.WaitsIn (exec (.pbwait h a b) s) m1 id
        (.pbwait (c.lanes.map fun l => ((c.lane a l).toNat, (c.lane b l).toNat)))))) ∧
  (∀ (s : State) (h : Hdr) (c : Cx) (i : BitVec 13) (m1 : Mach) (b0 : Block), Runs s h c →
     let out : Mach := m1.updBlock c.is.blk fun b => b.release m1.rmap.pkg m1.clock
     (c.s.m.settleAll c.is.blk c.is.warp c.ex = (m1, true) → out.block? c.is.blk = some b0 →
       (i = 0 → exec (.fence h i) s = .next { c.s with m := m1 }) ∧
       (i ≠ 0 → out.unperformed b0 = [] → exec (.fence h i) s = .next { c.s with m := out }) ∧
       (i ≠ 0 → out.unperformed b0 ≠ [] → ∀ w1, m1.warp? c.is.blk c.is.warp = some w1 →
         ((∀ l ∈ c.lanes, (w1.lane l).run = .ready) → exec (.fence h i) s = .next { c.s with
           m := out.updWarp c.is.blk c.is.warp fun w => w.updLanes c.ex fun l => { l with run := .fence (out.unperformed b0) } }) ∧
         ((∃ l ∈ c.lanes, (w1.lane l).run ≠ .ready) → exec (.fence h i) s = .next { c.s with m := out.allVisible c.is.blk }))) ∧
     (c.s.m.settleAll c.is.blk c.is.warp c.ex = (m1, false) → c.Stalls (exec (.fence h i) s)))

/-- R167, R193, R211, R418, R421: TWAIT.any and TWAIT.all of tags of the block go on when one, or all, of them are ready and hold no latched error, and else leave the path waiting, to go on once they have been ready (its run state is then `drained`); TFIRST, TLREAD and CHSTAT leave an entry that samples its answer; TLWAIT goes on when the counter has reached its value and else leaves the path waiting. A tag the block does not hold traps TAG, sub-cause 0x02, and a channel it does not hold CHAN, sub-cause 0x01. -/
def Obligations.TagsAndTimelines : Prop :=
  ∀ (s : State) (h : Hdr) (c : Cx) (d a : BitVec 6) (ch : BitVec 4) (b0 : Block), Runs s h c → c.Holds (pairRegs d ++ pairRegs a) →
    c.s.m.block? c.is.blk = some b0 →
    let v : Nat := (c.pair a.toNat c.low).toNat
    let waits (i : Instr) (r : Run) : Prop := c.WaitsIn (exec i s) c.s.m id r
    (2 ^ c.b.ntags ≤ v → c.Traps (exec (.twaitAny h a) s) 0x14 2 0 0 ∧ c.Traps (exec (.twaitAll h a) s) 0x14 2 0 0 ∧
      c.Traps (exec (.tfirst h d a) s) 0x14 2 0 0) ∧
    (v < 2 ^ c.b.ntags → v < 2 ^ 64 →
      (v = 0 ∨ (∃ i, i < 64 ∧ v.testBit i = true ∧ b0.ready.getLsbD i = true) → b0.tagErr = [] → exec (.twaitAny h a) s = .next c.s) ∧
      (v ≠ 0 → (∀ i, i < 64 → v.testBit i = true → b0.ready.getLsbD i = false) → (c.w.lane c.low).run ≠ .drained →
        waits (.twaitAny h a) (.tag false v c.is.here)) ∧
      ((∀ i, i < 64 → v.testBit i = true → b0.ready.getLsbD i = true) → b0.tagErr = [] → exec (.twaitAll h a) s = .next c.s) ∧
      ((∃ i, i < 64 ∧ v.testBit i = true ∧ b0.ready.getLsbD i = false) → (c.w.lane c.low).run ≠ .drained →
        waits (.twaitAll h a) (.tag true v c.is.here)) ∧
      ((c.w.lane c.low).run = .drained → exec (.twaitAny h a) s = .next c.s ∧ exec (.twaitAll h a) s = .next c.s) ∧
      c.Awaits (exec (.tfirst h d a) s) id (c.wholeRegs [d.toNat]) (.tfirst v) true []) ∧
    (v ≤ c.s.m.tlCount c.b.ctx d.toNat → exec (.tlwait h d a) s = .next c.s) ∧
    (c.s.m.tlCount c.b.ctx d.toNat < v → waits (.tlwait h d a) (.timeline d.toNat v)) ∧
    c.Awaits (exec (.tlread h d a) s) id (c.wholeRegs [d.toNat, d.toNat + 1]) (.sample (0x3000 + a.toNat)) false [] ∧
    (c.b.nchan ≤ ch.toNat → c.Traps (exec (.chstat h ch d) s) 0x0D 1 0 0) ∧
    (ch.toNat < c.b.nchan → c.Awaits (exec (.chstat h ch d) s) id (c.wholeRegs [d.toNat]) (.sample (0x2000 + ch.toNat)) false [])

/-- R199, R203, R211, R399, R405, R406: RST, RATOM and RRED of a channel of the block, whose lanes pass their checks and find room among the queue's 64 entries, put each lane's operation on the channel in lane order, for ch0 behind what the block released before; RATOM and RRED leave an entry whose result is the acknowledgement. A channel at or above the block's count traps CHAN, sub-cause 0x01, and a bad slot descriptor traps BOUNDS, sub-cause 0x08. -/
def Obligations.ChannelOperations : Prop :=
  ∀ (s : State) (h : Hdr) (c : Cx) (ch : BitVec 4) (a : BitVec 5) (r : BitVec 6) (x : BitVec 4) (accs : List (Access × PteRef × Bool × Bool))
    (m1 : Mach) (b1 b2 : Block), Runs s h c →
    c.Holds (sizeRegs r x.toNat ++ atomRegs x.toNat r.toNat ++ ((List.range 4).map fun i => r.toNat + i) ++ [2 * a.toNat, 2 * a.toNat + 1]) →
    let i := ch.toNat
    let at_ (l : Nat) : Nat := (c.pair (2 * a.toNat) l).toNat
    let mark (m : Mach) : Mach := m.touchAll (accs.filter fun y => match y.1.loc with | .glob _ => true | .shared _ => false) true
    (c.b.nchan ≤ i → c.Traps (exec (.rst h ch a r x) s) 0x0D 1 0 0 ∧ c.Traps (exec (.ratom h ch a r x) s) 0x0D 1 0 0 ∧
      c.Traps (exec (.rred h ch a r x) s) 0x0D 1 0 0) ∧
    (i < c.b.nchan →
      (verdict (c.lanes.map fun l => c.is.base.checkOne c.b.ctx { lane := l, va := at_ l, size := Machine.sizeOf x.toNat, need := needW }) = .go accs [] →
        c.s.m.settle c.is.blk c.is.warp c.w.nextSeq c.ex (accs.map fun y => y.1) = (m1, true) →
        let sent : Mach := (mark (c.ahead i m1)).updBlock c.is.blk fun b => (accs.map fun y => y.1).foldl
          (fun b y => b.enqueueStore (m1.names c.b) i m1.clock y.key y.va (c.dataBytes r.toNat x.toNat y.lane)) b
        sent.block? c.is.blk = some b2 → sent.Room b2 i 0 → exec (.rst h ch a r x) s = .next { c.s with m := sent }) ∧
      (let need : Need := { r := true, w := true, x := false }
       let ops : List Access := accs.map fun y => { y.1 with ops := (atomRegs x.toNat r.toNat).map fun i => c.val i y.1.lane }
       verdict (c.lanes.map fun l => c.is.base.checkOne c.b.ctx { lane := l, va := at_ l, size := atomSize x.toNat, need := need }) = .go accs [] →
       (∀ y ∈ accs, (homeOf y.1.key).2 ≠ 8) → c.s.m.settle c.is.blk c.is.warp c.w.nextSeq c.ex ops = (m1, true) →
       (c.ahead i m1).block? c.is.blk = some b1 → (c.ahead i m1).Room b1 i accs.length → ∀ w, m1.warp? c.is.blk c.is.warp = some w →
       Cx.Awaits { c with s := { c.s with m := m1 } } (exec (.ratom h ch a r x) s)
         (fun m => (mark (c.ahead i m)).updBlock c.is.blk fun b => b.putAtoms i x.toNat c.is.warp w.nextSeq ops)
         (c.wholeRegs (atomDests x.toNat r.toNat)) (.chan (maskOfAccs ops) ops) false []) ∧
      ((∀ l ∈ c.lanes, badSlot (c.pair (2 * a.toNat) l) = false) → (c.ahead i c.s.m).block? c.is.blk = some b1 →
        (c.ahead i c.s.m).Room b1 i c.lanes.length → ∀ w, c.s.m.warp? c.is.blk c.is.warp = some w →
        c.Awaits (exec (.rred h ch a r x) s) (fun m => (c.ahead i m).updBlock c.is.blk fun b => c.lanes.foldl
            (fun b l => b.enqueue i (c.s.m.rmap.pkg, 16 + at_ l / 256 % 2)
              (.rred x.toNat (c.pair (2 * a.toNat) l) (c.val r.toNat l) c.is.warp w.nextSeq l) none []) b)
          (c.wholeRegs [r.toNat, r.toNat + 1, r.toNat + 2, r.toNat + 3]) (.chan c.ex []) false []) ∧
      ((∃ l ∈ c.lanes, badSlot (c.pair (2 * a.toNat) l) = true) → ∃ k, c.Traps (exec (.rred h ch a r x) s) 0x07 8 0 k))

/-- R207, R208, R211: CHJOIN of two channels of the block ends the covered channel's merge hold and, with room, enqueues a join over the operations it has issued; CHDRAIN goes on when every operation of its channel is acknowledged and no error is latched, traps CHAN, sub-cause 0x02, and takes the latch when one is, and else leaves the path waiting, to go on once it has drained (its run state is then `drained`). -/
def Obligations.JoinAndDrain : Prop :=
  ∀ (s : State) (h : Hdr) (c : Cx) (ch k : BitVec 4) (b0 b1 : Block), Runs s h c → c.s.m.block? c.is.blk = some b0 →
    let held (m : Mach) (i : Nat) : Mach := m.updBlock c.is.blk fun b => b.endHold i
    let q : Chan := b0.chan ch.toNat
    (c.b.nchan ≤ max ch.toNat k.toNat → c.Traps (exec (.chjoin h ch k) s) 0x0D 1 0 0) ∧
    (c.b.nchan ≤ ch.toNat → c.Traps (exec (.chdrain h ch) s) 0x0D 1 0 0) ∧
    (max ch.toNat k.toNat < c.b.nchan → (held (c.ahead ch.toNat c.s.m) k.toNat).block? c.is.blk = some b1 →
      (held (c.ahead ch.toNat c.s.m) k.toNat).Room b1 ch.toNat 1 →
      exec (.chjoin h ch k) s = .next { c.s with m := (held (c.ahead ch.toNat c.s.m) k.toNat).updBlock c.is.blk fun b =>
        (b.enqueue ch.toNat (0, 255) (.join k.toNat (b.chan k.toNat).issued) none []).settleJoins }) ∧
    (ch.toNat < c.b.nchan → q.ackedUpto q.issued = true ∨ (c.w.lane c.low).run = .drained →
      (q.err = none → exec (.chdrain h ch) s = .next c.s) ∧
      (∀ cause va pa, q.err = some (cause, va, pa) →
        let taken : Mach := c.is.base.updBlock c.is.blk fun b => b.updChan ch.toNat fun x => { x with err := none }
        Cx.Traps { c with is := { c.is with base := taken } } (exec (.chdrain h ch) s) 0x0D 2 va (cause * 2 ^ 56 + pa))) ∧
    (ch.toNat < c.b.nchan → q.ackedUpto q.issued = false → (c.w.lane c.low).run ≠ .drained →
      c.WaitsIn (exec (.chdrain h ch) s) c.s.m (fun m => held m ch.toNat) (.chdrain ch.toNat q.issued))

/-- R165, R166, R193, R350: CPY of a tag of the block, whose lanes pass the copy checks, once what must come first has performed, marks the pages it reads A and those it writes A and D, makes the tag not ready and leaves one copy outstanding for each lane, of the lane's source range and to its destination; the checks of a lane in their order; a check that fails traps, and a tag the block does not hold traps TAG, sub-cause 0x01. CPYR takes the next number of its timeline and puts the copy on its channel, for the home of its destination, for ch0 behind what the block released before; a channel that is not U, a channel the block does not hold, an address at or above 2^52, a count of 0, a misaligned operand and a source page of another package (R357) trap. -/
def Obligations.Copies : Prop :=
  ∀ (s : State) (h : Hdr) (c : Cx) (t a : BitVec 6) (b : BitVec 5) (accs : List (Access × PteRef × Bool × Bool)) (m1 : Mach), Runs s h c →
    c.Holds (pairRegs a ++ [2 * b.toNat, 2 * b.toNat + 1, 2 * b.toNat + 2, 2 * b.toNat + 3]) →
    (∀ p ∈ [(Instr.cpySh h t a b, 0), (.cpySt h t a b, 1), (.cpyTile h t a b, 2)],
      let from_ (l : Nat) : Nat := (c.pair a.toNat l).toNat
      let to_ (l : Nat) : Nat := (c.val (2 * b.toNat) l).toNat
      let len (l : Nat) : Nat := (c.val (2 * b.toNat + 1) l).toNat
      let checks (l : Nat) : List LaneRes := c.copyChecks p.2 { lane := l, src := from_ l, dst := to_ l, n := len l }
      let target (l : Nat) : List (Nat × Nat) := if p.2 = 1 then (c.b.stashPieces (to_ l) (len l) 65).getD [] else []
      let copy (l : Nat) : Copy :=
        { tag := t.toNat, kind := p.2, side := c.w.side, dst := to_ l, src := okPieces (pagePieces (from_ l) (len l) 2) (checks l),
          into := okPieces (target l) ((checks l).drop (pagePieces (from_ l) (len l) 2).length), pos := 0, bad := [], warp := c.is.warp, lost := [] }
      (c.b.ntags ≤ t.toNat → c.Traps (exec p.1 s) 0x14 1 0 0) ∧
      (t.toNat < c.b.ntags →
        (verdict (c.lanes.flatMap checks) = .go accs [] →
          c.s.m.settle c.is.blk c.is.warp c.w.nextSeq c.ex (accs.map fun y => y.1) = (m1, true) →
          (c.Does (exec p.1 s) fun _ =>
            (((m1.touchAll accs false).touchAll (c.copyWrites p.2 (c.lanes.map fun l => c.copyReq a b l) accs) true).updBlock c.is.blk fun b =>
              { b with ready := b.ready &&& ~~~bit t.toNat }).updBlock c.is.blk fun b => { b with copies := b.copies ++ c.lanes.map copy }) ∧
          ∀ l ∈ c.lanes, (copy l).src.map (fun x => (x.1, x.2.2)) = pagePieces (from_ l) (len l) 2 ∧
            (copy l).into.map (fun x => (x.1, x.2.2)) = target l) ∧
        (∀ cause sub va pa mask, verdict (c.lanes.flatMap checks) = .trap cause sub va pa mask → cause ≠ 0x06 →
          c.Traps (exec p.1 s) cause sub va mask.toNat)) ∧
      ∀ l, (2 ^ 52 ≤ from_ l → checks l = [.bad l (from_ l) 0x07 4 none]) ∧
        (from_ l < 2 ^ 52 → len l = 0 ∨ 65536 < len l → checks l = [.bad l (from_ l) 0x07 7 none]) ∧
        (from_ l < 2 ^ 52 → len l ≠ 0 → len l ≤ 65536 →
          (from_ l % 16 ≠ 0 ∨ len l % 16 ≠ 0 → checks l = [.bad l (from_ l) 0x04 3 none]) ∧
          (from_ l % 16 = 0 → len l % 16 = 0 →
            (p.2 ≠ 2 → to_ l % 16 ≠ 0 → checks l = [.bad l (to_ l) 0x04 3 none]) ∧
            (p.2 = 0 → to_ l % 16 = 0 → c.b.shTotal < to_ l + len l → checks l = [.bad l (to_ l) 0x07 2 none]) ∧
            (p.2 = 1 → to_ l % 16 = 0 → c.b.stashPieces (to_ l) (len l) 65 = none → checks l = [.bad l (to_ l) 0x07 2 none]) ∧
            (p.2 = 2 → 16 ≤ to_ l → checks l = [.bad l 0 0x08 4 none]) ∧
            (p.2 = 2 → to_ l < 16 → ∀ k, c.b.tileCheck c.w.side (to_ l) = some k → checks l = [.bad l 0 0x08 k none]) ∧
            (p.2 = 2 → to_ l < 16 → c.b.tileCheck c.w.side (to_ l) = none → len l ≠ tileBytes (c.b.tctl c.w.side (to_ l)) →
              checks l = [.bad l 0 0x08 4 none])))) ∧
    (let src : Nat := (c.pair a.toNat c.low).toNat
     let dst : Nat := (c.pair (2 * b.toNat) c.low).toNat
     let n : Nat := (c.val (2 * b.toNat + 2) c.low).toNat
     let ch : Nat := (c.val (2 * b.toNat + 3) c.low).toNat
     let go : Host.Outcome State Fault Refusal := exec (.cpyr h t a b) s
     let look (va : Nat) (w : Bool) : List LaneRes :=
       c.lanes.map fun l => c.is.base.checkOne c.b.ctx { lane := l, va := va, size := 16, need := { r := !w, w := w, x := false } }
     (c.allU [2 * b.toNat + 3] = false → c.Traps go 0x03 0 0 0) ∧
     (c.allU [2 * b.toNat + 3] = true →
       (c.b.nchan ≤ ch → c.Traps go 0x0D 1 0 0) ∧
       (ch < c.b.nchan → 2 ^ 52 ≤ src → c.Traps go 0x07 4 src c.ex.toNat) ∧
       (ch < c.b.nchan → src < 2 ^ 52 → 2 ^ 52 ≤ dst → c.Traps go 0x07 4 dst c.ex.toNat) ∧
       (ch < c.b.nchan → src < 2 ^ 52 → dst < 2 ^ 52 →
         (n = 0 → c.Traps go 0x07 7 src c.ex.toNat) ∧
         (n ≠ 0 → src % 16 ≠ 0 ∨ dst % 16 ≠ 0 ∨ n % 16 ≠ 0 → c.Traps go 0x04 3 (if src % 16 = 0 ∧ dst % 16 ≠ 0 then dst else src) c.ex.toNat) ∧
         (n ≠ 0 → src % 16 = 0 → dst % 16 = 0 → n % 16 = 0 → ∀ x y xs ys,
           verdict (look src false) = .go (x :: xs) [] → verdict (look dst true) = .go (y :: ys) [] →
           (keyPkg x.1.key ≠ c.s.m.rmap.pkg →
             let logged : Mach :=
               c.is.base.log (Mach.blockLog c.b 0x06 9 0 (some c.is.warp) (some src) (some (keyPa x.1.key)) (some c.is.here) 0) none
             Cx.Traps { c with is := { c.is with base := logged } } go 0x06 9 src c.ex.toNat) ∧
           (keyPkg x.1.key = c.s.m.rmap.pkg → c.s.m.tlFull c.b.ctx t.toNat = false →
             c.s.m.settle c.is.blk c.is.warp c.w.nextSeq c.ex ((x :: xs ++ y :: ys).map fun q => q.1) = (m1, true) →
             let ready : Mach := c.ahead ch m1
             ∀ b0, ready.block? c.is.blk = some b0 → ready.Room b0 ch 1 → c.Does go fun _ =>
               (ready.numberTl c.b.ctx t.toNat).2.updBlock c.is.blk fun b =>
                 b.enqueue ch (homeOf y.1.key) (.cpyr src dst n 0 t.toNat (ready.numberTl c.b.ctx t.toNat).1) none [])))))

/-- R247, R248, R251 to R257, R259, R267, R269, R270, R390, R422: TZERO, TMOV, MTRN, MMA, MMAB, MSCALE, MPOLY, TQNT and TDQ of tiles of the block with valid, fitting TCTLs and no poison, under a U scale where they take one, take the core's array (both arrays in pair mode) and its grains with their result fixed, to land as the word ends, and OR their flags into FPFLAGS; a mirrored word leaves an entry until then, and its flags wait with it; a tile that does not fit traps TILE, and a scale that is not U traps SHAPE. R251, R254, R257, R145, R316: what landing leaves in the tile, byte by byte: the zeros, the copy and the transpose of the move group on the valid rows, with the poison bit; for a product of f64 tiles the fused steps in order of k, for one of i8 tiles the wrapping sum; and for MSCALE of f32 tiles the fused multiply and add. -/
def Obligations.ArrayWords : Prop :=
  (∀ (s : State) (h : Hdr) (c : Cx) (t a b f n : BitVec 4) (q : BitVec 6) (p : Bool) (v : BitVec 2), Runs s h c → c.Holds [q.toNat] →
    ∀ i ∈ [Instr.tzero h t v, .tmov h t a v, .mtrn h t a v, .mma h t a b f p v, .mmab h t a b f v, .mscale h t a q, .mpoly h t a n p,
        .tqnt h t a q, .tdq h t a q],
      ∃ o, mxOpOf i = some o ∧ o.kind ≠ 4 ∧
        (o.sreg.any (fun r => !c.allU [r]) = true → c.Traps (exec i s) 0x03 0 0 0) ∧
        (o.sreg.any (fun r => !c.allU [r]) = false →
          (∀ k, o.bad c.b c.w.side = some k → c.Traps (exec i s) 0x08 k 0 c.ex.toNat) ∧
          (o.bad c.b c.w.side = none → o.poisoned c.b c.w.side (c.w.count o.vc) = false →
            let count : Nat := c.w.count o.vc
            let out := o.out c.b c.w.side count (match o.sreg with | some r => (c.val r c.low).toNat | none => 0)
            let run (seq : Option Nat) : MxRun :=
              { blk := c.is.blk, warp := c.is.warp, side := c.w.side, pc := c.is.here, seq := seq,
                endAt := c.is.base.clock + o.stepTime c.b c.w.side 0, writes := out.1,
                iter := if o.kind = 3 then some (o.iterOf c.b c.w.side) else none, flags := if seq.isSome then out.2 else 0,
                follower := false, dead := false }
            let start (seq : Option Nat) (m : Mach) : Mach := m.startMx c.b o.pair (run seq) (o.chargeAt c.b c.w.side count 0)
            (o.mirror c.b c.w.side count = false →
              c.Does (exec i s) fun m => start none (m.updWarp c.is.blk c.is.warp fun w => w.orFlags out.2)) ∧
            (o.mirror c.b c.w.side count = true → ∀ w0, c.s.m.warp? c.is.blk c.is.warp = some w0 →
              c.Awaits (exec i s) (start (some w0.nextSeq)) [] .mx false [])))) ∧
  ∀ (b : Block) (side count sigma : Nat) (o : MxOp), o.pair = false → side < b.sides.length → o.td < (b.side side).tiles.length →
    (b.tile side o.td).bytes.wf = true → o.bad b side = none →
    let td : Word := b.tctl side o.td
    let after : Tile := (b.tileWrites (o.out b side count sigma).1).tile side o.td
    let old (t k : Nat) : Byte := Memory.get (b.tile side t).bytes k
    let valid (r : Nat) : Prop := (if isGsx (tFmt td) then 4 * r else r) < count
    let el (t : Tile) (cols n i j : Nat) : Nat := leNat (t.bytes.bytes ((i * cols + j) * n) n)
    let D (n i j : Nat) : Nat := el (b.tile side o.td) (tCols td) n i j
    let A (n i j : Nat) : Nat := el (b.tile side o.ta) (tCols (b.tctl side o.ta)) n i j
    let B (n i j : Nat) : Nat := el (b.tile side o.tb) (tCols (b.tctl side o.tb)) n i j
    let K : Nat := tCols (b.tctl side o.ta)
    (∀ k, k < tileBytes td →
      let r : Nat := k / rowBytes td
      let j : Nat := k % rowBytes td / unitBytes (tFmt td)
      (o.kind ∈ [7, 8, 9] → ¬ valid r → Memory.get after.bytes k = old o.td k) ∧
      (o.kind = 7 → valid r → Memory.get after.bytes k = 0) ∧ (o.kind = 8 → valid r → Memory.get after.bytes k = old o.ta k) ∧
      (o.kind = 9 → isGsx (tFmt td) = false → valid r →
        Memory.get after.bytes k = old o.ta ((j * tRows td + r) * unitBytes (tFmt td) + k % unitBytes (tFmt td)))) ∧
    ((∀ r, r < memRows td → valid r) → (o.kind = 7 → after.poison = false) ∧ (o.kind ∈ [8, 9] → after.poison = (b.tile side o.ta).poison)) ∧
    (o.kind ∈ [8, 9] → (∃ r, r < memRows td ∧ valid r) → (∃ r, r < memRows td ∧ ¬ valid r) →
      after.poison = ((b.tile side o.ta).poison || (b.tile side o.td).poison)) ∧
    ∀ i j, i < tRows td → j < tCols td →
      (o.kind = 0 → o.fmt = 0 → el after (tCols td) 8 i j =
        if i < count then (List.range K).foldl (fun acc k => (f64.fmaF 0 false (A 8 i k) (B 8 k j) acc).1) (D 8 i j) else D 8 i j) ∧
      (o.kind = 0 → o.fmt = 6 → BitVec.ofNat 32 (el after (tCols td) 4 i j) =
        if i < count then (List.range K).foldl (fun acc k => acc +
          (BitVec.ofNat 8 (A 1 i k)).signExtend 32 * (BitVec.ofNat 8 (B 1 k j)).signExtend 32) (BitVec.ofNat 32 (D 4 i j))
        else BitVec.ofNat 32 (D 4 i j)) ∧
      (o.kind = 2 → tFmt td = 1 → tFmt (b.tctl side o.ta) = 1 → sigma < 2 ^ 32 →
        el after (tCols td) 4 i j = (f32.fmaF 0 false (A 4 i j) sigma (D 4 i j)).1)

/-- R261, R262, R264: a MITER of fitting tiles starts, or resumes at the site that MITSTAT was left running at, from that count, rise count, flags and reason: below its cap it sets MITSTAT running in phase 1 with its issuer as owner, takes its array, leaves an entry and makes its path wait; with its count at the cap it ends at once with reason 2, MITSTAT as for an end, and runs nothing: its flags go into FPFLAGS, or with CAPFAULT the entry it leaves holds the MDIV fault, sub-cause 0x04. In pair mode the leader's registers count (log entry 86), and a resumed MITER's MITSTAT keeps its reason until it ends (log entry 33). -/
def Obligations.IterationStart : Prop :=
  ∀ (s : State) (h : Hdr) (c : Cx) (t a n : BitVec 4) (p : Bool) (w0 : Warp), Runs s h c → c.s.m.warp? c.is.blk c.is.warp = some w0 →
    ∀ q ∈ [(Instr.miterNs h t p, 0, 0, 0), (.miterNinv h t a p, 1, a.toNat, 0), (.miterPoly h t n p, 2, 0, n.toNat)],
      ∃ o, mxOpOf q.1 = some o ∧ o.kind = 4 ∧ o.mode = q.2.1 ∧ o.td = t.toNat ∧ o.ta = q.2.2.1 ∧ o.n = q.2.2.2 ∧ o.pair = p ∧
        (∀ k, o.bad c.b c.w.side = some k → c.Traps (exec q.1 s) 0x08 k 0 c.ex.toNat) ∧
        (o.bad c.b c.w.side = none → o.poisoned c.b c.w.side (c.w.count o.vc) = false →
          let e : MitRegs := (c.b.side c.w.side).eng
          let st (lo n : Nat) : Nat := if e.mitstat.getLsbD 31 = true ∧ e.owner = some (c.w.num, c.is.here) then e.mitstat.toNat / 2 ^ lo % 2 ^ n else 0
          let kept : Nat := st 24 6 * 2 ^ 24 + st 16 8 * 2 ^ 16
          (st 0 8 < e.mitcap.toNat →
            let it : MxIter :=
              { mode := o.mode, td := o.td, ta := o.ta, n := o.n, pair := p, tctl := c.b.tctl c.w.side o.td, tctlF := c.b.tctl 1 o.td, step := 1,
                k := st 0 8, rise := st 16 8, flags := BitVec.ofNat 32 (st 24 6), coef := e.coef, cap := e.mitcap.toNat, tol := e.mittol, div := e.mitdiv,
                src := (o.iterOf c.b c.w.side).src }
            let r : MxRun :=
              { blk := c.is.blk, warp := c.is.warp, side := c.w.side, pc := c.is.here, seq := some w0.nextSeq,
                endAt := c.is.base.clock + o.stepTime c.b c.w.side 0, writes := [], iter := some it, flags := 0, follower := false, dead := false }
            ∃ x : Warp → Entry, (∀ w, c.NewEntry w.nextSeq (x w) ∧ (x w).pend = .mx ∧ (x w).dests = []) ∧
              c.Does (exec q.1 s) fun m =>
                ((((m.updBlock c.is.blk fun b => b.updEng c.w.side fun g =>
                  { g with mitstat := BitVec.ofNat 32 (2 ^ 31 + kept + 2 ^ 12 + st 8 4 * 2 ^ 8 + st 0 8), owner := some (c.is.warp, c.is.here) }).updWarp
                    c.is.blk c.is.warp fun w => w.push (x w)).startMx c.b o.pair r (o.chargeAt c.b c.w.side 0 0)).updWarp c.is.blk c.is.warp fun w =>
                      w.updLanes c.is.lanes fun l => if l.run == .ready then { l with run := .miter w0.nextSeq } else l)) ∧
          (e.mitcap.toNat ≤ st 0 8 →
            let word : Word := BitVec.ofNat 32 (kept + 2 * 2 ^ 8 + st 0 8)
            let ends (fault : Option CFault) (flags : Word) : Prop :=
              ∃ x : Warp → Entry, (∀ w, c.NewEntry w.nextSeq (x w) ∧ (x w).pend = .mx ∧ (x w).dests = []) ∧
                c.Does (exec q.1 s) fun m => (m.updBlock c.is.blk fun b => b.updEng c.w.side fun g => { g with mitstat := word, owner := none }).updWarp
                  c.is.blk c.is.warp fun w => ({ w.push (x w) with
                    rb := modWhere (w.push (x w)).rb (fun y => y.seq == w0.nextSeq) fun y => { y with done := true, fault := fault } } : Warp).orFlags flags
            (e.mitdiv.getLsbD 31 = false → ends none (BitVec.ofNat 32 (st 24 6))) ∧
            (e.mitdiv.getLsbD 31 = true →
              ends (some { lanes := c.ex, cause := 0x09, sub := 4, va := none, pa := none, detail := word.toNat }) 0)))

/-- R256: TGET of a slice of a good tile, by rows or by columns, leaves an entry that gives each lane its 4 bytes of the slice, 0 beyond the tile's bytes; TSET writes each lane's 4 bytes there, those beyond the tile left out; a column slice of a tile that is neither f32 nor i32 traps TILE, sub-cause 0x04, a slice past the tile sub-cause 0x07, and an index that is not U traps SHAPE. -/
def Obligations.SliceWords : Prop :=
  ∀ (s : State) (h : Hdr) (c : Cx) (d : BitVec 6) (t : BitVec 4) (b : BitVec 6) (r : Bool) (i : BitVec 2) (pf : Option (BitVec 23)), Runs s h c →
    c.Holds [d.toNat, b.toNat] →
    let tc : Word := c.b.tctl c.w.side t.toNat
    let tl : Tile := c.b.tile c.w.side t.toNat
    let x : Nat := (c.lane b c.low + BitVec.ofNat 32 (pfField pf 0 5 * 4 + i.toNat)).toNat
    let words : Nat := (tileBytes tc + 3) / 4
    let at_ (l : Nat) : Nat := x * c.W + l
    let off (l : Nat) : Nat := if r then 4 * (at_ l % tRows tc * tCols tc + at_ l / tRows tc) else 4 * at_ l
    let fmtOk : Prop := r = false ∨ tFmt tc = 1 ∨ tFmt tc = 7
    (∀ j ∈ [Instr.tget h d t b r i pf, .tset h d t b r i pf],
      (c.allU [b.toNat] = false → c.Traps (exec j s) 0x03 0 0 0) ∧
      (c.allU [b.toNat] = true →
        (∀ k, c.b.tileCheck c.w.side t.toNat = some k → c.Traps (exec j s) 0x08 k 0 c.ex.toNat) ∧
        (c.b.tileCheck c.w.side t.toNat = none → ¬ fmtOk → c.Traps (exec j s) 0x08 4 0 c.ex.toNat) ∧
        (c.b.tileCheck c.w.side t.toNat = none → fmtOk → words ≤ x * c.W → c.Traps (exec j s) 0x08 7 0 c.ex.toNat))) ∧
    (c.allU [b.toNat] = true → c.b.tileCheck c.w.side t.toNat = none → fmtOk → x * c.W < words →
      (tl.poison = false → (∀ w, c.s.m.warp? c.is.blk c.is.warp = some w → ∀ e ∈ w.rb, e.seq < w.nextSeq ∧ e.fault = none) →
        ∃ e : Warp → Entry, (∃ g : Warp → Warp, exec (.tget h d t b r i pf) s = .next (c.withWarp g) ∧
          ∀ w, c.s.m.warp? c.is.blk c.is.warp = some w → g w = w.push (e w)) ∧
          ∀ w, c.NewEntry w.nextSeq (e w) ∧ (e w).dests = c.wholeRegs [d.toNat] ∧ ∃ v, (e w).vals = [v] ∧ ∀ l k, l < c.W → k < 4 →
            (v.get l).extractLsb' (8 * k) 8 = if at_ l < words ∧ off l + k < tileBytes tc then Memory.get tl.bytes (off l + k) else 0) ∧
      c.Does (exec (.tset h d t b r i pf) s) fun m => m.updBlock c.is.blk fun k => k.updSide c.w.side fun y =>
        { y with tiles := modAt y.tiles t.toNat fun q => { q with bytes := q.bytes.setCells (c.lanes.flatMap fun l =>
          if at_ l < words then (cellsFrom (off l) (wordBytes (c.lane d l))).filter fun z => z.1 < tileBytes tc else []) } })

/-- R419, R420: TLD and TST of a good tile, whose valid rows' pieces translate, mark the pages and, once what must come first has performed (what a fence of their own group waits for among it, log entry 39), take the core until they end (in checked mode leaving an entry until then). TLD, with no store of another block to those bytes on its way (log entry 16) and no merge hold to end first (log entry 43), holds the bytes it will leave in the tile as the block reads them. TST releases the block's entries of the sectors it writes and makes visible what the block had released to them on its die, all it had released where an ST.rel to one of them is still to perform; then it stores its rows sector by sector, and seals the block when one is on its die. A bad tile traps TILE, a base of 2^52 or more BOUNDS, sub-cause 0x04, a base or stride that is no multiple of 16 ALIGN, sub-cause 0x05; a TLD.pair off a leader traps sub-cause 0x05 and of unequal tiles 0x04, as does a TST whose rows overlap. -/
def Obligations.TileTransfers : Prop :=
  ∀ (s : State) (h : Hdr) (c : Cx) (t : BitVec 4) (a b : BitVec 6) (v : BitVec 2) (m2 : Mach) (b0 : Block), Runs s h c →
    c.Holds (pairRegs a ++ [b.toNat]) →
    let side : Nat := c.w.side
    let base : Nat := (c.pair a.toNat c.low).toNat
    let stride : Nat := (c.lane b c.low).toNat
    let tc : Word := c.b.tctl side t.toNat
    let n : Nat := rowBytes tc
    let rows : List (Nat × Nat) := (validRows tc (c.w.count v.toNat)).map fun r => (r, base + r * stride)
    let found (w : Bool) : List (Nat × Nat × PteRef × Nat) := (rows.flatMap fun r => pagePieces r.2 n 2).filterMap fun p =>
      match c.checkGlob c.low p.1 1 { r := !w, w := w, x := false } with | .ok y pte _ _ => some (y.va, y.key, pte, p.2) | _ => none
    let passes (w : Bool) : Prop := ∀ p ∈ rows.flatMap fun r => pagePieces r.2 n 2, ∃ y pte nc hb,
      c.checkGlob c.low p.1 1 { r := !w, w := w, x := false } = .ok y pte nc hb
    let parts (w : Bool) : List (Nat × Nat × Nat) := (found w).map fun q => (q.1, q.2.1, q.2.2.2)
    let marked (w : Bool) : Mach := (found w).foldl (fun m q => m.touch q.2.2.1 w) c.afterFence.s.m
    let settles (w : Bool) : Prop := (marked w).settle c.is.blk c.is.warp c.w.nextSeq c.ex (c.pieceAccs (parts w)) = (m2, true)
    let run (seq : Option Nat) (ws : List (Nat × Nat × List Host.Cell × Option Bool)) : MxRun :=
      { blk := c.is.blk, warp := c.is.warp, side := side, pc := c.is.here, seq := seq, endAt := c.is.base.clock, writes := ws, iter := none,
        flags := 0, follower := false, dead := false }
    let takes (o : Host.Outcome State Fault Refusal) (m : Mach) (p : Bool) (ws : List (Nat × Nat × List Host.Cell × Option Bool)) : Prop :=
      (c.b.checked = false → o = .next { c.s with m := m.startMx c.b p (run none ws) (0, 0) }) ∧
      (c.b.checked = true → ∀ w0, m.warp? c.is.blk c.is.warp = some w0 →
        Cx.Awaits { c with s := { c.s with m := m } } o (fun m => m.startMx c.b p (run (some w0.nextSeq) ws) (0, 0)) [] .mx false [])
    (∀ i ∈ [Instr.tld h t a b false v, .tst h t a b v],
      (∀ k, c.b.tileCheck side t.toNat = some k → c.Traps (exec i s) 0x08 k 0 c.ex.toNat) ∧
      (c.b.tileCheck side t.toNat = none → 2 ^ 52 ≤ base → c.Traps (exec i s) 0x07 4 base c.ex.toNat) ∧
      (c.b.tileCheck side t.toNat = none → base < 2 ^ 52 → base % 16 ≠ 0 ∨ stride % 16 ≠ 0 → c.Traps (exec i s) 0x04 5 base c.ex.toNat)) ∧
    (c.b.tileCheck side t.toNat = none →
      (c.b.paired = false ∨ side ≠ 0 → c.Traps (exec (.tld h t a b true v) s) 0x08 5 0 c.ex.toNat) ∧
      (c.b.paired = true → side = 0 → c.b.tctl 1 t.toNat ≠ tc → c.Traps (exec (.tld h t a b true v) s) 0x08 4 0 c.ex.toNat)) ∧
    (c.b.tileCheck side t.toNat = none → base < 2 ^ 52 → base % 16 = 0 → stride % 16 = 0 →
      (stride < n → 1 < rows.length → c.Traps (exec (.tst h t a b v) s) 0x08 4 0 c.ex.toNat) ∧
      (passes false → settles false → m2.block? c.is.blk = some b0 →
        (m2.tileParts b0 (parts false)).2 = [] →
        (∀ p ∈ parts false, m2.inFlight b0 p.2.1 p.2.2 = false) →
        let from_ : List (Bool × Access) := (m2.tileParts b0 (parts false)).1
        let data : List Byte := from_.flatMap fun p => m2.readAccess b0 p.1 p.2
        let bad : Option Bool := if from_.any fun p => m2.poisonedAt b0 p.1 p.2 then some true else if rows.length = memRows tc then some false else none
        let cells : List Host.Cell := (rows.zip (List.range rows.length)).flatMap fun q => cellsFrom (q.1.1 * n) ((data.drop (q.2 * n)).take n)
        (∀ p : Bool, p = false ∨ (c.b.paired = true ∧ side = 0 ∧ c.b.tctl 1 t.toNat = tc) →
          takes (exec (.tld h t a b p v) s) m2 p ((if p then [0, 1] else [side]).map fun k => (k, t.toNat, cells, bad)))) ∧
      (passes true → (c.b.tile side t.toNat).poison = false ∨ rows = [] → n ≤ stride ∨ rows.length ≤ 1 → settles true →
        let data : List Byte := rows.flatMap fun r => (c.b.tile side t.toNat).bytes.bytes (r.1 * n) n
        let items : List (Nat × List Host.Cell) := sectorCells (((pieceKeys (parts true)).zip data).map fun q => (q.1.1, q.1.2, q.2))
        let secs : List Nat := (items.filterMap fun q => q.2.head?.map Prod.fst).map sectorOf
        let open_ : Mach := m2.updBlock c.is.blk fun b => secs.foldl (fun b k => b.releaseOne m2.rmap.pkg m2.clock k) b
        open_.block? c.is.blk = some b0 →
        let mine : List Nat := (b0.sb.filter fun e => e.released && secs.contains e.sector).map fun e => e.seq
        let seen : Mach :=
          if b0.rels.any fun r => r.cells.any fun x => secs.contains (sectorOf x.1) then open_.allVisible c.is.blk
          else (mine.foldl (fun m q => m.makeVisible c.is.blk q) open_).runRels c.is.blk
        let stored : Mach := items.foldl (Mach.tstSector c.is.blk) seen
        takes (exec (.tst h t a b v) s)
          (stored.updBlock c.is.blk fun b => { b with sealed := b.sealed || items.any fun q => q.2.any fun x => stored.onDie c.b x.1 }) false []))

/-- R34, R37: MAPACK of a U version no newer than the context's MAPVER raises ACKVER to it when it is higher and takes the events it covers off the list; a newer version traps LAUNCH (0x15), sub-cause 0x03, and a register that is not U traps SHAPE. R284, R285: LAUNCH of an aligned U descriptor address with a mask of the block's channels, whose descriptor reads as a load of the thread, without poison and waiting for nothing, with what must come first performed and fewer than 4,096 grids of its context under way, releases the block's buffer, hands the descriptor's 128 bytes to the FE with the entries and operations the child waits for, seals the block and leaves an entry that gives the grid number in the pair d; a misaligned or out-of-range address, a bad mask, and a source that is not U trap. -/
def Obligations.FrontEndWords : Prop :=
  (∀ (s : State) (h : Hdr) (c : Cx) (a : BitVec 6) (k : Ctx), Runs s h c → c.Holds [a.toNat] → c.is.base.ctx? c.b.ctx = some k →
     let v : Nat := (c.lane a c.low).toNat
     (c.allU [a.toNat] = false → c.Traps (exec (.mapack h a) s) 0x03 0 0 0) ∧
     (c.allU [a.toNat] = true → k.mapver < v → c.Traps (exec (.mapack h a) s) 0x15 3 0 0) ∧
     (c.allU [a.toNat] = true → v ≤ k.mapver → c.Does (exec (.mapack h a) s) fun m => m.updCtx c.b.ctx fun x =>
       if x.ackver < v then { x with ackver := v, events := x.events.filter fun e => v < e.1 } else x)) ∧
  (∀ (s : State) (h : Hdr) (c : Cx) (d a b : BitVec 6) (x : Access × PteRef × Bool × Bool) (rest : List (Access × PteRef × Bool × Bool)) (b0 b1 : Block)
     (m1 : Mach), Runs s h c →
     c.Holds (pairRegs d ++ pairRegs a ++ [b.toNat]) →
     let addr : Nat := (c.pair a.toNat c.low).toNat
     let mask : Nat := (c.lane b c.low).toNat
     let go : Host.Outcome State Fault Refusal := exec (.launch h d a b) s
     let rel (m : Mach) : Mach := m.updBlock c.is.blk fun b => b.release m.rmap.pkg m.clock
     (c.allU (pairRegs a ++ [b.toNat]) = false → c.Traps go 0x03 0 0 0) ∧
     (c.allU (pairRegs a ++ [b.toNat]) = true →
       (2 ^ 52 ≤ addr → c.Traps go 0x07 4 addr c.ex.toNat) ∧
       (addr < 2 ^ 52 → addr % 128 ≠ 0 → c.Traps go 0x04 4 addr c.ex.toNat) ∧
       (addr < 2 ^ 52 → addr % 128 = 0 → 2 ^ min c.b.nchan 16 ≤ mask → c.Traps go 0x0D 1 0 0) ∧
       (addr < 2 ^ 52 → addr % 128 = 0 → mask < 2 ^ min c.b.nchan 16 →
         verdict (c.lanes.map fun l => Cx.checkGlob { c with is := { c.is with base := rel c.is.base } } l addr 128
           { r := true, w := false, x := false }) = .go (x :: rest) [] →
         c.s.m.settleAll c.is.blk c.is.warp c.ex = (m1, true) → m1.deviceGrids c.b.ctx < 4096 → (rel m1).block? c.is.blk = some b0 →
         let far : Bool := keyPkg x.1.key != (rel m1).rmap.pkg
         let y := if far then b0.direct x.1 else (x.1, [])
         let read : Mach := (rel m1).touchAll [x] false
         y.2 = [] → (rel m1).accInFlight b0 y.1 = false → read.poisonedAt b0 far y.1 = false → read.block? c.is.blk = some b1 →
         let r := read.acceptLaunch c.b.ctx (read.readAccess b0 far y.1) true none (read.startConds b1 mask)
         ∃ e : Warp → Entry, go = .next { c.s with
             m := (r.1.updBlock c.is.blk fun b => { b with sealed := true }).updWarp c.is.blk c.is.warp fun w => w.push (e w) } ∧
           ∀ w, c.NewEntry w.nextSeq (e w) ∧ (e w).pend = .value ∧ (e w).dests = c.wholeRegs [d.toNat, d.toNat + 1] ∧
             (e w).vals = [.u (lo32 (BitVec.ofNat 64 r.2.2)), .u (hi32 (BitVec.ofNat 64 r.2.2))])))

/-- R26, R28, R31: posting an event raises the map's version by one, puts its record first in a history of 16, gives every context the event to acknowledge, and follows with a notice; past the last version the package fails, every context is suspended and every block of theirs on the cores is stopped. Each row of R28, taken on a component that is live, completes (coreRetired, l2SliceRetired, hbmChannelFailing, hbmChannelRemap, linkLost, linkSilenceTimeout, linkHalving, planeLost, portLost, boardCapChange, contextSuspend and tokenGrant each answer the next state named): it posts its kind and takes the component out of the map, with what the row says follows; a channel's bit and its 2 GiB leave the die's entry. The model's choices: a loss the machine finds itself (silence, a second halving) carries what the free value of log entry 20 says; a suspended context's header is written as log entry 26 says; the cycle of a channel's event is log entry 79's. -/
def Obligations.MapEvents : Prop :=
  ∀ s : State,
    let v : Nat := s.m.rmap.ver
    let post (kind obj idx : Nat) (f : ResMap → ResMap) : Mach := s.m.postEvent kind obj idx f
    let fresh : Prop := ∀ e ∈ s.m.rmap.hist, e.time ≠ s.m.clock
    let gone (t : Mach) (i : Nat) (lost : List Nat) : Prop :=
      t.rmap.ver = v + 1 ∧ t.rmap.linkState i = 0 ∧ t.mgmt = s.m.mgmt ++ ((List.range 8).map fun d => (i, d, 0)) ∧ t.retain = s.m.retain ∧
        (∀ p ∈ t.net, p ∈ s.m.net ∧ ∀ h ∈ p.route, h.1 ≠ i) ∧ (∀ p ∈ s.m.net, (∀ h ∈ p.route, h.1 ≠ i) → p ∈ t.net) ∧
        (∀ x ∈ t.dir, s.m.planeMoves t x.line x.peer = true → x.reissue = none) ∧
        ∀ pa ∈ lost, t.backed pa = true → s.m.planeMoves t (pa / 1024) none = true → sectorOf (keyOf t.rmap.pkg pa) ∈ t.poison
    let posted (t : Mach) (kind obj idx : Nat) : Prop :=
      fresh → t.rmap.hist.head? = some { ver := v + 1, kind := kind, obj := obj, idx := idx, time := s.m.clock }
    (v = 2 ^ 32 - 1 → s.m.bootState ≠ 3 → ∀ kind obj idx f,
      (post kind obj idx f).bootState = 3 ∧ (post kind obj idx f).bootReason = 5 ∧ (post kind obj idx f).rmap = s.m.rmap ∧
        (∀ c ∈ (post kind obj idx f).ctxs, c.suspMap = true) ∧
        ((s.m.blocks.map fun b => b.id).Nodup → ∀ b ∈ (post kind obj idx f).blocks, b.place = .placed → (∃ c ∈ s.m.ctxs, c.id = b.ctx) → b.stopped = true)) ∧
    (0 < v → v < 2 ^ 32 - 1 →
      (∀ kind obj idx f,
        let t := post kind obj idx f
        t.rmap.ver = v + 1 ∧ t.rmap.dies = (f s.m.rmap).dies ∧ t.rmap.links = (f s.m.rmap).links ∧
          t.blocks = s.m.blocks ∧ t.grids = s.m.grids ∧ t.cores = s.m.cores ∧
          (fresh →
            t.rmap.hist = (({ ver := v + 1, kind := kind, obj := obj, idx := idx, time := s.m.clock } : MapEvent) :: (f s.m.rmap).hist).take 16 ∧
            t.ctxs = s.m.ctxs.map (fun (c : Ctx) => { c with events := c.events ++ [(v + 1, kind, s.m.clock)] }))) ∧
      (∀ d e, s.m.rmap.dies[d]? = some e → d < 8 →
        (∀ k, k < 20 → e.state = 1 ∨ e.state = 2 → e.cores.testBit k = true →
          let left := ((post 1 d k fun r => r.updDie d fun e => DieEnt.judged { e with cores := e.cores - 2 ^ k }).updCore (20 * d + k)
            fun c => { c with live := false }).retireBlocks (20 * d + k)
          exec (.coreRetired d k) s = .next { s with m := if left.dieLive d then left else left.dieLost d }) ∧
        (∀ k unread, k < 16 → e.state ≠ 0 → e.slices.testBit k = true →
          exec (.l2SliceRetired d k unread) s = .next { s with m := (((post 2 d k fun r => r.updDie d fun e => DieEnt.judged { e with slices := e.slices - 2 ^ k }).dropSlice e d k).poisonAll d 6
              (unread.filter fun pa => pa / 2 ^ 36 == d && e.homeSlice pa == some k)) }) ∧
        (∀ k, k < 32 → e.channels.testBit k = true → (∀ q ∈ s.m.chanReq, ¬(q.1 = d ∧ q.2.1 = k)) →
          exec (.hbmChannelFailing d k) s = .next { s with m := ({ s.m with chanReq := s.m.chanReq ++ [(d, k, false)] } : Mach).notice 5 0xFF (d * 256 + k) 0 })) ∧
      (∀ d k unread, (d, k, true) ∈ s.m.chanReq → ∃ t, exec (.hbmChannelRemap d k unread) s = .next { s with m := t } ∧ t.rmap.ver = v + 1 ∧ posted t 3 d k ∧
        (∀ e, s.m.rmap.dies[d]? = some e → e.channels.testBit k = true → k < 32 → ∃ e', t.rmap.dies[d]? = some e' ∧
          e' = DieEnt.judged { e with channels := e.channels - 2 ^ k } ∧ e'.capacity = e.capacity - 2 ^ 31) ∧
        (∀ q ∈ t.chanReq, ¬(q.1 = d ∧ q.2.1 = k)) ∧ ∀ pa ∈ unread, pa / 2 ^ 36 = d → sectorOf (keyOf t.rmap.pkg pa) ∈ t.poison) ∧
      (∀ i, s.m.rmap.linkState i ≠ 0 →
        (∀ lost acks, ∃ t, exec (.linkLost ⟨i, lost, acks⟩) s = .next { s with m := t } ∧ gone t i lost ∧ posted t 5 i 0) ∧
        (∀ k q, s.m.links[i]? = some k → k.quiet = some q → s.m.owes i = true → q + 1000 ≤ s.m.clock → ∃ t, exec (.linkSilenceTimeout i) s = .next { s with m := t } ∧ gone t i (Config.lostOn i s.m.clock).1 ∧ posted t 5 i 0) ∧
        (∀ k d, s.m.links[i]? = some k → d < 8 → 64 < (k.reps.filter fun r => r.1 == d && decide (s.m.clock < r.2 + 1000000)).length →
          (s.m.rmap.linkState i = 1 → ∃ t, exec (.linkHalving i) s = .next { s with m := t } ∧ t.rmap.ver = v + 1 ∧ posted t 4 i 0 ∧
            t.rmap.links[i]? = s.m.rmap.links[i]?.map (fun (e : LinkEnt) => { e with state := 2, width := 32 })) ∧
          (s.m.rmap.linkState i ≠ 1 → ∃ t, exec (.linkHalving i) s = .next { s with m := t } ∧ gone t i (Config.lostOn i s.m.clock).1 ∧ posted t 5 i 0))) ∧
      (∀ p lost acks, p < 2 → (s.m.rmap.planes.getD p (0, 0)).1 ≠ 0 → ∃ t, exec (.planeLost ⟨p, lost, acks⟩) s = .next { s with m := t } ∧ t.rmap.ver = v + 1 ∧ posted t 6 p 0 ∧
        t.rmap.planes.getD p (0, 0) = (0, 0) ∧ t.mgmt = s.m.mgmt ++ ((List.range 8).map fun d => (26 + p, d, 0)) ∧ (∀ q ∈ t.net, ∀ h ∈ q.route, linkPlane h.1 ≠ some p) ∧
        ∀ k, k < 256 → (t.slot p k).state ≠ 1) ∧
      (∀ p e, s.m.rmap.ports[p]? = some e → e.state = 1 → ∃ t, exec (.portLost p) s = .next { s with m := t } ∧ t.rmap.ver = v + 1 ∧ posted t 7 p 0 ∧
        t.rmap.ports = modAt s.m.rmap.ports p (fun (q : PortEnt) => { q with state := 2 }) ∧ (∀ q ∈ t.net, q ∈ s.m.net ∧ q.port ≠ some p) ∧
        t.acks = s.m.acks ++ (s.m.retain.filter fun q => !t.reachable q.strm.die q.strm.dpkg q.strm.ddie).map fun q => q.unreachable) ∧
      (∀ w, let l := min (min s.m.hostCap w) 2400
        (l = s.m.rmap.limit → exec (.boardCapChange w) s = .next { s with m := { s.m with boardCap := w } }) ∧
        (l ≠ s.m.rmap.limit → ∃ t, exec (.boardCapChange w) s = .next { s with m := t } ∧ t.rmap.ver = v + 1 ∧ t.rmap.limit = l ∧ t.rmap.rate = s.m.rmap.ratemax * l / 2400 ∧
          (fresh → t.rmap.hist.head? = some { ver := v + 1, kind := if l < s.m.rmap.limit then 8 else 9, obj := 8, idx := 0, time := s.m.clock }))) ∧
      (∀ id c, s.m.ctx? id = some c → c.overdue s.m.clock = true → exec (.contextSuspend id) s = .next { s with m := (((((s.m.updCtx id fun c => { c with suspMap := true }).freezeCtx id).writeHeader id).log (feLog 0x16 0 (some id) none 0 0) none).notice 3 id
          c.mapver c.ackver) }) ∧
      (∀ t, s.m.clock % 256 = 0 → s.m.period < s.m.clock / 256 →
        let l : Nat := s.m.rmap.templim
        let rate : Nat := if l + 10 ≤ t ∨ (s.m.hot = true ∧ l ≤ t) then 0 else if t ≤ l then s.m.rmap.rate else s.m.rmap.rate * (l + 10 - t) / 10
        let live : Nat := (s.m.cores.filter fun k => k.live).length
        ∃ hot, exec (.tokenGrant t) s = .next { s with m := { s.m with
          temp := t, hot := hot, rateNow := rate, period := s.m.clock / 256,
          cores := s.m.cores.map fun k => if k.live then { k with grains := min 4096 (k.grains + rate * 256 / max 1 live) } else k } }))

/-- R272, R275, R276, R278, R194, R286: descriptorValidation, blockPlacement, steal and gridComplete complete: the FE validates the oldest grid, which fails with its sub-cause or gets its chunks dealt over its dies; a distributor places the next block of the first grid it serves; a die without chunks takes half of those of the die that has most; and a grid whose work is over completes, with its timeline number and its command. -/
def Obligations.GridEvents : Prop :=
  ∀ (s : State) (g : Grid),
    ((s.m.grids.find? fun g => !g.valid && g.failed.isNone && !g.killed && !g.complete) = some g →
      (∀ sub, s.m.launchFault g = some sub →
        exec .descriptorValidation s = .next { s with m := (s.m.failGrid g.num sub).updGrid g.num fun g => { g with valid := true } }) ∧
      (s.m.launchFault g = none →
        let dies := s.m.liveDies g.desc.diemask
        let n : Nat := g.desc.nx * g.desc.ny * g.desc.nz
        exec .descriptorValidation s = .next { s with m := (s.m.updGrid g.num fun g =>
          { g with valid := true, dies := dies, chunks := dealChunks n dies, left := n, total := n }) } ∧
        (dies ≠ [] → ((dealChunks n dies).flatMap fun c => c.2) = List.range n))) ∧
    (∀ die rest lin slot spot more, s.m.restoreReady die = [] → s.m.servedGrids die = g :: rest → s.m.nextOf g die = some (.fresh lin) →
      g.desc.coop = false → s.m.freeSlot g.ctx = some slot → (s.m.spots die g.ctx g.desc.paired g.desc.asks fun _ => false) = spot :: more →
      exec (.blockPlacement die) s = .next { s with m := (((s.m.settleBlock g lin die slot 0 spot).updGrid g.num fun g =>
        { g with chunks := (g.chunks.map fun c => if c.1 = die ∧ c.2.head? = some lin then (c.1, c.2.drop 1) else c).filter fun c => !c.2.isEmpty }).swapIn
          g.desc.priority spot s.m) }) ∧
    (∀ n die u r, s.m.grid? n = some g → s.m.mayPlace g = true → s.m.dieLive die = true → s.m.stealFrom g die = some (u, r) →
      (∀ d, d < 8 → g.chunksOn d ≤ r) ∧ g.chunksOn u = r ∧ 0 < r ∧
      exec (.steal die n) s = .next { s with m := (s.m.updGrid n fun g =>
        if 2 ≤ r then { g with chunks := moveLast u die (r / 2) g.chunks }
        else { g with refused := (die, u, r) :: g.refused.filter fun q => !(q.1 == die && q.2.1 == u) }) }) ∧
    (∀ n, s.m.grid? n = some g → s.m.gridDone g = true →
      let ended : Mach := (s.m.updGrid n fun g => { g with complete := true, chunks := [] }).tlFinish g.ctx g.desc.timeline g.tlNum
      let left : Mach := { ended with blocks := ended.blocks.filter fun b => b.grid != n || !b.quiet }
      (g.cmd = none → exec (.gridComplete n) s = .next { s with m := left }) ∧
      (∀ p c, g.cmd = some p → (left.cmds.find? fun c => c.q == p.1 && c.seq == p.2) = some c →
        exec (.gridComplete n) s = .next { s with m := left.finishCmd c g.status.2 g.status.1 g.num g.tlNum }))

/-- R50, R53, R281, R282, R300 to R303, R265: the scheduler's and the save engine's events complete (warpExchange, pathAged, pollWatchWake, pollWatchExpiry, bankSwap, swapComplete, contextSave and blockRestore): a pending warp that has waited 512 cycles joins the active set; paths that become aged lose a yield mark and move to the front; a watched path is ready again; a core's banks change places for 128 cycles, and again at their end where a block above the active context's waits in the Anteroom; a block of a suspended context is saved; and a saved block takes its place again. -/
def Obligations.SchedulerEvents : Prop :=
  ∀ s : State,
    (∀ c p, s.m.exchangeWarp c = some p →
      let k := (s.m.core c).actSet
      (∃ b w, (b, w) ∈ s.m.coreWarps c ∧ (b.id, w.num) = p ∧ 512 ≤ w.waitCnt ∧ p ∉ k) ∧
      exec (.warpExchange c) s = .next { s with m := ((s.m.updCore c fun x => { x with actSet := k.drop 1 ++ [p], exch := some s.m.clock }).updWarp p.1 p.2
        fun w => { w with waitCnt := 0 }) }) ∧
    (∀ id n, ∃ f : Warp → Warp, exec (.pathAged id n) s = .next { s with m := s.m.updWarp id n f } ∧ ∀ w,
      (f w).paths.length = w.paths.length ∧ (∀ p ∈ (f w).paths, 256 ≤ p.age → p.aged = true) ∧ (f w).lanes = w.lanes ∧
      ∀ p ∈ w.paths, 256 ≤ p.age → p.aged = false → { p with aged := true, yield := false } ∈ (f w).paths.take (w.paths.filter fun q => !q.aged && decide (256 ≤ q.age)).length) ∧
    (∀ id n l, ∃ f : Warp → Warp, exec (.pollWatchWake id n l) s = .next { s with m := s.m.updWarp id n f } ∧ ∀ w t k,
      (w.lane l).run = .watching t k true → l < w.lanes.length → (w.pathOf l).getLsbD l = true →
        ((f w).lane l).run = .ready ∧ ((f w).lane l).pc = (w.lane l).pc ∧ (f w).paths = w.paths) ∧
    (∀ id n l, ∃ f : Warp → Warp, exec (.pollWatchExpiry id n l) s = .next { s with m := s.m.updWarp id n f } ∧ ∀ w t k x,
      (w.lane l).run = .watching t k x → t ≤ s.m.clock → l < w.lanes.length → (w.pathOf l).getLsbD l = true →
        ((f w).lane l).run = .ready ∧ ((f w).lane l).pc = (w.lane l).pc ∧ (f w).paths = w.paths) ∧
    (∀ c, s.m.swapDue unitGate c = true → exec (.bankSwap c) s = .next { s with m := s.m.swap c }) ∧
    (∀ c t, (s.m.core c).swapEnd = some t → t ≤ s.m.clock →
      let k := s.m.core c
      let done_ : Mach := s.m.updCore c fun k => { k with swapEnd := none, again := false }
      let higher : Prop := k.again = true ∧ s.m.inBank c k.active ≠ [] ∧ s.m.bankPriority c k.active < s.m.bankPriority c (1 - k.active)
      (¬higher → exec (.swapComplete c) s = .next { s with m := done_ }) ∧ (higher → exec (.swapComplete c) s = .next { s with m := done_.swap c })) ∧
    (∀ id b, s.m.block? id = some b → b.place = .placed → b.stopped = true ∨ (s.m.ctx? b.ctx).any Ctx.suspended = true →
      ((s.m.freeze id).mxQuiet b = false → exec (.contextSave id) s = .next { s with m := s.m.freeze id }) ∧
      (∀ b2, (s.m.freeze id).mxQuiet b = true → ((s.m.freeze id).quiesce id).block? id = some b2 → b2.place = .placed → b2.copies = [] →
        ∀ h r, ((s.m.freeze id).quiesce id).headerOpen b2.die b2.ctx = (h, true) →
          h.recordOpen b2 { r := false, w := true, x := false } = (r, true) → exec (.contextSave id) s = .next { s with m := r.stow id })) ∧
    (∀ id b spot more x r, s.m.block? id = some b → s.m.restorable b = true → s.m.restoreSpots b = spot :: more →
      (s.m.reserve b spot).block? id = some x → (s.m.reserve b spot).recordOpen x { r := true, w := false, x := false } = (r, true) →
      ∀ y, (r.unstow x).block? id = some y →
      exec (.blockRestore id) s = .next { s with m := (r.unstow x).swapIn (s.m.blockPriority b) (y.sides.map fun s => (s.core, s.bank, s.tagFirst)) s.m })

/-- R105, R166, R181: longResultArrival, entryVisibleAtDieScope and copyComplete complete: a long result arrives in its entry; a released entry of the buffer becomes visible, and stores that waited for it follow; the copies of a tag write their bytes and, when all are written, make the tag ready. R91 to R93, R293, R294: cellarStart, cellarSpillComplete, cellarFillComplete and subwarpReplay complete: the Cellar of a core starts when its conditions have held for 64 cycles, and spills the frame R91 names (among warps that blocked in one cycle the model's choice, log entry 89), or takes the next CLAIMDL trap that is due (log entry 90); a spilled frame's lines are free once its slots are written over the block's older stores to them (R82), a frame no longer spillable staying where it is, and a filled frame is resident again with its lanes ready; a parked sub-warp whose records are answered runs again, and lanes whose record was refused trap PROT, sub-cause 0x08. -/
def Obligations.WarpEvents : Prop :=
  (∀ (s : State) (id : Nat) (b : Block), s.m.block? id = some b →
     (∀ n w seq e, s.m.warp? id n = some w → (w.rb.find? fun e => e.seq == seq && !e.done) = some e →
       (e.pend = .value → exec (.longResultArrival id n seq) s = .next { s with m := s.m.fillWith id n seq fun e => e }) ∧
       (∀ mask, e.pend = .tfirst mask → exec (.longResultArrival id n seq) s = .next { s with m := s.m.performSeq id n seq }) ∧
       (∀ what, e.pend = .sample what → what ≠ 0x019 →
         exec (.longResultArrival id n seq) s = .next { s with m := s.m.fillWith id n seq fun e => { e with vals := (s.m.sampleVal b w what).map RVal.u } }) ∧
       (∀ size dst kind gath acq, e.pend = .load size dst kind gath acq → exec (.longResultArrival id n seq) s = .next { s with m := s.m.performSeq id n seq }) ∧
       (∀ op accs, e.pend = .atom op accs → exec (.longResultArrival id n seq) s = .next { s with m := s.m.performSeq id n seq })) ∧
     (∀ seq e, (b.sb.find? fun e => e.seq == seq) = some e → e.released = true → e.tst = false → s.m.onDie b (e.sector * 128) = true →
       (∀ x ∈ b.sb, x.sector = e.sector → e.seq ≤ x.seq) → (∀ r ∈ b.rels, r.seq < e.seq → ∀ c ∈ r.cells, sectorOf c.1 ≠ e.sector) →
       exec (.entryVisibleAtDieScope id seq) s = .next { s with m := ((s.m.updBlock id fun b => Block.fenceWake { b with sb := b.sb.filter fun x => x.seq != seq }).landFor b e.sector e.va e.cells).runRels id }) ∧
     (∀ tag, b.place = .placed → (∃ q ∈ b.copies, q.tag = tag) → s.m.copyReady b tag = true →
       let moved : Mach × List Copy := Mach.copyMany id (b.copies.filter fun q => q.tag == tag) (s.m.allVisible id)
       let left : Mach := moved.1.updBlock id fun b =>
         { b with copies := (b.copies.filter fun q => q.tag != tag) ++ moved.2, ready := if moved.2.isEmpty then b.ready ||| bit tag else b.ready }
       exec (.copyComplete id tag) s = .next { s with m := if moved.2.isEmpty then (left.tagWake id).blockExit id else left })) ∧
  (∀ s : State,
     (∀ c t, let i : Nat := (s.m.core c).active
       ((s.m.core c).bank i).claims = [] → ((s.m.core c).bank i).cellar = false → ((s.m.core c).bank i).since = some t → t + 64 ≤ s.m.clock →
       let m1 : Mach := s.m.updBank c i fun k => { k with cellar := true, since := none }
       ∀ q rest f, ((m1.core c).bank i).queue = q :: rest → m1.freeLines c i < q.lines → m1.spillChoice c = some f →
         exec (.cellarStart c) s = .next { s with m := m1.updBank c i fun k => { k with spill := some f } }) ∧
     (∀ c t q rest, let i : Nat := (s.m.core c).active
       ((s.m.core c).bank i).claims = (t, q) :: rest → t ≤ s.m.clock →
       let m1 : Mach := (s.m.updBank c i fun k => { k with claims := rest }).coreTrap c i q 0x0A 0
       exec (.cellarStart c) s = .next { s with m := if rest.isEmpty then m1.grants c i else m1 }) ∧
     (∀ c id n fid b w f, let i : Nat := (s.m.core c).active
       ((s.m.core c).bank i).spill = some (id, n, fid) → s.m.block? id = some b → s.m.warp? id n = some w → w.frame? fid = some f →
       (w.spillable f = false →
         exec (.cellarSpillComplete c) s = .next { s with m := (s.m.updBank c i fun k => { k with spill := none }).cellarNext c i }) ∧
       (∀ r ptes, w.spillable f = true → s.m.slotBusy b (s.m.slotKeys b w f) = false → s.m.slotsOpen b w f { r := false, w := true, x := false } = (r, some ptes) →
         let slots := r.slotKeys b w f
         let written : Mach := ((ptes.foldl (fun m p => m.touch p true) r).updBlock id fun b => b.dropUnder slots).slotsWritten b.ctx slots
         exec (.cellarSpillComplete c) s = .next { s with m := (((written.updWarp id n fun x =>
           x.updFrame fid fun f => { f with resident := false, slots := r.slotVas b w f, clob := 0 }).updBank c i fun k => { k with spill := none }).grants c i).cellarNext c i })) ∧
     (∀ c q rest b w f r ptes, let i : Nat := (s.m.core c).active
       let id : Nat := q.blk
       let n : Nat := q.warp
       let fid : Nat := q.fid
       ((s.m.core c).bank i).fills = q :: rest → s.m.block? id = some b → s.m.warp? id n = some w → w.frame? fid = some f →
       s.m.slotsOpen b w f { r := true, w := false, x := false } = (r, some ptes) → ∃ g : Warp → Warp,
         exec (.cellarFillComplete c) s = .next { s with m := ((((ptes.foldl (fun m p => m.touch p false) r).updWarp id n g).updBank c i fun k =>
           { k with fills := rest }).drew b.ctx (if f.clob = 0 then 0 else 64 * f.size)) } ∧
         (g w).frame? fid = some (f.filled b.width (s.m.drawAt b.ctx).1 (s.m.drawAt b.ctx).2) ∧
         ∀ x, (∀ y ∈ (g x).frames, y.id = fid → y.resident = true) ∧ (∀ l ∈ (g x).lanes, l.fid = fid → l.run ≠ .fill)) ∧
     (∀ id n l b w recs, s.m.block? id = some b → s.m.warp? id n = some w → b.place = .placed → (w.lane l).run = .parked .replay recs →
       (∀ q ∈ recs, (s.m.answerOf q.die q.seq).isSome = true) →
       (∀ q ∈ recs, s.m.answerOf q.die q.seq ≠ some true) →
       exec (.subwarpReplay id n l) s = .next { s with m := (s.m.updLanes b.id w.num (w.pathOf l) fun k => { k with run := .ready }).forgetFaults }) ∧
     (∀ id n l b w recs, s.m.block? id = some b → s.m.warp? id n = some w → b.place = .placed → (w.lane l).run = .parked .replay recs →
       l < 64 → (w.pathOf l).getLsbD l = true →
       (∀ q ∈ recs, (s.m.answerOf q.die q.seq).isSome = true) → (∃ q ∈ recs, q.lane = l ∧ s.m.answerOf q.die q.seq = some true) →
       ∃ (m1 : Mach) (mask : Mask) (t : Trap), mask.getLsbD l = true ∧ t.cause = 0x06 ∧ t.sub = 8 ∧ t.mask = mask ∧ (∃ q ∈ recs, t.addr = q.va) ∧
         exec (.subwarpReplay id n l) s = .next { s with m := (m1.trapEntry b.id w.num mask t).forgetFaults }))

/-- R195, R230, R269, R312, R313, R314, R315, R321: a sector that fails its code is poisoned and logged as POISON, sub-cause 0x06; a block that consumes an error rolls back, or escalates when it is sealed or has been rolled back three times; a snoop that crosses a write-back leaves the home's bytes (the crossing as one event is the model's, log entry 20); and the host's writes reach backed memory, its reads changing nothing, and an address that is not backed being logged. The events memoryEccError, softErrorDetected, snoopWritebackInFlight and hostMemAccess each complete. -/
def Obligations.ErrorEvents : Prop :=
  ∀ s : State,
    (∀ pa d, s.m.rmap.dies[pa / 2 ^ 36]? = some d → pa < 2 ^ 39 → pa % 2 ^ 36 < d.capacity → ∃ t, exec (.memoryEccError pa) s = .next { s with m := t } ∧
      sectorOf (keyOf s.m.rmap.pkg pa) ∈ t.poison ∧ (∀ x ∈ s.m.poison, x ∈ t.poison) ∧ t.mem = s.m.mem ∧ t.rmap = s.m.rmap ∧
      t = Mach.log ((s.m.addPoison (sectorOf (keyOf s.m.rmap.pkg pa))).observe (sectorOf (keyOf s.m.rmap.pkg pa)))
        { feLog 0x0F 6 none none 0 0 with die := pa / 2 ^ 36, pa := some (pa / 128 * 128) } none) ∧
    (∀ id b n lanes, s.m.block? id = some b → b.place = .placed →
      exec (.softErrorDetected id n 4 lanes) s = .next { s with m := s.m.consume id (some n) 0x10 4 none none none 0 } ∧
      (b.checked = true → ∀ k ∈ [1, 2], exec (.softErrorDetected id n k lanes) s = .next { s with m := s.m.consume id (some n) 0x10 k none none none lanes }) ∧
      (b.sealed = false → b.rolls < 3 → ∀ cause sub va pa pc dt, s.m.consume id (some n) cause sub va pa pc dt =
        s.m.rollback b (Mach.blockLog b cause sub 2 (some n) va pa pc dt)) ∧
      (b.sealed = false → 3 ≤ b.rolls → ∀ cause sub va pa pc dt, s.m.consume id (some n) cause sub va pa pc dt =
        s.m.escalate b (Mach.blockLog b 0x10 6 2 (some n) va pa pc (cause + 256 * sub))) ∧
      (b.sealed = true → ∀ cause sub va pa pc dt, s.m.consume id (some n) cause sub va pa pc dt =
        s.m.escalate b (Mach.blockLog b cause sub 2 (some n) va pa pc dt))) ∧
    (∀ line, ∃ t, exec (.snoopWritebackInFlight line) s = .next { s with m := t } ∧ t.mem = s.m.mem ∧ t.poison = s.m.poison ∧ t.cores = s.m.cores ∧
      ∀ b ∈ t.blocks, ∀ p ∈ b.maps, ∀ x ∈ p.undo, sectorOf x.1 / 8 ≠ sectorOf (keyOf s.m.rmap.pkg (line * 1024)) / 8) ∧
    (∀ pa len bs, len = 0 ∨ hostBase ≤ pa ∨ (s.m.backed pa = true ∧ s.m.backed (pa + len - 1) = true) → exec (.hostMemAccess false pa len bs) s = .next s) ∧
    (∀ w pa len bs, 0 < len → pa < hostBase → s.m.backed pa = false ∨ s.m.backed (pa + len - 1) = false → ∃ ls,
      exec (.hostMemAccess w pa len bs) s = .next { s with m := { s.m with logs := ls } } ∧
        ({ s.m with logs := ls } : Mach) = s.m.log { feLog 0x06 4 none none 0 0 with die := if pa < 2 ^ 39 then pa / 2 ^ 36 else 8, pa := some pa } none) ∧
    (∀ pa len bs, 0 < len → bs.length = len → s.m.backed pa = true → s.m.backed (pa + len - 1) = true → s.m.poison = [] → s.m.mem.wf = true → ∃ t,
      exec (.hostMemAccess true pa len bs) s = .next { s with m := t } ∧ t.rmap = s.m.rmap ∧ t.poison = [] ∧
        (∀ k, k < len → t.memByte (s.m.memKey pa + k) = bs.getD k 0) ∧
        ∀ a, keyCrypt a = keyCrypt (s.m.memKey pa) → a < s.m.memKey pa ∨ s.m.memKey pa + len ≤ a → t.memByte a = s.m.memByte a)

/-- R247, R262, R263, R264, R267, R268: mxWordEnd, miterPhaseStart and miterIterationEnd complete: an array word that has run its cycles writes its tiles, fills its entry, with its flags, if it has one and frees its arrays; a step of an iteration takes its grains when its cores hold them, on both cores in pair mode; an iteration that is not finite, diverges or rises too often fails with reasons 3, 4 and 5 and MDIV, sub-causes 0x01, 0x02 and 0x03, its tiles as they were; one that is accepted writes its tile, and ends with reason 1 when it has converged and reason 2 at its cap, or goes on. A pair-mode MITER's registers are its leader's (log entry 86), and RISE and FLAGS of a failure's word, 0, are log entry 33's. -/
def Obligations.ArrayEvents : Prop :=
  ∀ (s : State) (c : Nat) (r : MxRun) (b : Block), (s.m.core c).mx = some r → s.m.block? r.blk = some b → b.place = .placed → r.follower = false →
    (∀ word rho flags flt, (∀ x ∈ b.sides, x.eng.heldClr = false) → r.home < b.sides.length → ∃ b', (s.m.miterOver r word rho flags flt).block? r.blk = some b' ∧
      (b'.side r.home).eng.mitstat = word ∧ (b'.side r.home).eng.mitres = rho ∧ (b'.side r.home).eng.owner = none ∧
      (b'.sides.map fun x => (x.tiles, x.tctl)) = b.sides.map fun x => (x.tiles, x.tctl)) ∧
    (r.endAt ≤ s.m.clock → r.miter = false → r.charged b = true →
      let m1 : Mach := (s.m.updBlock r.blk fun b => b.tileWrites r.writes).freeMx r
      (r.seq = none → exec (.mxWordEnd c) s = .next { s with m := m1 }) ∧ (∀ n, r.seq = some n → exec (.mxWordEnd c) s = .next { s with m := (m1.fillWith r.blk r.warp n fun e => e).mxFlags r r.flags })) ∧
    (∀ i, r.endAt ≤ s.m.clock → r.iter = some i →
      let b1 : Block := b.atStart r.side i
      let steps := i.op.steps b1 r.side
      let ch := i.op.chargeAt b1 r.side 0 i.step
      let other : Nat := (b1.side 1).core
      let held : Prop := ch.1 ≤ (s.m.core c).grains ∧ (i.pair = true → ch.2 ≤ (s.m.core other).grains)
      let phase : Nat := ((steps[i.step]?).map fun p => p.2).getD 0
      (i.step < steps.length → held →
        let m1 : Mach := s.m.updCore c fun k => { k with grains := k.grains - ch.1 }
        let m2 : Mach := if i.pair then m1.updCore other fun k => { k with grains := k.grains - ch.2 } else m1
        let m3 : Mach := m2.updIter c (s.m.clock + i.op.stepTime b1 r.side i.step) fun i => { i with step := i.step + 1 }
        exec (.miterPhaseStart c) s = .next { s with m := if i.mode = 3 then m3 else m3.updBlock r.blk fun b => b.updEng r.home fun e => e.setPhase phase }) ∧
      (i.step < steps.length → ¬held → exec (.miterPhaseStart c) s = .next s) ∧
      (i.mode ≠ 3 → 0 < i.step → r.charged b = true →
        let f : Fmt := (tileFmt (tFmt i.tctl)).getD f32
        let x := b1.mat r.side i.td i.pair i.tctl i.tctlF
        let a := b1.mat r.side i.ta i.pair i.tctl i.tctlF
        let y := miterStep i.mode f (mmaG (tFmt i.tctl)) (tCols i.tctl) i.n x a i.coef
        let res := residual y.1 x
        let rho := f64.value res.1
        let bits : BitVec 64 := BitVec.ofNat 64 res.1
        let rise : Nat := if 0 < i.k ∧ above rho (f64.value (b1.side r.home).eng.mitres.toNat) = true then i.rise + 1 else 0
        let flags : Word := i.flags ||| y.2 ||| res.2
        let finite : Prop := y.1.finite = true ∧ ∃ n e m, rho = .fin n e m
        let exponent : Nat := i.div.toNat / 256 % 256
        let diverges : Prop := exponent ≠ 255 ∧ above rho (.fin false 1 ((exponent : Int) - 127)) = true
        let rises : Prop := i.div.toNat % 256 ≠ 0 ∧ i.div.toNat % 256 ≤ rise
        let fails (reason sub : Nat) : Prop :=
          let word := mitWord 0 0 0 5 reason i.k
          let fault : Mask → Option CFault := fun ex => some { lanes := ex, cause := 0x09, sub := sub, va := none, pa := none, detail := word.toNat }
          exec (.miterIterationEnd c) s = .next { s with m := s.m.miterOver r word bits 0 fault }
        let next : Mach := s.m.miterAccept c r i (y.1.bits f) bits rise flags
        let word (reason : Nat) : Word := mitWord 0 flags.toNat rise 0 reason (i.k + 1)
        (¬finite → fails 3 1) ∧ (finite → diverges → fails 4 2) ∧ (finite → ¬diverges → rises → fails 5 3) ∧
        (finite → ¬diverges → ¬rises →
          (above rho (f32.value i.tol.toNat) = false → exec (.miterIterationEnd c) s = .next { s with m := next.miterOver r (word 1) bits flags fun _ => none }) ∧
          (above rho (f32.value i.tol.toNat) = true → i.cap ≤ i.k + 1 →
            exec (.miterIterationEnd c) s = .next { s with m := next.miterOver r (word 2) bits flags fun ex => capFault i.div ex (word 2) }) ∧
          (above rho (f32.value i.tol.toNat) = true → i.k + 1 < i.cap → exec (.miterIterationEnd c) s = .next { s with m := next }))))

/-- R204 to R206, R213 to R216, R232, R446: packetSend, mergeHoldExpiry, ch0RoomEnqueue, escapementPacketArrival, streamAck, startRetry, escapementContextFree and retentionResend complete: the head of a channel goes out, once what a bulk copy of its block must read is visible (R192), as a packet that stays in the retention buffer until acknowledged; a hold of 32 cycles ends; a packet that the limits of its links let arrive and that is next in its stream is applied and acknowledged, and a duplicate is acknowledged again; an acknowledgement moves its stream's acknowledged number on and drops what it covers; a refused START and an unacknowledged packet go out again over a live route; and an idle stream context is freed. -/
def Obligations.ChannelEvents : Prop :=
  ∀ s : State,
    (∀ id b ch x dest i op len ptes latch, let m0 : Mach := s.m.readyHead id ch
      m0.block? id = some b → m0.sendStep b ch = .packet x dest i op len ptes latch →
      m0.reachable b.die dest.1 dest.2 = true → ∃ (t : Mach) (p : Packet), exec (.packetSend id ch) s = .next { s with m := t } ∧
        t.net = m0.net ++ [p] ∧ t.retain = m0.retain ++ [p] ∧ p.op = op ∧ p.id = m0.nextPkt ∧ p.blk = id ∧ p.epoch = b.epoch ∧ p.first = x.first ∧
        m0.routeFor m0.nextPkt b.die dest.1 dest.2 = some (p.route, p.port) ∧
        p.strm = { die := b.die, core := (b.side 0).core, slot := (b.side 0).slot, ch := ch, dpkg := dest.1, ddie := dest.2 } ∧
        t.nextPkt = m0.nextPkt + 1 ∧ p.sentAt = m0.clock) ∧
    (∀ id ch, exec (.mergeHoldExpiry id ch) s = .next { s with m := (s.m.updBlock id fun b => b.updChan ch fun c =>
      { c with queue := c.queue.map fun x => match x.hold with | some t => if t ≤ s.m.clock then { x with hold := none } else x | none => x }) }) ∧
    (∀ id, exec (.ch0RoomEnqueue id) s = .next { s with m := (s.m.updBlock id fun b =>
      if b.place == .saved || b.place == .restoring then b else b.ch0Flush s.m.rmap.pkg s.m.clock b.sb.length) }) ∧
    (∀ id p e, s.m.netAt id = some p → s.m.esc = [e] → e.strm = p.strm → e.epoch = p.epoch → e.mark = p.mark → e.began = true → e.waiting = [] →
      let taken : Mach := Mach.crossed { s.m with net := dropPkt id s.m.net } 3 p.op.flits p.route
      (1 ≤ (e.next + 65536 - p.seq) % 65536 → (e.next + 65536 - p.seq) % 65536 ≤ 256 → p.seq < 65536 → e.next < 65536 → s.m.lostAcks = [] →
        exec (.escapementPacketArrival id) s = .next { s with m := { taken with acks := s.m.acks ++ [.upto p.blk p.strm p.mark e.next none] } }) ∧
      (p.seq = e.next → p.tags = [] →
        let nx := (e.next + 1) % 65536
        let m1 : Mach := { taken with esc := [{ e with next := nx, waiting := [], idleAt := s.m.clock }] }
        exec (.escapementPacketArrival id) s = .next { s with m := { (m1.applyPacket p nx).1 with acks := (m1.applyPacket p nx).1.acks ++ [(m1.applyPacket p nx).2] } })) ∧
    (∀ i blk strm mark n b d k, s.m.acks[i]? = some (.upto blk strm mark n none) → s.m.ackReady i = true → s.m.block? blk = some b → b.place = .placed → b.stopped = false →
      s.m.ackMove blk strm mark n = some (k, d, n) → ∃ t, exec (.streamAck i) s = .next { s with m := t } ∧ t.acks = s.m.acks.eraseIdx i ∧
        (∀ p ∈ t.retain, p ∈ s.m.retain ∧ ¬(p.blk = blk ∧ p.strm = strm ∧ p.mark = mark ∧ seqBelow d n p.seq = true ∧ p.isAtom = false)) ∧
        (∀ p ∈ s.m.retain, p.blk ≠ blk ∨ p.strm ≠ strm → p ∈ t.retain) ∧ t.net = s.m.net ∧ t.mem = s.m.mem ∧
        ∃ b2 d2, t.block? blk = some b2 ∧ (b2.chan strm.ch).dests[k]? = some d2 ∧ d2.ack = n ∧ d2.retryAt = none) ∧
    (∀ id ch b, s.m.block? id = some b → (∀ p ∈ s.m.retain, s.m.reachable p.strm.die p.strm.dpkg p.strm.ddie = true) → ∃ t, exec (.startRetry id ch) s = .next { s with m := t } ∧ t.retain = s.m.retain ∧ t.acks = s.m.acks ∧
      (∀ p ∈ s.m.retain, p.blk = id → p.strm.ch = ch → p.start = true →
        (∃ d ∈ (b.chan ch).dests, d.valid = true ∧ (∃ k, d.retryAt = some k ∧ k ≤ s.m.clock) ∧ d.pkg = p.strm.dpkg ∧ d.die = p.strm.ddie ∧ d.mark = p.mark) →
        ∃ r, s.m.routeFor (p.id + s.m.clock) p.strm.die p.strm.dpkg p.strm.ddie = some r ∧ { p with route := r.1, port := r.2 } ∈ t.net) ∧
      ∀ p ∈ s.m.net, p ∈ t.net) ∧
    (∀ i e, s.m.esc[i]? = some e → e.waiting = [] →
      (e.idleAt + 65536 ≤ s.m.clock → exec (.escapementContextFree i) s = .next { s with m := { s.m with esc := s.m.esc.eraseIdx i } }) ∧
      (s.m.clock < e.idleAt + 65536 → exec (.escapementContextFree i) s = .next s)) ∧
    (∀ id p, (s.m.retain.find? fun p => p.id == id && decide (p.sentAt + 100000 ≤ s.m.clock)) = some p →
      ∀ r, s.m.routeFor (p.id + s.m.clock) p.strm.die p.strm.dpkg p.strm.ddie = some r →
      exec (.retentionResend id) s = .next { s with m := { s.m with
        net := s.m.net ++ [{ p with route := r.1, port := r.2 }], retain := modWhere s.m.retain (fun q => q.id == id) (fun (q : Packet) => { q with sentAt := s.m.clock }) } })

/-- R225, R231, R233 to R238: a replay is counted on its link, and the data of a flit that failed eight times in a row in its direction is poisoned; a suspect line is poisoned after 10,000 cycles (log entry 57); buffer limits follow the traffic within their sum (log entry 27); a LINKLOST puts every pair of the dies it reaches in its handshake, which goes from HOLD to EXCHANGE, with the last DELIVERED through REPLAY, in which retained packets go out again from the number reported, to SYNCDONE and back to NORMAL, or ends with error responses for its retained packets when EXCHANGE lasts 100,000 cycles (log entry 60: REPLAY is one step); and a slot counts its contributions, answers them all when it completes, and is free 1,048,576 cycles later. The events flitReplayRequest, suspectAckTimeout, coherenceReissueTimeout, managementResendTimeout, bufferLimitRecompute, bufferLimitAnnounce, linklost, routesRecomputed, delivered, exchangeTimeout, syncdone, slotContribution, slotDeadline and slotFree each complete. -/
def Obligations.FabricEvents : Prop :=
  ∀ s : State,
    (∀ i e k n toB, i < 26 → s.m.rmap.links[i]? = some e → e.state ≠ 0 → s.m.links[i]? = some k →
      let reps := (n, s.m.clock) :: k.reps.filter (fun r => decide (s.m.clock < r.2 + 1000000))
      let counted (t : Mach) : Prop := t.rmap.links[i]? = some { e with replays := min (e.replays + 1) 4294967295 } ∧ t.mem = s.m.mem ∧ t.net = s.m.net
      (∃ t, exec (.flitReplayRequest ⟨i, n, toB⟩ .none) s = .next { s with m := t } ∧ counted t ∧ t.links[i]? = some { k with reps := reps } ∧ t.poison = s.m.poison) ∧
      (∀ pa, let again := (k.dir toB).failing (.data pa)
        ∃ t k', exec (.flitReplayRequest ⟨i, n, toB⟩ (.data pa)) s = .next { s with m := t } ∧ counted t ∧ t.links[i]? = some k' ∧ k'.reps = reps ∧
          k'.dir (!toB) = k.dir (!toB) ∧
          (again < 8 → (k'.dir toB).failing (.data pa) = again + 1 ∧ t.poison = s.m.poison) ∧
          (8 ≤ again → (k'.dir toB).failing (.data pa) = 1 ∧ sectorOf (keyOf s.m.rmap.pkg pa) ∈ t.poison ∧
            t = Mach.poisonAll { s.m with rmap := t.rmap, links := t.links } (linkDie i toB) 5 [pa]))) ∧
    (∀ line d t, s.m.dir = [d] → d.line = line → d.suspect = some t → t ≤ s.m.clock → ∃ u, exec (.suspectAckTimeout line) s = .next { s with m := u } ∧
      u.dir = [{ d with suspect := none }] ∧ ∀ k, k < 8 → sectorOf (keyOf s.m.rmap.pkg (line * 1024 + 128 * k)) ∈ u.poison) ∧
    (∀ line d t, s.m.dir = [d] → d.line = line → d.reissue = some t → t ≤ s.m.clock →
      exec (.coherenceReissueTimeout line) s = .next { s with m := { s.m with dir := [{ d with reissue := none }] } }) ∧
    (∀ i, exec (.managementResendTimeout i) s = .next { s with m := { s.m with mgmt := s.m.mgmt.map fun p => if p.1 = i ∧ 0 < p.2.2 ∧ p.2.2 ≤ s.m.clock then (p.1, p.2.1, 0) else p } }) ∧
    (∀ i toB, exec (.bufferLimitRecompute i toB) s = .next { s with m := { s.m with links := modAt s.m.links i fun k => k.updDir toB fun d =>
      if d.period < s.m.clock / 1024 then { d with new := newLimits d.recv, recv := List.replicate 8 0, period := s.m.clock / 1024 } else d } }) ∧
    (∀ recv : List Nat, recv.length = 8 → 0 < recv.sum → (newLimits recv).sum = 524288 ∧ ∀ x ∈ newLimits recv, 4096 ≤ x) ∧
    (∀ i toB, exec (.bufferLimitAnnounce i toB) s = .next { s with m := { s.m with links := modAt s.m.links i fun k => k.updDir toB fun d =>
      { d with lim := s.m.announcedOn i toB } } }) ∧
    (∀ lim new flight : List Nat, lim.length = 8 → new.length = 8 → flight.length = 8 → lim.sum ≤ 524288 → (announced lim new flight).sum ≤ 524288) ∧
    (∀ i, ∃ t, exec (.linklost i) s = .next { s with m := t } ∧ t.mgmt = (s.m.mgmt.filter fun p => p.1 ≠ i ∨ p.2.2 ≠ 0) ∧
      (∀ p ∈ t.pairs, (p.st = 1 ∧ p.since = s.m.clock ∧ (i, p.src, 0) ∈ s.m.mgmt) ∨ (p ∈ s.m.pairs ∧ ¬(p.src < 8 ∧ (i, p.src, 0) ∈ s.m.mgmt ∧ (s.m.feRoute p.src).isSome = true))) ∧
      ∀ a d, a < 8 → d < 9 → a ≠ d → (i, a, 0) ∈ s.m.mgmt → (s.m.feRoute a).isSome = true → ∃ p ∈ t.pairs, p.src = a ∧ p.dst = pairCode s.m.rmap.pkg d ∧ p.st = 1) ∧
    (∀ p, s.m.pairs = [p] → (s.m.pairStreams p.src p.dst) ≠ [] → p.got = [] → p.st = 1 →
      exec (.routesRecomputed p.src p.dst) s = .next { s with m := { s.m with pairs := [{ p with st := 2, since := s.m.clock }] } }) ∧
    (∀ p q rest, s.m.pairs = [p] → s.m.pairStreams p.src p.dst = q :: rest → (∃ x ∈ rest, x.1 ≠ q.1) → p.got = [] → p.st = 2 →
      s.m.reachable p.src (p.dst / 16) (p.dst % 16) = true → ∃ v : Option Nat,
        exec (.delivered p.src p.dst 0) s = .next { s with m := { s.m with pairs := [{ p with got := [(q.1, v)] }] } } ∧
        ∀ e, s.m.esc = [e] → e.strm = q.1 → e.blk = q.2.1 → e.mark = q.2.2 → e.began = true → v = some ((e.next + 65535) % 65536)) ∧
    (∀ p q, s.m.pairs = [p] → s.m.pairStreams p.src p.dst = [q] → q.1.ddie < 16 → p.got = [] → p.st = 2 → s.m.reachable p.src (p.dst / 16) (p.dst % 16) = true →
      ∃ (v : Option Nat) (t : Mach), exec (.delivered p.src p.dst 0) s = .next { s with m := t } ∧ t.pairs = [{ p with got := [(q.1, v)], st := 4, since := s.m.clock }] ∧
        (∀ x ∈ s.m.net, x ∈ t.net) ∧
        ∀ n, v = some n → ∀ x ∈ s.m.retain, x.strm = q.1 → x.blk = q.2.1 → x.mark = q.2.2 → (x.seq + 65535 - n) % 65536 < 32768 →
          ∃ r, s.m.routeFor (x.id + s.m.clock) x.strm.die x.strm.dpkg x.strm.ddie = some r ∧ { x with route := r.1, port := r.2 } ∈ t.net) ∧
    (∀ p, s.m.pairs = [p] → p.st = 2 → p.since + 100000 ≤ s.m.clock → ∃ t, exec (.exchangeTimeout p.src p.dst) s = .next { s with m := t } ∧ t.pairs = [] ∧
      t.acks = s.m.acks ++ (s.m.retain.filter fun q => q.strm.die == p.src && pairCode q.strm.dpkg q.strm.ddie == p.dst).map (fun q => q.unreachable) ∧
      t.retain = s.m.retain ∧ ∀ q ∈ t.net, q ∈ s.m.net) ∧
    (∀ p, s.m.pairs = [p] → p.st = 4 → exec (.syncdone p.src p.dst) s = .next { s with m := { s.m with pairs := [] } }) ∧
    (∀ id c n, s.m.contribs = [c] → c.id = id → s.m.conReady 0 = true → c.desc.toNat = n →
      let plane : Nat := n / 2 ^ 8 % 2
      let slot : Nat := n % 2 ^ 8
      s.m.planeRoute c.die plane = true → (s.m.slot plane slot).state = 0 → 1 < n / 2 ^ 24 % 128 → s.m.slots.length = 2 →
      (∀ l ∈ s.m.slots, l.length = 256) → ∃ t, exec (.slotContribution id) s = .next { s with m := t } ∧ t.contribs = [] ∧ t.acks = s.m.acks ∧
        (t.slot plane slot).state = 1 ∧ (t.slot plane slot).got = [(n / 2 ^ 16 % 64, c)] ∧ (t.slot plane slot).opened = s.m.clock ∧
        (t.slot plane slot).deadline = s.m.clock + 1024 * (n / 2 ^ 32 % 2 ^ 16) ∧ (t.slot plane slot).gen = n / 2 ^ 48) ∧
    (∀ p k, (s.m.slot p k).state = 1 → (s.m.slot p k).deadline < s.m.clock → (s.m.slots.getD p []).length = 256 → k < 256 → ∃ t,
      exec (.slotDeadline p k) s = .next { s with m := t } ∧ (t.slot p k).state = 2 ∧ (t.slot p k).freeAt = (s.m.slot p k).deadline + 1048576 ∧
        t.acks.length = s.m.acks.length + (s.m.slot p k).got.length) ∧
    (∀ p k, (s.m.slot p k).state = 2 → (s.m.slot p k).freeAt ≤ s.m.clock →
      exec (.slotFree p k) s = .next { s with m := s.m.updSlot p k fun x => { x with state := 0 } })

/-- R193, R318, R322, R325 to R329: the host's registers and the FE's own work: a doorbell within the ring is taken and its commands fetched, one beyond it gets STATUS 2; a valid queue is enabled with its counters at their first values, and disabled; ring and completion heads move and what was held is written; other sizes and misaligned writes change nothing; a timeline's counter takes every completed number in order; and the oldest error record of a log reaches the host's log ring. The events doorbell, queueEnable, queueDisable, ringHeadWrite, cplheadWrite, hostRegisterWrite, timelineAdvance and errorLogDrain each complete. -/
def Obligations.HostWindow : Prop :=
  ∀ s : State,
    (∀ q v, let k := s.m.queue q
      let n : Nat := (v + 2 ^ 32 - k.nextexp) % 2 ^ 32
      k.enable = true → s.m.bootState = 2 → v < 2 ^ 32 → n ≠ 0 →
      (n ≤ 2 ^ k.logs → exec (.doorbell q v) s = .next { s with m := (s.m.updQueue q fun k => { k with doorbell := v, halted := false }).fetchCmds q n }) ∧
      (2 ^ k.logs < n → exec (.doorbell q v) s = .next { s with m := (s.m.postCpl q v 0 0 2 0 k.nextexp 0).updQueue q fun k => { k with halted := true } })) ∧
    (∀ q v, (s.m.queue q).enable = false → exec (.doorbell q v) s = .next s) ∧
    (∀ q, let k := s.m.queue q
      k.enable = false → s.m.bootState = 2 → k.lastcomp = k.lastacc → 6 ≤ k.logs → k.logs ≤ 16 → k.cmdbase % 4096 = 0 → k.cplbase % 4096 = 0 →
      k.ctx < 64 ∨ (k.ctx = 0xFF ∧ q = 0) → 16 ≤ k.ver →
      exec (.queueEnable q) s = .next { s with m := (s.m.updQueue q fun k =>
        { k with enable := true, nextexp := 0, doorbell := 0, lastacc := 4294967295, lastcomp := 4294967295, lasterr := 4294967295,
                 errstat := 0, cplcount := 0, held := [], done := [], halted := false }) }) ∧
    (∀ q, (s.m.queue q).lastcomp ≠ (s.m.queue q).lastacc ∨ (s.m.queue q).logs < 6 ∨ 16 < (s.m.queue q).logs → exec (.queueEnable q) s = .next s) ∧
    (∀ q, exec (.queueDisable q) s = .next { s with m := s.m.updQueue q fun k => { k with enable := false } }) ∧
    (∀ i v r, s.m.rings[i]? = some r → r.held = [] → r.notes = [] →
      exec (.ringHeadWrite i v) s = .next { s with m := { s.m with rings := modAt s.m.rings i fun r => { r with head := v % 2 ^ 32 } } }) ∧
    (∀ q v, (s.m.queue q).held = [] → exec (.cplheadWrite q v) s = .next { s with m := s.m.updQueue q fun k => { k with cplhead := v % 2 ^ 32 } }) ∧
    (∀ q v x xs, q < s.m.queues.length → (s.m.queue q).held = x :: xs → ∃ t, exec (.cplheadWrite q v) s = .next { s with m := t } ∧
      (((s.m.queue q).cplcount + 2 ^ 32 - v % 2 ^ 32) % 2 ^ 32 < 2 ^ (s.m.queue q).logs → (t.queue q).held.length ≤ xs.length ∧
        (s.m.queue q).cplcount < (t.queue q).cplcount)) ∧
    (∀ off size v, (size ≠ 4 ∧ size ≠ 8) ∨ off % size ≠ 0 → exec (.hostRegisterWrite off size v) s = .next s) ∧
    (∀ i v, i < 3 → ∃ bs, exec (.hostRegisterWrite (0x2000 + 32 * i + 12) 4 v) s = .next { s with m := s.m.ringWrite i 12 bs } ∧ bs = leBytes 4 v) ∧
    (∀ q v, q < 256 → exec (.hostRegisterWrite (0x10000 + 64 * q + 0x14) 4 v) s = .next { s with m := s.m.queueWrite q 0x14 (leBytes 4 v) }) ∧
    (∀ id i c t, s.m.ctx? id = some c → c.tls[i]? = some t → ∃ f : Ctx → Ctx, exec (.timelineAdvance id i) s = .next { s with m := (s.m.updCtx id f).tlWake id } ∧
      ∃ u, (f c).tls[i]? = some u ∧ t.count ≤ u.count ∧ (∀ n, t.count < n → n ≤ u.count → n ∈ t.fin) ∧ u.count + 1 ∉ u.fin) ∧
    (∀ d k x, s.m.logs[d]? = some k → k.recs = [x] → (fieldAt x 0x0E 1).testBit 0 = false → (fieldAt x 0x0E 1).testBit 1 = false →
      exec (.errorLogDrain d) s = .next { s with m := (Mach.ringPush { s.m with logs := s.m.logs.set d { k with recs := [] } } 1 x).ringNotes 1 })

/-- R193, R329: a command that completes leaves the list, posts a record of 32 bytes with its sequence number, opcode, sub-cause, status, tag, result and timeline value, where the ring has room at CPLBASE + 32 * (CPLCOUNT mod 2^LOGS), with PHASE 1 on the first pass, and sets LASTERR and ERRSTAT when its status is not 0. -/
def Obligations.CommandCompletion : Prop :=
  ∀ (m : Mach) (c : Cmd) (sub status result : Nat), c.q < m.queues.length → c.tlNum = 0 → (m.queue c.q).held = [] →
    (m.queue c.q).cplcount = (m.queue c.q).cplhead → 6 ≤ (m.queue c.q).logs →
    let k := m.queue c.q
    let t := m.finishCmd c sub status result 0
    let x : List Byte := leBytes 4 c.seq ++ leBytes 1 c.op ++ leBytes 1 sub ++ leBytes 1 status ++
      leBytes 1 (1 - k.cplcount / 2 ^ k.logs % 2) ++ leBytes 8 c.tag ++ leBytes 8 result ++ leBytes 8 0
    t.mem = (m.hostWrite (k.cplbase + 32 * (k.cplcount % 2 ^ k.logs)) x).mem ∧ (t.queue c.q).cplcount = k.cplcount + 1 ∧
      (t.queue c.q).held = [] ∧ (status ≠ 0 → (t.queue c.q).lasterr = c.seq ∧ (t.queue c.q).errstat = status * 256 + sub) ∧
      (status = 0 → (t.queue c.q).lasterr = k.lasterr ∧ (t.queue c.q).errstat = k.errstat) ∧
      (∀ y ∈ t.cmds, ¬(y.q = c.q ∧ y.seq = c.seq)) ∧ t.blocks = m.blocks ∧ t.grids = m.grids ∧ t.ctxs = m.ctxs

/-- R330, R450: the commands of a context's queue complete (hostLaunch, copy, tlhold, netpost, netqp and netpostAcknowledged): LAUNCH reads its descriptor and is accepted, COPY moves 1,024 bytes at most, TLHOLD ends when its timeline has reached the value, NETPOST goes to its port and ends with the peer's acknowledgement, and NETQP sets up a pair; without its context each ends with STATUS 3. The context is that of the queue as it took the command (R326). The model's choices: how far a COPY has come when a page is missing (log entry 25), NETPOST's check of its local range (log entry 24), the peer, which is the event's (log entry 58), and the statuses before a start (log entry 59). -/
def Obligations.ContextCommands : Prop :=
  ∀ (s : State) (q : Nat) (c : Cmd),
    let ctx : Nat := s.m.cmdCtx c
    (∀ p ∈ [(Instr.hostLaunch q, 0x01), (.copy q, 0x02), (.tlhold q, 0x03), (.netpost q, 0x04), (.netqp q, 0x05)],
      s.m.Turn q p.2 c → c.pos = 0 → s.m.ctx? ctx = none → exec p.1 s = .next { s with m := s.m.failCmd c 3 }) ∧
    ((s.m.ctx? ctx).isSome = true →
      (s.m.Turn q 0x01 c → c.pos = 0 → c.wait = [] → ∀ k pte nc hb, s.m.translate ctx (c.f 0x10 8) { r := true, w := false, x := false } = .ok k pte nc hb →
        sectorOf k ∉ s.m.poison →
        let raw := (List.range 128).map fun i => s.m.feByte (k + i)
        let r := ((s.m.touch pte false).updCmd c fun c => { c with started := true, pos := 1 }).acceptLaunch ctx raw false (some (c.q, c.seq)) []
        exec (.hostLaunch q) s = .next { s with m := if r.2.1 = 0 then r.1.finishCmd c 1 5 0 0 else r.1 }) ∧
      (s.m.Turn q 0x02 c → c.f 0x20 8 ≤ c.pos → exec (.copy q) s = .next { s with m := s.m.okCmd c 0 }) ∧
      (s.m.Turn q 0x02 c → c.wait = [] → c.pos < c.f 0x20 8 →
        let src : Nat := c.f 0x10 8 + c.pos
        let dst : Nat := c.f 0x18 8 + c.pos
        let k : Nat := min (c.f 0x20 8 - c.pos) 1024
        src + k ≤ 2 ^ 52 → dst + k ≤ 2 ^ 52 →
        let ts := s.m.trPieces ctx (pagePieces src k 2) { r := true, w := false, x := false }
        let td := s.m.trPieces ctx (pagePieces dst k 2) { r := false, w := true, x := false }
        s.m.trFault false ts = none → s.m.trFault false td = none → s.m.poison = [] → ∃ t, exec (.copy q) s = .next { s with m := t } ∧
          let ps := (pieceKeys (trOk ts)).zip (pieceKeys (trOk td))
          let m1 := ((trPtes false ts ++ trPtes true td).foldl (fun m p => m.touch p.1 p.2) s.m)
          let m2 := (m1.feStore (ps.map fun p => (p.2.2, s.m.feByte p.1.2)) []).updCmd c fun c => { c with started := true, pos := c.pos + k }
          t = if c.pos + k = c.f 0x20 8 then m2.okCmd c 0 else m2) ∧
      (s.m.Turn q 0x03 c → c.f 0x18 8 ≤ s.m.tlCount ctx (c.f 0x10 1) → exec (.tlhold q) s = .next { s with m := s.m.okCmd c (s.m.tlCount ctx (c.f 0x10 1)) }) ∧
      (s.m.turnOf q 0x03 = [c] → s.m.tlCount ctx (c.f 0x10 1) < c.f 0x18 8 → exec (.tlhold q) s = .next s) ∧
      (s.m.Turn q 0x04 c → c.pos = 0 → c.wait = [] → (∃ p ∈ s.m.qps, p.ctx = ctx ∧ p.port = c.f 0x10 1 ∧ p.qpn = c.f 0x14 4) →
        c.f 0x18 8 + c.f 0x2C 4 ≤ 2 ^ 52 → s.m.trFault false (s.m.netTrs c).2 = none →
        exec (.netpost q) s = .next { s with m := ((trPtes (s.m.netTrs c).1 (s.m.netTrs c).2).foldl (fun m p => m.touch p.1 p.2)
          (s.m.updCmd c fun c => { c with started := true, pos := 1 })) }) ∧
      (s.m.Turn q 0x05 c →
        let p : NetQp := { ctx := ctx, port := c.f 0x10 1, qpn := c.f 0x14 4, peer := c.f 0x18 4, mtu := c.f 0x1C 2, ip := (c.raw.drop 0x20).take 16 }
        exec (.netqp q) s = .next { s with m := (Mach.okCmd { s.m with
          qps := p :: s.m.qps.filter fun x => !(x.ctx == ctx && x.port == c.f 0x10 1 && x.qpn == c.f 0x14 4) } c 0) })) ∧
    (∀ data, s.m.cmds = [c] → c.op = 0x04 → c.pos = 1 → c.f 0x11 1 ≠ 2 →
      exec (.netpostAcknowledged c.q c.seq data) s = .next { s with m := s.m.okCmd c (c.f 0x2C 4) })

/-- R330, R32, R38, R195, R293, R296, R297, R332 to R335, R240: the commands of the admin queue complete (ctxcreate, ctxdestroy, tlbinv, biasflip, faultresp, hostMapack, chanconf, kill, brkresume, suspend, resume, slotread, keyinstall, keyremove, powercap, attest and fwstage), with the change each names, and with STATUS 3, 4 or 8 where their object is missing, unverified or in use. The model's choices: when a context's header is written (log entry 26), how a sector keeps the key it was written under (log entry 28), and the private keys and the nonce of a signature, which are free values (log entry 96). -/
def Obligations.AdminCommands : Prop :=
  ∀ (s : State) (q : Nat) (c : Cmd),
    let id : Nat := c.f 0x10 1
    let none_ : Prop := s.m.ctx? id = none
    (∀ p ∈ [(Instr.tlbinv q, 0x22), (.hostMapack q, 0x25), (.brkresume q, 0x28), (.suspend q, 0x29), (.resume q, 0x2A)],
      s.m.Turn q p.2 c → none_ → exec p.1 s = .next { s with m := s.m.failCmd c 3 }) ∧
    (∀ p ∈ [(Instr.ctxdestroy q, 0x21), (.kill q, 0x27)], s.m.Turn q p.2 c → c.started = false → none_ → exec p.1 s = .next { s with m := s.m.failCmd c 3 }) ∧
    (s.m.Turn q 0x20 c →
      ((s.m.ctx? id).isSome = true → exec (.ctxcreate q) s = .next { s with m := s.m.failCmd c 8 }) ∧
      (none_ → ∃ x : Ctx, exec (.ctxcreate q) s = .next { s with m := (Mach.writeHeader { s.m with ctxs := s.m.ctxs ++ [x], ctxCnt := s.m.ctxCnt + 1 } id).okCmd c 0 } ∧ x.id = id ∧ x.root = c.f 0x18 8 ∧
        x.locbase = c.f 0x20 8 ∧ x.lsize = 65536 * c.f 0x14 4 ∧ x.lslots = c.f 0x12 2 ∧ x.csabase = c.f 0x28 8 ∧ x.ackver = s.m.rmap.ver ∧
        x.mapver = s.m.rmap.ver ∧ x.events = [] ∧ x.killed = false ∧ (x.suspMap = true ↔ s.m.bootState = 3) ∧ x.tls.length = 32 ∧ ∀ t ∈ x.tls, t.next = 1 ∧ t.count = 0 ∧ t.fin = [])) ∧
    (s.m.Turn q 0x21 c → c.started = false → (s.m.ctx? id).isSome = true → (∀ k ∈ s.m.queues, ¬(k.enable = true ∧ k.ctx = id)) →
      (∀ g ∈ s.m.grids, g.ctx = id → g.complete = true) →
      exec (.ctxdestroy q) s = .next { s with m := ((s.m.updCtx id fun x => { x with killed := true }).writeHeader id).updCmd c fun c => { c with started := true } }) ∧
    (s.m.Turn q 0x21 c → c.started = true → (∀ g ∈ s.m.grids, g.ctx = id → g.complete = true) →
      exec (.ctxdestroy q) s = .next { s with m := (Mach.okCmd
        { s.m with ctxs := s.m.ctxs.filter (fun x => x.id != id), qps := s.m.qps.filter (fun p => p.ctx != id), tlb := s.m.tlb.filter fun t => t.ctx != id } c 0) }) ∧
    (s.m.Turn q 0x22 c → (s.m.ctx? id).isSome = true → (∀ b ∈ s.m.blocks, b.ctx ≠ id) → exec (.tlbinv q) s = .next { s with m := (s.m.tlbDrop id (c.f 0x18 8) (65536 * c.f 0x14 4)).okCmd c 0 }) ∧
    (s.m.Turn q 0x23 c → ∃ t : Mach, exec (.biasflip q) s = .next { s with m := t.okCmd c 0 } ∧ t.mem = s.m.mem ∧
      (c.f 0x18 1 = 1 → t.bias = c.f 0x10 8 / 65536 :: s.m.bias.filter fun x => x != c.f 0x10 8 / 65536) ∧
      (c.f 0x18 1 ≠ 1 → t.bias = s.m.bias.filter fun x => x != c.f 0x10 8 / 65536)) ∧
    (s.m.Turn q 0x24 c →
      ((∀ f ∈ s.m.faults, f.die = id → f.seq = c.f 0x14 4 → f.answer ≠ none) → exec (.faultresp q) s = .next { s with m := s.m.failCmd c 3 }) ∧
      (∀ f, (s.m.faults.find? fun f => f.die == id && f.seq == c.f 0x14 4 && f.answer.isNone) = some f → c.f 0x11 1 = 0 →
        exec (.faultresp q) s = .next { s with m := (((Mach.headersGo { s.m with
          faults := modWhere s.m.faults (fun x => x.die == f.die && x.seq == f.seq) (fun (x : FaultRec) => { x with answer := some false }) } f).forgetFaults).okCmd c 0) })) ∧
    (∀ x, s.m.Turn q 0x25 c → s.m.ctx? id = some x →
      (x.mapver < c.f 0x14 4 → exec (.hostMapack q) s = .next { s with m := (s.m.log (feLog 0x15 3 (some id) none 0 0) none).failCmd c 2 }) ∧
      (c.f 0x14 4 = x.mapver → s.m.bootState ≠ 3 →
        let m1 : Mach := (s.m.ackMap id x.mapver).updCtx id fun y => { y with suspMap := false }
        exec (.hostMapack q) s = .next { s with m := (if x.suspMap then m1.writeHeader id else m1).okCmd c (max x.ackver x.mapver) })) ∧
    (s.m.Turn q 0x26 c → c.started = false → (id, c.f 0x11 1, false) ∈ s.m.chanReq → ∃ t, exec (.chanconf q) s = .next { s with m := t } ∧
      (id, c.f 0x11 1, true) ∈ t.chanReq ∧ t.rmap = s.m.rmap) ∧
    (s.m.Turn q 0x27 c → (s.m.ctx? id).isSome = true →
      let n : Nat := c.f 0x14 4
      (c.started = false → (∃ g ∈ s.m.grids, g.ctx = id ∧ g.num = n ∧ g.complete = false) →
        exec (.kill q) s = .next { s with m := (s.m.killGrid n (hostKill id n) none).updCmd c fun c => { c with started := true } }) ∧
      ((∀ g ∈ s.m.grids, g.ctx = id → g.num = n → g.complete = true) →
        (c.started = true → exec (.kill q) s = .next { s with m := s.m.okCmd c 1 }) ∧
        (c.started = false → (∃ g ∈ s.m.grids, g.ctx = id ∧ g.num = n) → exec (.kill q) s = .next { s with m := s.m.okCmd c 0 }))) ∧
    (s.m.Turn q 0x28 c → (s.m.ctx? id).isSome = true → ∀ (b : Block) (w : Warp) (l : Nat) (k : Lane), s.m.blocks = [b] → b.ctx = id → b.warps = [w] → w.lanes[l]? = some k →
      k.run = .stopped (c.f 0x14 4) → (∀ x ∈ w.lanes, x.run.stopFrameOf (c.f 0x14 4) = false) →
      (c.f 0x11 1 = 1 → exec (.brkresume q) s = .next { s with m := (s.m.killGrid b.grid (hostKill id b.grid) none).okCmd c 0 }) ∧
      (c.f 0x11 1 ≠ 1 → ∃ t : Mach, exec (.brkresume q) s = .next { s with m := t.okCmd c 0 } ∧ ∀ y ∈ t.blocks, ∀ z ∈ y.warps, z.lanes[l]? = some { k with run := .ready })) ∧
    (s.m.Turn q 0x29 c → (s.m.ctx? id).isSome = true → c.started = false →
      exec (.suspend q) s = .next { s with m := (((s.m.updCtx id fun x => { x with suspHost := true }).freezeCtx id).writeHeader id).updCmd c fun c => { c with started := true } }) ∧
    (∀ x, s.m.Turn q 0x29 c → s.m.ctx? id = some x → c.started = true → x.suspHost = false ∨ (∀ b ∈ s.m.blocks, b.ctx = id → b.onCores = false) →
      exec (.suspend q) s = .next { s with m := s.m.okCmd c 0 }) ∧
    (s.m.Turn q 0x2A c → (s.m.ctx? id).isSome = true → exec (.resume q) s = .next { s with m := ((s.m.updCtx id fun x => { x with suspHost := false }).writeHeader id).okCmd c 0 }) ∧
    (s.m.Turn q 0x2B c →
      let k : Nat := c.f 0x11 1
      let u : Mach := (s.m.slotDeadline id k).slotFree id k
      exec (.slotread q) s = .next { s with m := (u.hostWrite (c.f 0x18 8) ((u.slot id k).bytes id k)).okCmd c 0 } ∧ ((u.slot id k).bytes id k).length = 320) ∧
    (s.m.Turn q 0x2C c → ((s.m.keyId id).isSome = true → exec (.keyinstall q) s = .next { s with m := s.m.failCmd c 8 }) ∧
      (s.m.keyId id = none →
        (unwrapBlob s.m.bootPriv (s.m.hostRead (c.f 0x18 8) 168) = none → exec (.keyinstall q) s = .next { s with m := s.m.failCmd c 4 }) ∧
        ∀ v, unwrapBlob s.m.bootPriv (s.m.hostRead (c.f 0x18 8) 168) = some v → exec (.keyinstall q) s = .next { s with m := (s.m.install id v).okCmd c 0 } ∧
          (∃ i, (s.m.install id v).keyId id = some i ∧ (s.m.install id v).keyTab[i]? = some (.blob v)) ∧
          ∀ k, k ≠ id → (s.m.install id v).keyId k = s.m.keyId k)) ∧
    (s.m.Turn q 0x2D c → ((s.m.keyId id).isSome = true → exec (.keyremove q) s = .next { s with m := Mach.okCmd { s.m with keys := s.m.keys.filter fun x => x.1 != id } c 0 }) ∧
      (s.m.keyId id = none → exec (.keyremove q) s = .next { s with m := s.m.failCmd c 3 })) ∧
    (s.m.Turn q 0x2E c → ∃ t : Mach, exec (.powercap q) s = .next { s with m := t.okCmd c t.rmap.ver } ∧ t.hostCap = c.f 0x10 4 ∧
      (0 < s.m.rmap.ver → s.m.rmap.ver < 2 ^ 32 - 1 → t.rmap.limit = min (min (c.f 0x10 4) s.m.boardCap) 2400)) ∧
    (s.m.Turn q 0x2F c →
      let nonce := s.m.hostRead (c.f 0x10 8) 32
      let body := s.m.reportBody nonce
      let sig := ecdsaSign (scalarOf Config.idPriv) (scalarOf (Config.signNonce s.m.clock)) body
      exec (.attest q) s = .next { s with m := (s.m.hostWrite (c.f 0x18 8) (body ++ leBytes 48 sig.1 ++ leBytes 48 sig.2)).okCmd c 0 } ∧
        body.length = 384 ∧ body.take 4 = leBytes 4 0x54415A53 ∧ (body.drop 8).take 32 = nonce ∧ (body.drop 40).take 48 = sha384 s.m.image) ∧
    (s.m.Turn q 0x30 c → exec (.fwstage q) s = .next { s with m := (if imageValid (s.m.hostRead (c.f 0x10 8) (c.f 0x18 8)) then
      Mach.okCmd { s.m with staged := some (s.m.hostRead (c.f 0x10 8) (c.f 0x18 8)) } c 0 else s.m.failCmd c 4) })

/-- R3, R16, R324 (the values the spec gives): after package reset Favos is booting, no map version is written, no queue, ring or context is set up, no work exists, every core is off with no grains, key slot 0 alone holds a key; and memory lists nothing, in its canonical form. R16, R17, R18, R324: packageReset completes in every state: it leaves no context, grid, block, fault record or enabled queue, the key slots but slot 0 empty, and the contents of memory, with Favos running. Memory that nothing has written, and its contents over a reset, are log entry 1's. Favos, a step a cycle (log entry 45), refuses an image whose key's hash is not fused or whose signature does not verify (R332), and then either writes version 1 of the map, with the cores live that it names, or fails with the step and reason of the first test that does. -/
def Obligations.ResetAndBoot : Prop :=
  (let m : Mach := State.reset.m
   m.bootState = 1 ∧ m.rmap.ver = 0 ∧ m.ctxs = [] ∧ m.grids = [] ∧ m.blocks = [] ∧ m.cmds = [] ∧ m.faults = [] ∧ m.keys.map Prod.fst = [0] ∧ m.net = [] ∧
     m.retain = [] ∧ m.acks = [] ∧ m.queues.length = 256 ∧ (∀ q ∈ m.queues, q.enable = false) ∧ m.rings.length = 3 ∧
     m.cores.length = 160 ∧ (∀ c ∈ m.cores, c.live = false ∧ c.grains = 0 ∧ c.mx = none ∧ ∀ b ∈ c.banks, b.ctx = none) ∧
     (∀ l ∈ m.slots, l.length = 256 ∧ ∀ k ∈ l, k.state = 0) ∧ m.mem = [] ∧ FormKept State.reset ∧ State.reset.inputs = []) ∧
  (∀ (s : State) (r : BootReport), ∃ t : Mach, exec (.packageReset r) s = .next { m := t, iss := none, inputs := s.inputs } ∧
     t.ctxs = [] ∧ t.grids = [] ∧ t.blocks = [] ∧ t.faults = [] ∧ t.net = [] ∧ t.retain = [] ∧ t.keys.map Prod.fst = [0] ∧ t.mem = s.m.mem ∧
     t.bootState = 1 ∧ t.bootStep = 0 ∧ t.rmap.ver = 0 ∧ (∀ q, (t.queue q).enable = false) ∧
     let at_ (n : Nat) : Mach := (List.range n).foldl (fun m _ => m.favos) t
     let ok : Bool := imageValid t.image
     t.image = s.m.staged.getD s.m.image ∧
     (ok = false → (at_ 1).bootState = 3 ∧ (at_ 1).bootReason = 4 ∧ (at_ 1).rmap.ver = 0) ∧
     (ok = true → badIdent r.ident = true → (at_ 2).bootState = 3 ∧ (at_ 2).bootStep = 1 ∧ (at_ 2).bootReason = 6) ∧
     (ok = true → badIdent r.ident = false → r.feOk = false → (at_ 5).bootState = 3 ∧ (at_ 5).bootStep = 4 ∧ (at_ 5).bootReason = 1) ∧
     (ok = true → badIdent r.ident = false → r.feOk = true → (∀ n, n ≤ 6 → (at_ n).bootState = 1 ∧ (at_ n).bootStep = n) ∧
       ((at_ 7).bootState = 2 ∨ ((at_ 7).bootState = 3 ∧ (at_ 7).bootStep = 6 ∧ ((at_ 7).bootReason = 2 ∨ (at_ 7).bootReason = 3)))) ∧
     ((at_ 7).bootState = 2 → (at_ 7).rmap.ver = 1 ∧ (∀ c, c < 160 → ((at_ 7).core c).live = (at_ 7).rmap.coreLive c) ∧
       (∃ d e, d < 8 ∧ (at_ 7).rmap.dies[d]? = some e ∧ (e.state = 1 ∨ e.state = 2)) ∧ ∃ p ∈ (at_ 7).rmap.planes, p.1 ≠ 0))

/-- R96, R115, and the encodings of chapters 18 to 20: words written out from the tables decode to the instructions they stand for, and words with a reserved bit set (of NOP, LAUNCH, REDW, CHJOIN and a PFX), a reserved sub-op or a reserved major are refused. -/
def Obligations.SpecWordsDecode : Prop :=
  let h : Hdr := { c := false, w := false, gn := false, gp := 7 }
  let is (ws : List Word) (i : Instr) : Prop := decodeWords ws = .ok (i, [])
  let refused (ws : List Word) (e : DecodeError) : Prop := decodeWords ws = .error e
  is [0x1C0FFFFD#32] (.bra h 0x7FFFD#19) ∧ is [0x1C1A0005#32] (.call h 2 5) ∧ is [0x1CA04A0C#32] (.launch h 2 20 6) ∧
    is [0x03F80001#32, 0x1CB86084#32] (.iadd h 3 1 2 false (some 1)) ∧ is [0x1CC040FD#32] (.iaddi h 2 1 0x7D#7 none) ∧
    is [0x1D2060FF#32] (.and h 3 1 0x3F#6 true) ∧ is [0x03F84600#32, 0x1E488004#32] (.dfma h 4 0 2 false (some 0x4600#23)) ∧
    is [0x1E194084#32] (.fsetp h 1 2 1 2 false) ∧ is [0x03F80013#32, 0x1E3060C2#32] (.cvt h 3 1 4 1 false (some 0x13#23)) ∧
    is [0x1DD82000#32] (.crd h 1 0) ∧ is [0x1DD04082#32] (.redw h 2 1 1) ∧ is [0x03F80001#32, 0x1DB04081#32] (.shflSwap h 2 1 0 (some 1)) ∧
    is [0x06812A21#32] (.ld { h with gp := 1 } 9 20 2 1 none) ∧ is [0x1EA88B20#32] (.stRel h 4 22 2 0 none) ∧
    is [0x1EF04A06#32] (.stashmap h 2 20 3) ∧ is [0x03F8000B#32, 0x1ED08A18#32] (.atomArith h 4 10 6 0 (some 0xB#23)) ∧
    is [0x1F18A880#32] (.rred h 1 10 8 0) ∧ is [0x1F210400#32] (.chjoin h 2 1) ∧ is [0x1F384A10#32] (.cpySh h 2 20 4) ∧
    is [0x1F682830#32] (.tld h 0 20 6 false 0) ∧ is [0x1F910089#32] (.mma h 2 0 1 1 false 1) ∧ is [0x1FB3004A#32] (.miterPoly h 6 5 false) ∧
    refused [0x1C000001#32] .mustBeZero ∧ refused [0x1CA04A0D#32] .mustBeZero ∧ refused [0x1DD04083#32] .mustBeZero ∧ refused [0x1F210401#32] .mustBeZero ∧
    refused [0x43F80001#32] .mustBeZero ∧ refused [0x1D604086#32] .reservedSubop ∧ refused [0x1FC00000#32] .reservedMajor

/-- R97, R100, R101, R103: when the word at the PC of the path a core issues next decodes to a well-formed instruction that does not chain and need not wait, a step is that instruction's meaning on the state in which the group has begun, followed by its shadow's turn (R308), the path's regrouping and the end of the cycle; a group that has to wait leaves its wait only (R101); a prefix and its host are one such instruction; a warp without a shadow has no such turn; and a scheduled event, or one that is due, is what the next step does. Every event of the package answers a next state in every state. The order of events and issues is log entry 2's, the shadow's turn log entry 10's, and an event whose condition does not hold log entry 62's. -/
def Obligations.StepRunsInstruction : Prop :=
  (∀ (e : Instr) (s : State), e.word = none → ∃ t, exec e s = .next t) ∧
  ∀ s : State, s.m.front.bind Front.under = none →
    (∀ e rest, s.inputs = e :: rest →
      step s = onNext (exec e { s with inputs := rest, iss := none }) fun t => { t with m := t.m.unstall.regroup, iss := none }) ∧
    (s.inputs = [] → ∀ e, s.m.due = some e →
      step s = onNext (exec e { s with iss := none }) fun t => { t with m := t.m.unstall.regroup, iss := none }) ∧
    (s.inputs = [] → s.m.due = none → s.m.clock % 2 = 0 → ∀ (p : Pick) (i : Instr) (w : Word),
      s.m.pick unitGate = some p → p.second = none → p.w.queueFull = false →
      let lanes : Mask := p.first.1.lanes
      let pc : PC := (p.w.lane (lowest lanes)).pc
      let holds (at_ : PC) (v : Word) : Prop := p.b.entry + at_.offset < 2 ^ 52 ∧ ∃ key pte nc hb,
        p.m.translate p.b.ctx (p.b.entry + at_.offset) { r := false, w := false, x := true } = .ok key pte nc hb ∧ p.m.memBytes key 4 = wordBytes v
      let runs (here : PC) (pfx : Word) : Prop :=
        let next : PC := if here.sl = 2 then ⟨here.pk + 1, 0⟩ else ⟨here.pk, here.sl + 1⟩
        let g : GWord := { instr := i, word := w, pfx := pfx, pc := here }
        let m1 : Mach := Mach.updWarp { p.m with front := some p.front } p.b.id p.w.num fun _ => p.w
        let issue : Issue := { m1.issueOf p.b p.w p.first.1 pc next false with code := codeOf [g] }
        let s1 : State :=
          { m := ((m1.updWarp p.b.id p.w.num fun x => x.started lanes next).markIssued lanes).touchPcs p.b.ctx p.b.entry (codeOf [g]),
            iss := some { issue with here := here, word := w, pfx := pfx }, inputs := [] }
        let done (t : State) : State :=
          match t.iss.bind fun k => k.wait with
          | some waits => State.finish { t with m := waits } p.b.id p.w.num
          | none => (t.recorded issue [g]).finish p.b.id p.w.num
        step s = onNext (onNext (shadowed exec g s1 (exec i s1)) done) (State.tick unitGate) ∧
        (p.w.shadow = none → shadowed exec g s1 (exec i s1) = exec i s1)
      p.first.2 = .group (p.m.fetchGroup p.b.ctx p.b.entry pc) → pc.pk ≤ lastPacket → isPfx w = false → w.getLsbD 31 = false → i.wf = true →
      (pc.sl < 3 → holds pc w → decodeWord w none = .ok i →
        groupWaits p.w lanes [{ instr := i, word := w, pfx := 0, pc := pc }] = false → runs pc 0) ∧
      (∀ v, pc.sl < 2 → holds pc v → holds ⟨pc.pk, pc.sl + 1⟩ w → isPfx v = true → v.extractLsb' 30 2 = 0 → isHost (opOf w) = true →
        payloadOf v &&& ~~~hostMask (opOf w) = 0 → decodeWord w (some (payloadOf v)) = .ok i →
        groupWaits p.w lanes [{ instr := i, word := w, pfx := v, pc := ⟨pc.pk, pc.sl + 1⟩ }] = false → runs ⟨pc.pk, pc.sl + 1⟩ v))

/-- R96, R100, R115, R116 and the encodings of chapters 14 and 18 to 20: every well-formed instruction of the encoded rows, encoded and followed by any words, decodes to itself and leaves those words. -/
def Obligations.RoundTrip : Prop :=
  ∀ (i : Instr) (w : Word) (rest : List Word), i.wf = true → i.word = some w → (isPfx w = true → rest = []) →
    decodeWords (encode i ++ rest) = .ok (i, rest)

/-- R102: Exec of a word holds the lanes of its issuing path that are active, and for which the committed value of the guard predicate, inverted when GN is 1, is true; a word whose Exec is empty completes and changes nothing: its group has already moved the program counter on. -/
def Obligations.GuardsAndExec : Prop :=
  (∀ (k : Issue) (x : Warp) (h : Hdr) (l : Nat), l < 64 → (k.exec x h).getLsbD l =
    (((x.pred h.gp.toNat).getLsbD l ^^ h.gn) && k.lanes.getLsbD l && !k.parked.getLsbD l && x.liveLanes.getLsbD l)) ∧
  ∀ (s : State) (i : Instr) (w : Word) (k : Issue) (b : Block) (x : Warp), i.word = some w → isPfx w = false → s.iss = some k →
    k.base.block? k.blk = some b → k.base.warp? k.blk k.warp = some x → k.exec x (hdrOf w) = 0 → exec i s = .next s

/-- Log entry 1 and log entry 2 (the model's own conventions): every step from a state whose memory is in its canonical form, with no group under way, leaves the memory in that form, and no group under way. -/
def Obligations.FormInvariant : Prop :=
  ∀ s t : State, FormKept s → step s = .next t → FormKept t
end

