-- ==== Sys2Proof/Laws/Words.lean ====
section
/-! SUPPORT. What the shared frame of every encoded word does: it runs the word's meaning, traps FRAME, or has no effect; and what the forms of a result leave behind. -/

namespace Sys2Proof.Machine

theorem lanesOf_mem (m : Mask) (l : Nat) : l ∈ lanesOf m ↔ l < 64 ∧ m.getLsbD l = true := by
  simp [lanesOf]

/-- A mask that is not empty has a lane. -/
theorem lanesOf_ne_nil {m : Mask} (h : m ≠ 0) : lanesOf m ≠ [] := by
  intro e
  apply h
  apply BitVec.eq_of_getLsbD_eq
  intro i hi
  have : i ∉ lanesOf m := by simp [e]
  rw [lanesOf_mem] at this
  simpa [hi] using this

theorem bit_getLsbD (l i : Nat) : (bit l).getLsbD i = (decide (i < 64) && decide (i = l)) := by
  change (BitVec.ofNat 64 (2 ^ l)).getLsbD i = _
  rw [BitVec.getLsbD_ofNat, Nat.testBit_two_pow]
  simp only [eq_comm]

theorem foldl_bits (p : Nat → Bool) (ls : List Nat) (m : Mask) (i : Nat) :
    (ls.foldl (fun m l => if p l then m ||| bit l else m) m).getLsbD i =
      (m.getLsbD i || (decide (i < 64) && ls.any fun l => p l && decide (i = l))) := by
  induction ls generalizing m with
  | nil => simp
  | cons x xs ih =>
    simp only [List.foldl_cons, ih, List.any_cons]
    by_cases hp : p x <;> simp [hp, bit_getLsbD]
    grind

/-- Bit l of a mask built lane by lane. -/
theorem maskOf_getLsbD (p : Nat → Bool) (i : Nat) : (maskOf p).getLsbD i = (decide (i < 64) && p i) := by
  rw [maskOf, foldl_bits]
  by_cases h : i < 64
  · simp only [h, decide_true, Bool.true_and]
    rw [Bool.eq_iff_iff]
    simp [h]
  · simp [h]

/-- R71: the lanes of a G value. -/
theorem RVal.lanes_get (W : Nat) (f : Nat → Word) (l : Nat) (h : l < W) : (RVal.lanes W f).get l = f l := by
  simp [RVal.lanes, RVal.get, h]

theorem RVal.affine_get (b s : Word) (l : Nat) : (RVal.affine b s).get l = b + BitVec.ofNat 32 l * s := by
  unfold RVal.affine
  split
  · subst_vars; simp [RVal.get]
  · rfl

/-- R73, per-lane row: every lane holds its own result. -/
theorem RVal.perLane_get (W : Nat) (srcs : List RVal) (f : Nat → Word) (l : Nat) (h : l < W)
    (hu : srcs.all RVal.isU = true → f l = f 0) : (RVal.perLane W srcs f).get l = f l := by
  unfold RVal.perLane
  split
  · simp [RVal.get, hu ‹_›]
  · exact RVal.lanes_get W f l h

theorem RVal.get_of_isU {v : RVal} (h : v.isU = true) (l : Nat) : v.get l = v.get 0 := by
  cases v <;> simp_all [RVal.isU, RVal.code, RVal.get]

theorem subset_getLsbD {a b : Mask} (h : subset a b = true) (l : Nat) (hl : a.getLsbD l = true) : b.getLsbD l = true := by
  have h0 : a &&& ~~~b = 0 := by simpa [subset] using h
  have := congrArg (fun v : Mask => v.getLsbD l) h0
  have hlt : l < 64 := by
    apply Classical.byContradiction; intro hn
    have : a.getLsbD l = false := BitVec.getLsbD_of_ge a l (by omega)
    simp_all
  simp [hl, hlt] at this
  exact this

/-- R72: a write that is not narrow gives the lanes of Exec the value and keeps the other live lanes. -/
theorem RVal.write_get (W : Nat) (old : RVal) (ex live : Mask) (val : RVal) (l : Nat) (h : l < W) :
    (ex.getLsbD l = true → (RVal.write W old ex live fullBits val).get l = val.get l) ∧
      (ex.getLsbD l = false → live.getLsbD l = true → (RVal.write W old ex live fullBits val).get l = old.get l) := by
  unfold RVal.write
  simp only [if_true]
  by_cases hs : subset live ex = true
  · simp only [hs, if_true]
    refine ⟨fun _ => ?_, fun he hl => ?_⟩
    · cases val with
      | a b s => exact RVal.affine_get b s l
      | _ => rfl
    · have := subset_getLsbD hs l hl
      simp_all
  · simp only [hs, Bool.false_eq_true, if_false]
    rw [RVal.lanes_get _ _ _ h]
    constructor <;> intro he <;> simp [he]

theorem putAt_getD {α : Type} (d : α) (l : List α) (i j : Nat) (v : α) :
    (putAt d l i v)[j]?.getD d = if j = i then v else l[j]?.getD d := by
  induction i generalizing l j with
  | zero => cases l <;> cases j <;> simp [putAt]
  | succ i ih => cases l <;> cases j <;> simp_all [putAt]

theorem find_modWhere {α : Type} (l : List α) (p q : α → Bool) (f : α → α) (hf : ∀ x, p (f x) = p x) :
    (modWhere l q f).find? p = (l.find? p).map fun x => if q x then f x else x := by
  induction l with
  | nil => rfl
  | cons x xs ih =>
    simp only [modWhere, List.map_cons, List.find?_cons] at ih ⊢
    have : p (if q x then f x else x) = p x := by split <;> simp [hf]
    rw [this]
    cases p x <;> simp [ih]

/-- R67: the frames of a warp after a change of one. -/
theorem Warp.updFrame_frame (w : Warp) (fid g : Nat) (f : Frame → Frame) (hf : ∀ x, (f x).id = x.id) :
    (w.updFrame fid f).frame? g = (w.frame? g).map fun x => if x.id == fid then f x else x := by
  unfold Warp.updFrame Warp.frame?
  exact find_modWhere _ _ _ _ (by simp [hf])

theorem Warp.frame_id {w : Warp} {fid : Nat} {f : Frame} (h : w.frame? fid = some f) : f.id = fid := by
  have := List.find?_some h
  simpa using this

/-- R67: a write of one register leaves every other register of the frame and every other g register. -/
theorem Warp.reg_setReg_ne (w : Warp) (fid r q : Nat) (v : RVal) (h : q ≠ r) : (w.setReg fid r v).reg fid q = w.reg fid q := by
  unfold Warp.setReg Warp.reg
  by_cases hr : r < 56 <;> by_cases hq : q < 56 <;> simp only [hr, hq, if_true, if_false]
  · rw [Warp.updFrame_frame _ _ _ _ (by simp)]
    cases hf : w.frame? fid with
    | none => simp
    | some f =>
      have := Warp.frame_id hf
      simp [this, List.getElem?_set_ne (Ne.symm h)]
  · simp [Warp.updFrame]
  · simp [Warp.frame?]
  · simp only [List.getD_eq_getElem?_getD, putAt_getD]
    have : q - 56 ≠ r - 56 := by omega
    simp [this]

/-- R67: reading a register after a write of one: the written one holds the value where its frame holds it, every other register of the frame and every g register keep theirs. -/
theorem Warp.reg_setReg (w : Warp) (fid r q : Nat) (v : RVal) (h : r < 56 → ∃ f, w.frame? fid = some f ∧ r < f.regs.length) :
    (w.setReg fid r v).reg fid q = if q = r then v else w.reg fid q := by
  unfold Warp.setReg Warp.reg
  by_cases hr : r < 56 <;> by_cases hq : q < 56 <;> simp only [hr, hq, if_true, if_false]
  · rw [Warp.updFrame_frame _ _ _ _ (by simp)]
    cases hf : w.frame? fid with
    | none => obtain ⟨f, e, _⟩ := h hr; simp [e] at hf
    | some f =>
      obtain ⟨g, e, hl⟩ := h hr
      obtain rfl : g = f := by simpa [e] using hf
      have := Warp.frame_id hf
      simp only [Option.map_some, this, beq_self_eq_true, if_true, List.getD_eq_getElem?_getD, List.getElem?_set]
      by_cases hqr : q = r
      · subst hqr; simp [hl]
      · simp [hqr, Ne.symm hqr]
  · have : q ≠ r := by omega
    simp [this, Warp.updFrame]
  · have : q ≠ r := by omega
    simp [this, Warp.frame?]
  · simp only [List.getD_eq_getElem?_getD, putAt_getD]
    have : (q - 56 = r - 56) ↔ q = r := by omega
    simp [this]

/-- R67: a write of a register leaves the registers of other frames alone. -/
theorem Warp.reg_setReg_other (w : Warp) (fid g r q : Nat) (v : RVal) (hg : g ≠ fid) (hr : r < 56) :
    (w.setReg fid r v).reg g q = w.reg g q := by
  unfold Warp.setReg Warp.reg
  simp only [hr, if_true]
  by_cases hq : q < 56 <;> simp only [hq, if_true, if_false]
  · rw [Warp.updFrame_frame _ _ _ _ (by simp)]
    cases hf : w.frame? g with
    | none => rfl
    | some f =>
      have := Warp.frame_id hf
      simp [this, hg]
  · simp [Warp.updFrame]

/-- The old value of the other register does not matter to a pair. -/
theorem Warp.reg_setReg_next (w : Warp) (fid r : Nat) (v : RVal) : (w.setReg fid r v).reg fid (r + 1) = w.reg fid (r + 1) :=
  Warp.reg_setReg_ne w fid r (r + 1) v (by omega)

/-- R102, R69: a running word whose registers lie in the frame has its own meaning. -/
theorem word_runs {s : State} {h : Hdr} {c : Cx} (hr : Runs s h c) {regs : List Nat} (hh : c.Holds regs) (k : Cx → State) :
    s.word h regs k = .next (k c) := by
  obtain ⟨hi, hs, hb, hw, he, hne, hf⟩ := hr
  unfold State.word
  rw [hi]
  simp only [hb, hw]
  rw [← he, if_neg hne]
  simp only [← hf]
  have hc : (⟨s, c.is, c.b, c.w, c.ex, c.fid⟩ : Cx) = c := by cases c; simp_all
  rw [hc, if_neg]
  intro hany
  rw [List.any_eq_true] at hany
  obtain ⟨r, hm, hr⟩ := hany
  simp only [Bool.and_eq_true, decide_eq_true_eq] at hr
  obtain ⟨f, hfr, hlt⟩ := hh r hm hr.1
  simp [hfr] at hr
  omega

/-- R102, R336: a word with no lane in Exec does nothing. -/
theorem word_empty {s : State} {h : Hdr} {i : Issue} {b : Block} {w : Warp} (hi : s.iss = some i)
    (hb : i.base.block? i.blk = some b) (hw : i.base.warp? i.blk i.warp = some w) (he : i.exec w h = 0)
    (regs : List Nat) (k : Cx → State) : s.word h regs k = .next s := by
  unfold State.word
  simp [hi, hb, hw, he]

/-- R69: a running word that names a register outside the frame traps FRAME, sub-cause 0x01. -/
theorem word_frame {s : State} {h : Hdr} {c : Cx} (hr : Runs s h c) {regs : List Nat} (hh : ¬ c.Holds regs) (k : Cx → State) :
    s.word h regs k = .next (c.trap 0x0B 1 0 0) := by
  obtain ⟨hi, hs, hb, hw, he, hne, hf⟩ := hr
  unfold State.word
  rw [hi]
  simp only [hb, hw]
  rw [← he, if_neg hne]
  simp only [← hf]
  have hc : (⟨s, c.is, c.b, c.w, c.ex, c.fid⟩ : Cx) = c := by cases c; simp_all
  rw [hc, if_pos]
  rw [List.any_eq_true]
  unfold Cx.Holds at hh
  simp only [Classical.not_forall] at hh
  obtain ⟨r, hm, hr, hno⟩ := hh
  refine ⟨r, hm, ?_⟩
  simp only [Bool.and_eq_true, decide_eq_true_eq, hr, true_and]
  cases hfr : c.w.frame? c.fid with
  | none => simp
  | some f => exact Nat.le_of_not_lt fun hlt => hno ⟨f, hfr, hlt⟩

theorem Warp.orFlags_zero (w : Warp) : w.orFlags 0 = w := by cases w; simp [Warp.orFlags]

theorem Warp.orFlags_reg (w : Warp) (k : Word) (fid r : Nat) : (w.orFlags k).reg fid r = w.reg fid r := rfl

/-- Two changes of one warp are one. -/
theorem updWarp_updWarp (m : Mach) (id w : Nat) (f g : Warp → Warp) (hf : ∀ x, (f x).num = x.num) :
    (m.updWarp id w f).updWarp id w g = m.updWarp id w fun x => g (f x) := by
  simp only [Mach.updWarp, Mach.updBlock, modWhere, Block.updWarp, List.map_map]
  congr 1
  apply List.map_congr_left
  intro b _
  by_cases hb : b.id == id
  · simp only [Function.comp, hb, if_true, List.map_map]
    congr 1
    apply List.map_congr_left
    intro x _
    by_cases hx : x.num = w
    · simp [hx, hf]
    · simp [hx]
  · simp [Function.comp, hb]

/-- The same change said differently. -/
theorem updWarp_congr (m : Mach) (id w : Nat) {f g : Warp → Warp} (h : ∀ x, f x = g x) : m.updWarp id w f = m.updWarp id w g := by
  have : f = g := funext h
  rw [this]

theorem Warp.setReg_num (w : Warp) (fid r : Nat) (v : RVal) : (w.setReg fid r v).num = w.num := by
  unfold Warp.setReg; split <;> rfl

theorem Warp.write_num (w : Warp) (W fid r : Nat) (ex live : Mask) (bits : Word) (v : RVal) :
    (w.write W fid r ex live bits v).num = w.num := Warp.setReg_num _ _ _ _

theorem Warp.setReg_orFlags (w : Warp) (fid r : Nat) (v : RVal) (k : Word) :
    (w.setReg fid r v).orFlags k = (w.orFlags k).setReg fid r v := by
  unfold Warp.setReg; split <;> rfl

theorem Warp.setPred_orFlags (w : Warp) (p : Nat) (ex v : Mask) (k : Word) :
    (w.setPred p ex v).orFlags k = (w.orFlags k).setPred p ex v := by
  unfold Warp.setPred; split <;> rfl

theorem Warp.setPred_num (w : Warp) (p : Nat) (ex v : Mask) : (w.setPred p ex v).num = w.num := by
  unfold Warp.setPred; split <;> rfl

theorem Cx.newVal_write (c : Cx) (r : Nat) (f : Nat → Word) (old v : RVal)
    (hv : ∀ l, l < c.W → c.ex.getLsbD l = true → v.get l = f l) :
    c.NewVal r f old (RVal.write c.W old c.ex (c.w.liveSet c.fid r) fullBits v) := by
  intro l hl
  obtain ⟨h1, h2⟩ := RVal.write_get c.W old c.ex (c.w.liveSet c.fid r) v l hl
  exact ⟨fun he => (h1 he).trans (hv l hl he), h2⟩

/-- R104: a short result, with the flags of the word. -/
theorem short_flags_sets (c : Cx) (d : BitVec 6) (v : RVal) (k : Word) (f : Nat → Word)
    (hv : ∀ l, l < c.W → c.ex.getLsbD l = true → v.get l = f l) :
    c.SetsReg (.next ((c.short d.toNat v).flags k).s) d k f := by
  refine ⟨fun w => RVal.write c.W (w.reg c.fid d.toNat) c.ex (c.w.liveSet c.fid d.toNat) fullBits v, ?_,
    fun w => c.newVal_write _ _ _ _ hv⟩
  simp only [Cx.short, Cx.flags, Cx.updW, Cx.upd, Cx.withWarp]
  rw [updWarp_updWarp _ _ _ _ _ (fun x => Warp.write_num _ _ _ _ _ _ _ _)]
  congr 2
  apply updWarp_congr
  intro x
  exact Warp.setReg_orFlags _ _ _ _ _

/-- R104: a short result of a word that raises no flag. -/
theorem short_sets (c : Cx) (d : BitVec 6) (v : RVal) (f : Nat → Word)
    (hv : ∀ l, l < c.W → c.ex.getLsbD l = true → v.get l = f l) :
    c.SetsReg (.next (c.short d.toNat v).s) d 0 f := by
  refine ⟨fun w => RVal.write c.W (w.reg c.fid d.toNat) c.ex (c.w.liveSet c.fid d.toNat) fullBits v, ?_,
    fun w => c.newVal_write _ _ _ _ hv⟩
  simp only [Cx.short, Cx.updW, Cx.upd, Cx.withWarp, Warp.orFlags_zero, Warp.write, Cx.W]

theorem pairVals_get (W : Nat) (srcs : List RVal) (f : Nat → BitVec 64) (hu : srcs.all RVal.isU = true → ∀ l, f l = f 0) :
    ∃ x y, pairVals W srcs f = [x, y] ∧ ∀ l, l < W → x.get l = lo32 (f l) ∧ y.get l = hi32 (f l) :=
  ⟨_, _, rfl, fun l h =>
    ⟨RVal.perLane_get W srcs (fun l => lo32 (f l)) l h fun hs => by rw [hu hs l],
     RVal.perLane_get W srcs (fun l => hi32 (f l)) l h fun hs => by rw [hu hs l]⟩⟩

/-- R68, R104: a short 64-bit result, with the flags of the word. -/
theorem short64_flags_sets (c : Cx) (d : BitVec 6) (srcs : List RVal) (k : Word) (f : Nat → BitVec 64)
    (hu : srcs.all RVal.isU = true → ∀ l, f l = f 0) : c.SetsPair (.next ((c.short64 d srcs f).flags k).s) d k f := by
  obtain ⟨x, y, hxy, hg⟩ := pairVals_get c.W srcs f hu
  refine ⟨fun w => RVal.write c.W (w.reg c.fid d.toNat) c.ex (c.w.liveSet c.fid d.toNat) fullBits x,
    fun w => RVal.write c.W (w.reg c.fid (d.toNat + 1)) c.ex (c.w.liveSet c.fid (d.toNat + 1)) fullBits y, ?_,
    fun w => ⟨c.newVal_write _ _ _ _ fun l hl _ => (hg l hl).1, c.newVal_write _ _ _ _ fun l hl _ => (hg l hl).2⟩⟩
  unfold Cx.short64
  rw [hxy]
  simp only [Cx.short, Cx.flags, Cx.updW, Cx.upd, Cx.withWarp, Cx.W]
  rw [updWarp_updWarp _ _ _ _ _ (fun x => Warp.write_num _ _ _ _ _ _ _ _), updWarp_updWarp _ _ _ _ _ (fun x => Warp.write_num _ _ _ _ _ _ _ _)]
  congr 2
  apply updWarp_congr
  intro w
  simp only [Warp.write]
  rw [Warp.reg_setReg_next]
  exact (Warp.setReg_orFlags _ _ _ _ _).trans (by rw [Warp.setReg_orFlags])

/-- R68, R104: a short 64-bit result. -/
theorem short64_sets (c : Cx) (d : BitVec 6) (srcs : List RVal) (f : Nat → BitVec 64)
    (hu : srcs.all RVal.isU = true → ∀ l, f l = f 0) : c.SetsPair (.next (c.short64 d srcs f).s) d 0 f := by
  obtain ⟨x, y, hxy, hg⟩ := pairVals_get c.W srcs f hu
  refine ⟨fun w => RVal.write c.W (w.reg c.fid d.toNat) c.ex (c.w.liveSet c.fid d.toNat) fullBits x,
    fun w => RVal.write c.W (w.reg c.fid (d.toNat + 1)) c.ex (c.w.liveSet c.fid (d.toNat + 1)) fullBits y, ?_,
    fun w => ⟨c.newVal_write _ _ _ _ fun l hl _ => (hg l hl).1, c.newVal_write _ _ _ _ fun l hl _ => (hg l hl).2⟩⟩
  unfold Cx.short64
  rw [hxy]
  simp only [Cx.short, Cx.updW, Cx.upd, Cx.withWarp, Cx.W, Warp.orFlags_zero]
  rw [updWarp_updWarp _ _ _ _ _ (fun x => Warp.write_num _ _ _ _ _ _ _ _)]
  congr 2
  apply updWarp_congr
  intro w
  simp only [Warp.write]
  rw [Warp.reg_setReg_next]

/-- R104: a short predicate result, with the flags of the word. -/
theorem pred_flags_sets (c : Cx) (p : BitVec 3) (v : Mask) (k : Word) (f : Nat → Bool)
    (hv : ∀ l, c.ex.getLsbD l = true → v.getLsbD l = f l) : c.SetsPred (.next ((c.shortPred p.toNat v).flags k).s) p k f := by
  refine ⟨v, ?_, hv⟩
  simp only [Cx.shortPred, Cx.flags, Cx.updW, Cx.upd, Cx.withWarp]
  rw [updWarp_updWarp _ _ _ _ _ (fun x => Warp.setPred_num _ _ _ _)]
  congr 2
  apply updWarp_congr
  intro x
  exact Warp.setPred_orFlags _ _ _ _ _

/-- R104: a short predicate result of a word that raises no flag. -/
theorem pred_sets (c : Cx) (p : BitVec 3) (v : Mask) (f : Nat → Bool)
    (hv : ∀ l, c.ex.getLsbD l = true → v.getLsbD l = f l) : c.SetsPred (.next (c.shortPred p.toNat v).s) p 0 f := by
  refine ⟨v, ?_, hv⟩
  simp only [Cx.shortPred, Cx.updW, Cx.upd, Cx.withWarp, Warp.orFlags_zero]

/-- A lane of Exec is below 64. -/
theorem lane_lt {m : Mask} {l : Nat} (h : m.getLsbD l = true) : l < 64 := by
  apply Classical.byContradiction
  intro hn
  rw [BitVec.getLsbD_of_ge m l (by omega)] at h
  cases h

theorem maskOf_lane (p : Nat → Bool) {m : Mask} {l : Nat} (h : m.getLsbD l = true) : (maskOf p).getLsbD l = p l := by
  rw [maskOf_getLsbD]; simp [lane_lt h]

/-- The entry a word enters. -/
def Cx.mkEntry (c : Cx) (dests : List Dest) (pend : Pend) (vals : List RVal) (acq : Bool) (waits : List Nat) (w : Warp) : Entry :=
  { seq := w.nextSeq, word := c.is.word, pfx := c.is.pfx, pc := c.is.here, exec := c.ex,
    live := (match dests with | .reg r f _ :: _ => c.w.liveSet f r | _ => c.w.liveLanes),
    dests := dests, pend := pend, acq := acq, waits := waits, done := false, vals := vals, fail := 0, polls := [], fault := none,
    held := false }

theorem Cx.mkEntry_new (c : Cx) (dests : List Dest) (pend : Pend) (vals : List RVal) (acq : Bool) (waits : List Nat) (w : Warp) :
    c.NewEntry w.nextSeq (c.mkEntry dests pend vals acq waits w) :=
  ⟨rfl, rfl, rfl, rfl, rfl, rfl, rfl, rfl, rfl, rfl⟩

/-- R105: what entering a return-buffer entry does: one entry more, with the results known at issue. -/
theorem enter_state (c : Cx) (dests : List Dest) (pend : Pend) (vals : List RVal) (acq : Bool) (waits : List Nat) :
    (c.enter dests pend vals acq waits).s = c.withWarp fun w => w.push (c.mkEntry dests pend vals acq waits w) := rfl

/-- The same with the flags of the word. -/
theorem enter_flags_state (c : Cx) (dests : List Dest) (pend : Pend) (vals : List RVal) (acq : Bool) (waits : List Nat) (k : Word) :
    ((c.enter dests pend vals acq waits).flags k).s =
      c.withWarp fun w => (w.orFlags k).push (c.mkEntry dests pend vals acq waits w) := by
  simp only [Cx.enter, Cx.flags, Cx.updW, Cx.upd, Cx.withWarp]
  rw [updWarp_updWarp]
  · rfl
  · intro x; rfl

/-- R104, R105: a long result known at issue, with the flags of the word. -/
theorem long_flags_enters (c : Cx) (d : BitVec 6) (vs : List RVal) (k : Word) (fs : List (Nat → Word)) (hn : vs.length = fs.length)
    (hv : ∀ i f, fs[i]? = some f → ∀ l, l < c.W → c.ex.getLsbD l = true → (vs.getD i (.u 0)).get l = f l) :
    c.Enters (.next ((c.long d.toNat vs).flags k).s) d k fs :=
  ⟨_, by rw [Cx.long, enter_flags_state], fun w => ⟨c.mkEntry_new _ _ _ _ _ w, rfl, by rw [← hn]; rfl, hn, hv⟩⟩

/-- R104, R105: a long result known at issue. -/
theorem long_enters (c : Cx) (d : BitVec 6) (vs : List RVal) (fs : List (Nat → Word)) (hn : vs.length = fs.length)
    (hv : ∀ i f, fs[i]? = some f → ∀ l, l < c.W → c.ex.getLsbD l = true → (vs.getD i (.u 0)).get l = f l) :
    c.Enters (.next (c.long d.toNat vs).s) d 0 fs :=
  ⟨c.mkEntry ((List.range vs.length).map fun i => .reg (d.toNat + i) c.fid fullBits) .value vs false [],
    by rw [Cx.long, enter_state]; simp only [Warp.orFlags_zero],
    fun w => ⟨c.mkEntry_new _ _ _ _ _ w, rfl, by rw [← hn]; rfl, hn, hv⟩⟩

end Sys2Proof.Machine
end

