-- ==== Sys2Proof/Laws/Integer.lean ====
section
/-! SUPPORT. What the integer operations compute, bit by bit, and the words built of them. -/

namespace Sys2Proof.Machine

/-- The lanes of the second operand. -/
theorem opB_get (c : Cx) (b : BitVec 6) (m : Bool) (l : Nat) : (c.opB b m).get l = c.second b m l := by
  cases m <;> rfl

/-- A two-source word. -/
theorem map2_sets (c : Cx) (d : BitVec 6) (x y : RVal) (g : Word → Word → Word) :
    c.SetsReg (.next (c.map2 d x y g).s) d 0 fun l => g (x.get l) (y.get l) := by
  apply short_sets
  intro l hl _
  apply RVal.perLane_get _ _ (fun l => g (x.get l) (y.get l)) l hl
  intro hu
  simp only [List.all_cons, List.all_nil, Bool.and_true, Bool.and_eq_true] at hu
  rw [RVal.get_of_isU hu.1 l, RVal.get_of_isU hu.2 l]

/-- A one-source word. -/
theorem map1_sets (c : Cx) (d : BitVec 6) (x : RVal) (g : Word → Word) :
    c.SetsReg (.next (c.map1 d x g).s) d 0 fun l => g (x.get l) := by
  apply short_sets
  intro l hl _
  apply RVal.perLane_get _ _ (fun l => g (x.get l)) l hl
  intro hu
  simp only [List.all_cons, List.all_nil, Bool.and_true] at hu
  rw [RVal.get_of_isU hu l]

/-- A word of three sources. -/
theorem map3_get (W : Nat) (x y z : RVal) (g : Word → Word → Word → Word) (l : Nat) (h : l < W) :
    (RVal.perLane W [x, y, z] fun l => g (x.get l) (y.get l) (z.get l)).get l = g (x.get l) (y.get l) (z.get l) := by
  apply RVal.perLane_get _ _ (fun l => g (x.get l) (y.get l) (z.get l)) l h
  intro hu
  simp only [List.all_cons, List.all_nil, Bool.and_true, Bool.and_eq_true] at hu
  rw [RVal.get_of_isU hu.1 l, RVal.get_of_isU hu.2.1 l, RVal.get_of_isU hu.2.2 l]

theorem RVal.line_get {v : RVal} {p : Word × Word} (h : v.line = some p) (l : Nat) : v.get l = p.1 + BitVec.ofNat 32 l * p.2 := by
  cases v <;> simp_all [RVal.line, RVal.get]
  · obtain rfl := h; simp
  · obtain rfl := h; simp

/-- R73: the affine sum of a U or A value. -/
theorem RVal.add_get (W : Nat) (x y : RVal) (l : Nat) (h : l < W) : (RVal.addLike W (fun p q => p + q) x y).get l = x.get l + y.get l := by
  unfold RVal.addLike
  split
  · rename_i b s b' s' hx hy
    rw [RVal.affine_get, RVal.line_get hx, RVal.line_get hy]
    simp only [BitVec.mul_add]
    ac_rfl
  · rw [RVal.lanes_get _ _ _ h]

theorem RVal.sub_get (W : Nat) (x y : RVal) (l : Nat) (h : l < W) : (RVal.addLike W (fun p q => p - q) x y).get l = x.get l - y.get l := by
  unfold RVal.addLike
  split
  · rename_i b s b' s' hx hy
    rw [RVal.affine_get, RVal.line_get hx, RVal.line_get hy]
    simp only [BitVec.sub_eq_add_neg, BitVec.mul_add, BitVec.neg_add, BitVec.mul_neg]
    ac_rfl
  · rw [RVal.lanes_get _ _ _ h]

theorem RVal.mul_get (W : Nat) (x y : RVal) (l : Nat) (h : l < W) : (RVal.mulLike W x y).get l = x.get l * y.get l := by
  unfold RVal.mulLike
  split
  · rfl
  · rw [RVal.affine_get]; simp only [RVal.get, BitVec.add_mul]; ac_rfl
  · rw [RVal.affine_get]; simp only [RVal.get, BitVec.mul_add]; ac_rfl
  · rw [RVal.lanes_get _ _ _ h]

theorem shlWord_eq (x n : Word) : shlWord x n = x <<< n.toNat := by
  unfold shlWord
  split
  · rw [BitVec.shiftLeft_eq_zero (by omega)]; rfl
  · rfl

theorem RVal.shl_get (W : Nat) (x y : RVal) (l : Nat) (h : l < W) : (RVal.shlLike W x y).get l = x.get l <<< (y.get l).toNat := by
  unfold RVal.shlLike
  split
  · exact shlWord_eq _ _
  · rw [RVal.affine_get]
    simp only [RVal.get, shlWord_eq]
    simp only [BitVec.shiftLeft_eq_mul_twoPow, BitVec.add_mul]
    rw [BitVec.mul_assoc]
  · rw [RVal.lanes_get _ _ _ h, shlWord_eq]

theorem satN32_eq (t : Int) : BitVec.ofNat 32 (satN32 t) = saturate true t := by
  simp only [satN32, saturate, wrap, if_true]
  apply BitVec.eq_of_toNat_eq
  rw [BitVec.toNat_ofNat, BitVec.toNat_ofInt]
  split
  · omega
  · split <;> omega

theorem satI32_eq (t : Int) : BitVec.ofNat 32 (satI32 t) = saturate false t := by
  simp only [satI32, saturate, wrap, Bool.false_eq_true, if_false]
  apply BitVec.eq_of_toNat_eq
  rw [BitVec.toNat_ofNat, BitVec.toNat_ofInt]
  split
  · omega
  · split <;> omega

/-- R372: the saturated sum or difference. -/
theorem addSat_eq (sub uns : Bool) (x y : Word) :
    addSat sub uns x y = saturate uns (if sub then numberOf uns x - numberOf uns y else numberOf uns x + numberOf uns y) := by
  unfold addSat
  cases uns
  · exact satI32_eq _
  · exact satN32_eq _

theorem mulHigh_eq (uns : Bool) (x y : Word) : mulHigh uns x y = BitVec.ofInt 32 (numberOf uns x * numberOf uns y / 2 ^ 32) := rfl

theorem minMaxWord_min (uns : Bool) (x y : Word) : minMaxWord false uns x y = if numberOf uns x < numberOf uns y then x else y := by
  unfold minMaxWord numberOf
  cases uns <;> simp

theorem minMaxWord_max (uns : Bool) (x y : Word) : minMaxWord true uns x y = if numberOf uns x < numberOf uns y then y else x := by
  unfold minMaxWord numberOf
  cases uns <;> simp only [Bool.false_eq_true, if_true, if_false, bne_iff_ne, ne_eq, decide_eq_true_eq, Int.ofNat_lt]
  · by_cases h : x.toInt < y.toInt <;> simp [h]
  · by_cases h : x.toNat < y.toNat <;> simp [h]

theorem shr_eq (x n : Word) : (if 32 ≤ n.toNat then 0 else x >>> n.toNat) = x >>> n.toNat := by
  split
  · rw [BitVec.ushiftRight_eq_zero (by omega)]; rfl
  · rfl

theorem sar_eq (x n : Word) : x.sshiftRight (min n.toNat 31) = x.sshiftRight n.toNat := by
  by_cases h : n.toNat ≤ 31
  · rw [Nat.min_eq_left h]
  · apply BitVec.eq_of_getLsbD_eq
    intro i hi
    simp only [BitVec.getLsbD_sshiftRight]
    have h31 : min n.toNat 31 = 31 := by omega
    rw [h31]
    have h1 : ¬ n.toNat + i < 32 := by omega
    by_cases h0 : i = 0
    · subst h0
      rw [if_neg h1]
      simp [BitVec.msb_eq_getLsbD_last]
    · have h2 : ¬ 31 + i < 32 := by omega
      rw [if_neg h1, if_neg h2]

/-- R342: the effective width of a bit field. -/
theorem fieldOf_width (k : Word) : (fieldOf k).2 = min (k.extractLsb' 8 8).toNat (32 - (k.extractLsb' 0 8).toNat) := by
  unfold fieldOf; simp only; split <;> omega

theorem fieldOf_pos (k : Word) : (fieldOf k).1 = (k.extractLsb' 0 8).toNat := rfl

end Sys2Proof.Machine
end

