-- ==== Sys2Proof/Laws/Bits.lean ====
section
/-! SUPPORT. The bits of the results of LOP3, POPC, CLZ, BREV, BFX and BFI. -/

namespace Sys2Proof.Machine

/-- R382: a bit of LOP3's result is the truth table's entry for the three source bits. -/
theorem lop3Word_bit (tt : Nat) (x y z : Word) (i : Nat) (h : i < 32) :
    (lop3Word tt x y z).getLsbD i = tt.testBit ((x.getLsbD i).toNat + 2 * (y.getLsbD i).toNat + 4 * (z.getLsbD i).toNat) := by
  unfold lop3Word
  simp only [List.foldl_cons, List.foldl_nil, BitVec.getLsbD_or]
  have hand (b : Bool) (w : Word) : (if b = true then w else 0).getLsbD i = (b && w.getLsbD i) := by cases b <;> simp
  simp only [hand, BitVec.getLsbD_and, BitVec.getLsbD_not, h, decide_true, Bool.true_and, Bool.false_eq_true, if_false, if_true]
  generalize x.getLsbD i = p
  generalize y.getLsbD i = q
  generalize z.getLsbD i = r
  cases p <;> cases q <;> cases r <;> simp

/-- R343. -/
theorem popcWord_toNat (x : Word) : (popcWord x).toNat = (List.range 32).countP fun i => x.getLsbD i := by
  unfold popcWord
  have : (List.range 32).countP (fun i => x.getLsbD i) ≤ 32 := by
    simpa using List.countP_le_length (p := fun i => x.getLsbD i) (l := List.range 32)
  rw [BitVec.toNat_ofNat]
  omega

theorem bitLen_le (x : Word) : bitLen x.toNat ≤ 32 := by
  unfold bitLen
  split
  · omega
  · have := (Nat.log2_lt ‹_›).2 x.isLt
    omega

/-- R343: no bit of a number at or above its length is 1, and the one below is. -/
theorem bitLen_bits (x : Word) : (∀ i, bitLen x.toNat ≤ i → x.getLsbD i = false) ∧
    (0 < bitLen x.toNat → x.getLsbD (bitLen x.toNat - 1) = true) := by
  unfold bitLen
  split
  · rename_i h0
    have : x = 0 := BitVec.eq_of_toNat_eq (by simpa using h0)
    subst this
    simp
  · rename_i h0
    constructor
    · intro i hi
      rw [← BitVec.testBit_toNat]
      exact Nat.testBit_lt_two_pow (Nat.lt_of_lt_of_le Nat.lt_log2_self (Nat.pow_le_pow_right (by omega) hi))
    · intro _
      rw [← BitVec.testBit_toNat, Nat.add_sub_cancel]
      exact Nat.testBit_log2 h0

theorem clzWord_toNat (x : Word) : (clzWord x).toNat = 32 - bitLen x.toNat := by
  unfold clzWord
  rw [BitVec.toNat_ofNat]
  omega

theorem foldl_setBits (n : Nat) (p : Nat → Bool) (k : Word) (i : Nat) :
    ((List.range n).foldl (fun k i => if p i then k ||| BitVec.ofNat 32 (2 ^ i) else k) k).getLsbD i =
      (k.getLsbD i || (decide (i < n) && decide (i < 32) && p i)) := by
  induction n with
  | zero => simp
  | succ n ih =>
    rw [List.range_succ, List.foldl_append]
    simp only [List.foldl_cons, List.foldl_nil]
    by_cases hp : p n = true
    · simp only [hp, if_true, BitVec.getLsbD_or, ih, BitVec.getLsbD_ofNat, Nat.testBit_two_pow]
      by_cases hi : i = n
      · subst hi; simp [hp]
      · have h2 : ¬ n = i := by omega
        have h3 : (i < n + 1) ↔ i < n := by omega
        simp [h2, h3]
    · simp only [hp, Bool.false_eq_true, if_false, ih]
      by_cases hi : i = n
      · subst hi; simp [hp]
      · have h3 : (i < n + 1) ↔ i < n := by omega
        simp [h3]

/-- R343. -/
theorem brevWord_bit (x : Word) (i : Nat) (h : i < 32) : (brevWord x).getLsbD i = x.getLsbD (31 - i) := by
  unfold brevWord
  rw [foldl_setBits]
  simp [h]

/-- R342: BFX takes its field and fills above it with zeros or the field's top bit. -/
theorem bfxWord_bit (sign : Bool) (x k : Word) (i : Nat) (h : i < 32) :
    (bfxWord sign x k).getLsbD i =
      if i < (fieldOf k).2 then x.getLsbD ((fieldOf k).1 + i)
      else sign && decide (0 < (fieldOf k).2) && x.getLsbD ((fieldOf k).1 + (fieldOf k).2 - 1) := by
  unfold bfxWord
  have hfit : (fieldOf k).1 + (fieldOf k).2 ≤ 32 ∨ (fieldOf k).2 = 0 := by
    have h1 := fieldOf_width k
    have h2 := fieldOf_pos k
    omega
  revert hfit
  generalize fieldOf k = f
  obtain ⟨p, w⟩ := f
  intro hfit
  simp only at hfit ⊢
  by_cases h0 : w = 0
  · simp [h0]
  · have hw0 : 0 < w := by omega
    have hbit (j : Nat) : (x.toNat / 2 ^ p % 2 ^ w).testBit j = (decide (j < w) && x.getLsbD (p + j)) := by
      rw [Nat.testBit_mod_two_pow, Nat.testBit_div_two_pow, BitVec.testBit_toNat, Nat.add_comm]
    rw [if_neg h0]
    cases sign
    · simp only [Bool.false_eq_true, if_false, Bool.false_and]
      rw [BitVec.getLsbD_ofNat, hbit]
      by_cases hi : i < w <;> simp [hi, h]
    · simp only [if_true, hw0, decide_true, Bool.true_and]
      have htop : x.getLsbD (p + w - 1) = (x.toNat / 2 ^ p % 2 ^ w).testBit (w - 1) := by
        rw [hbit]
        have : w - 1 < w := by omega
        simp [this, Nat.add_sub_assoc (by omega : 1 ≤ w)]
      rw [htop]
      have hb : (x.toNat / 2 ^ p % 2 ^ w).testBit i = (decide (i < w) && x.getLsbD (p + i)) := hbit i
      have hlt : x.toNat / 2 ^ p % 2 ^ w < 2 ^ w := Nat.mod_lt _ (Nat.two_pow_pos w)
      revert hb hlt
      generalize x.toNat / 2 ^ p % 2 ^ w = v
      intro hb hlt
      have hpow : 2 ^ w = 2 * 2 ^ (w - 1) := by rw [← Nat.pow_succ']; congr 1; omega
      have hvtop : v.testBit (w - 1) = decide (2 ^ (w - 1) ≤ v) := by
        by_cases hle : 2 ^ (w - 1) ≤ v
        · simp [hle, Nat.testBit_eq_decide_div_mod_eq]
          have : v / 2 ^ (w - 1) = 1 := Nat.div_eq_of_lt_le (by omega) (by omega)
          rw [this]
        · rw [Nat.testBit_lt_two_pow (by omega)]; simp [hle]
      rw [hvtop]
      have h32 : 2 ^ 32 = 2 ^ w * 2 ^ (32 - w) := by rw [← Nat.pow_add]; congr 1; omega
      unfold wrap signed
      rw [Nat.mod_eq_of_lt hlt]
      by_cases hle : 2 ^ (w - 1) ≤ v
      · have hneg : ¬ v < 2 ^ (w - 1) := by omega
        rw [if_neg hneg]
        have hval : (((v : Nat) : Int) - ((2 ^ w : Nat) : Int)) % ((2 ^ 32 : Nat) : Int) = ((2 ^ w * (2 ^ (32 - w) - 1) + v : Nat) : Int) := by
          have h1 : 2 ^ w * (2 ^ (32 - w) - 1) + 2 ^ w = 2 ^ 32 := by
            rw [h32, Nat.mul_sub, Nat.mul_one, Nat.sub_add_cancel]
            exact Nat.le_mul_of_pos_right _ (Nat.two_pow_pos _)
          omega
        rw [hval, Int.toNat_natCast, BitVec.getLsbD_ofNat, Nat.testBit_two_pow_mul_add _ hlt]
        by_cases hi : i < w
        · simp [h, hi, hb]
        · have : i - w < 32 - w := by omega
          simp [h, hi, hle, Nat.testBit_two_pow_sub_one, this]
      · rw [if_pos (by omega)]
        have hval : ((v : Nat) : Int) % ((2 ^ 32 : Nat) : Int) = ((v : Nat) : Int) := by
          have : v < 2 ^ 32 := Nat.lt_of_lt_of_le hlt (Nat.pow_le_pow_right (by omega) (by omega))
          omega
        rw [hval, Int.toNat_natCast, BitVec.getLsbD_ofNat, hb]
        by_cases hi : i < w <;> simp [h, hi, hle]

/-- R342: BFI places its field and keeps the other bits. -/
theorem bfiWord_bit (x k old : Word) (i : Nat) (h : i < 32) :
    (bfiWord x k old).getLsbD i =
      if (fieldOf k).1 ≤ i ∧ i < (fieldOf k).1 + (fieldOf k).2 then x.getLsbD (i - (fieldOf k).1) else old.getLsbD i := by
  unfold bfiWord
  have hfit : (fieldOf k).1 + (fieldOf k).2 ≤ 32 ∨ (fieldOf k).2 = 0 := by
    have h1 := fieldOf_width k
    have h2 := fieldOf_pos k
    omega
  revert hfit
  generalize fieldOf k = f
  obtain ⟨p, w⟩ := f
  intro hfit
  simp only at hfit ⊢
  have hmask : (BitVec.ofNat 32 (if w = 0 then 0 else (2 ^ w - 1) * 2 ^ p)).getLsbD i = decide (p ≤ i ∧ i < p + w) := by
    rw [BitVec.getLsbD_ofNat]
    by_cases h0 : w = 0
    · simp [h0]
    · rw [if_neg h0, Nat.mul_comm, Nat.testBit_two_pow_mul, Nat.testBit_two_pow_sub_one]
      simp only [h, decide_true, Bool.true_and]
      by_cases hp : p ≤ i <;> simp [hp]
      omega
  simp only [BitVec.getLsbD_or, BitVec.getLsbD_and, BitVec.getLsbD_not, hmask, BitVec.getLsbD_shiftLeft, h, decide_true, Bool.true_and]
  by_cases hc : p ≤ i ∧ i < p + w
  · have : ¬ i < p := by omega
    simp [hc, this]
  · simp [hc]

end Sys2Proof.Machine
end

