-- ==== Sys2Proof/Laws/Memory.lean ====
section
/-! SUPPORT. The laws of the sparse memory: what a read gives after a store, and that every memory operation keeps the canonical form (log entry 1). -/

namespace Sys2Proof.Machine

theorem above_mono (lo hi : Nat) (h : lo ≤ hi) (mem : Memory) (hm : Memory.above hi mem = true) : Memory.above lo mem = true := by
  cases mem with
  | nil => rfl
  | cons c rest =>
    simp only [Memory.above, Bool.and_eq_true, decide_eq_true_eq] at hm ⊢
    exact ⟨⟨Nat.le_trans h hm.1.1, hm.1.2⟩, hm.2⟩

/-- Below every listed address memory reads as unlisted. -/
theorem get_below (mem : Memory) (lo a : Nat) (hm : Memory.above lo mem = true) (h : a < lo) : mem.get a = unlisted := by
  induction mem generalizing lo with
  | nil => rfl
  | cons c rest ih =>
    simp only [Memory.above, Bool.and_eq_true, decide_eq_true_eq] at hm
    have hne : c.1 ≠ a := by omega
    simp only [Memory.get, hne, if_false]
    exact ih (c.1 + 1) hm.2 (by omega)

/-- A store above a bound keeps the form above it. -/
theorem set_above (mem : Memory) (lo a : Nat) (b : Byte) (hm : Memory.above lo mem = true) (h : lo ≤ a) : Memory.above lo (mem.set a b) = true := by
  induction mem generalizing lo with
  | nil => unfold Memory.set; split <;> simp_all [Memory.above]
  | cons c rest ih =>
    obtain ⟨k, v⟩ := c
    have hm' := hm
    simp only [Memory.above, Bool.and_eq_true, decide_eq_true_eq] at hm
    unfold Memory.set
    split
    · rename_i hk
      subst hk
      split
      · exact above_mono _ _ (by omega) _ hm.2
      · rename_i hb; simp [Memory.above, h, hb, hm.2]
    · split
      · split
        · exact hm'
        · rename_i hlt hb
          have : a + 1 ≤ k := by omega
          simp [Memory.above, h, hb, hm.2, hm.1.2, this]
      · have hlt : k + 1 ≤ a := by omega
        simp only [Memory.above, Bool.and_eq_true, decide_eq_true_eq]
        exact ⟨hm.1, ih (k + 1) hm.2 hlt⟩

/-- A store keeps the canonical form. -/
theorem set_wf (mem : Memory) (a : Nat) (b : Byte) (h : mem.wf = true) : (mem.set a b).wf = true :=
  set_above mem 0 a b h (Nat.zero_le a)

theorem setCells_wf (mem : Memory) (cs : List Host.Cell) (h : mem.wf = true) : (mem.setCells cs).wf = true := by
  unfold Memory.setCells
  induction cs generalizing mem with
  | nil => exact h
  | cons c cs ih => exact ih (mem.set c.1 c.2) (set_wf mem c.1 c.2 h)

/-- A read after a store: the stored byte at its address, the old byte elsewhere. -/
theorem get_set_above (mem : Memory) (lo a x : Nat) (b : Byte) (hm : Memory.above lo mem = true) :
    (mem.set a b).get x = if x = a then b else mem.get x := by
  induction mem generalizing lo with
  | nil =>
    unfold Memory.set; split
    · rename_i hb; subst hb; simp [Memory.get]
    · simp only [Memory.get]; split <;> split <;> first | rfl | omega
  | cons c rest ih =>
    obtain ⟨k, v⟩ := c
    simp only [Memory.above, Bool.and_eq_true, decide_eq_true_eq] at hm
    have hbelow : ∀ y, y < k + 1 → Memory.get rest y = unlisted := fun y hy => get_below rest (k + 1) y hm.2 hy
    unfold Memory.set
    split
    · rename_i hk
      subst hk
      split
      · rename_i hb
        by_cases hx : x = k
        · subst hx; simp [hb, hbelow x (by omega)]
        · simp only [Memory.get, if_neg (Ne.symm hx), if_neg hx]
      · by_cases hx : x = k
        · subst hx; simp [Memory.get]
        · simp only [Memory.get, if_neg (Ne.symm hx), if_neg hx]
    · rename_i hk
      split
      · rename_i hlt
        have hn : Memory.get ((k, v) :: rest) a = unlisted := by
          simp only [Memory.get, if_neg hk]; exact hbelow a (by omega)
        split
        · rename_i hb
          by_cases hx : x = a
          · subst hx; rw [hn]; simp [hb]
          · simp [hx]
        · by_cases hx : x = a
          · subst hx; simp [Memory.get]
          · simp only [if_neg hx]
            conv => lhs; unfold Memory.get
            simp only [if_neg (Ne.symm hx)]
      · simp only [Memory.get]
        by_cases hx : k = x
        · have : x ≠ a := by omega
          simp [hx, this]
        · simp only [if_neg hx]
          exact ih (k + 1) hm.2

theorem get_set (mem : Memory) (a x : Nat) (b : Byte) (h : mem.wf = true) : (mem.set a b).get x = if x = a then b else mem.get x :=
  get_set_above mem 0 a x b h

/-- A store of cells leaves every other address alone. -/
theorem get_setCells_other (mem : Memory) (cs : List Host.Cell) (x : Nat) (h : mem.wf = true) (hx : ∀ c ∈ cs, c.1 ≠ x) : (mem.setCells cs).get x = mem.get x := by
  unfold Memory.setCells
  induction cs generalizing mem with
  | nil => rfl
  | cons c cs ih =>
    rw [List.foldl_cons, ih (mem.set c.1 c.2) (set_wf mem c.1 c.2 h) (fun d hd => hx d (List.mem_cons_of_mem c hd)), get_set mem c.1 x c.2 h,
      if_neg (fun e => hx c List.mem_cons_self e.symm)]

/-- The address of byte i of consecutive bytes. -/
theorem mem_cellsFrom (a : Nat) (bs : List Byte) (c : Host.Cell) : c ∈ cellsFrom a bs ↔ ∃ i, bs[i]? = some c.2 ∧ c.1 = a + i := by
  simp only [cellsFrom, List.mem_map, List.mem_zipIdx_iff_getElem?]
  constructor
  · rintro ⟨p, hp, rfl⟩; exact ⟨p.2, hp, rfl⟩
  · rintro ⟨i, hi, hc⟩; exact ⟨(c.2, i), hi, by rw [← hc]⟩

/-- R334: taking a sector under another key changes memory and the sector's key, and keeps the form. -/
theorem rekey_eq (m : Mach) (k s : Nat) (h : m.mem.wf = true) : ∃ mem ks, m.rekey k s = { m with mem := mem, sealKeys := ks } ∧ mem.wf = true := by
  unfold Mach.rekey; split
  · exact ⟨m.mem, m.sealKeys, rfl, h⟩
  · exact ⟨_, _, rfl, setCells_wf _ _ h⟩

theorem rekeys_eq (k : Nat) (ss : List Nat) (m : Mach) (h : m.mem.wf = true) :
    ∃ mem ks, ss.foldl (fun m s => m.rekey k s) m = { m with mem := mem, sealKeys := ks } ∧ mem.wf = true := by
  induction ss generalizing m with
  | nil => exact ⟨m.mem, m.sealKeys, rfl, h⟩
  | cons s ss ih =>
    obtain ⟨mem, ks, e, w⟩ := rekey_eq m k s h
    rw [List.foldl_cons, e]
    exact ih { m with mem := mem, sealKeys := ks } w

/-- A write of bytes changes memory and the keys of its sectors, and keeps the form. -/
theorem putCells_eq (m : Mach) (cs : List Host.Cell) (h : m.mem.wf = true) :
    ∃ mem ks, m.putCells cs = { m with mem := mem, sealKeys := ks } ∧ mem.wf = true := by
  unfold Mach.putCells
  generalize (cs.map fun c => keyCrypt c.1).eraseDups = ids
  induction ids generalizing m with
  | nil => exact ⟨m.mem, m.sealKeys, rfl, h⟩
  | cons k rest ih =>
    obtain ⟨mem, ks, e, w⟩ := rekeys_eq k (((cs.filter fun c => keyCrypt c.1 == k).map fun c => sectorOf c.1).eraseDups) m h
    rw [List.foldl_cons]
    simp only [e]
    exact ih { m with mem := mem.setCells ((cs.filter fun c => keyCrypt c.1 == k).map fun c => (plainKey c.1, c.2)), sealKeys := ks } (setCells_wf _ _ w)

theorem putCells_wf (m : Mach) (cs : List Host.Cell) (h : m.mem.wf = true) : (m.putCells cs).mem.wf = true := by
  obtain ⟨mem, ks, e, w⟩ := putCells_eq m cs h
  rw [e]; exact w

theorem hostWrite_wf (m : Mach) (a : Nat) (bs : List Byte) (h : m.mem.wf = true) : (m.hostWrite a bs).mem.wf = true := putCells_wf _ _ h

/-- R172: caching the entries of a walk changes the cached entries alone. -/
theorem cacheWalk_eq (m : Mach) (c va : Nat) : ∃ ts, m.cacheWalk c va = { m with tlb := ts } := by
  unfold Mach.cacheWalk; split
  · exact ⟨m.tlb, rfl⟩
  · exact ⟨_, rfl⟩

/-- R145: setting the accessed and dirty bits keeps the form. -/
theorem touch_wf (m : Mach) (pte : PteRef) (w : Bool) (h : m.mem.wf = true) : (m.touch pte w).mem.wf = true := by
  obtain ⟨ts, e⟩ := cacheWalk_eq m pte.ctx pte.va
  exact putCells_wf _ _ (by rw [e]; exact h)

theorem reset_wf : State.reset.m.mem.wf = true := rfl

end Sys2Proof.Machine
end

