-- ==== Sys2Proof/Laws/State.lean ====
section
/-! SUPPORT. The fields of the machine under each named update: one lemma per field, true by rfl, so that a later proof unfolds no record update; and what an update does to the object it names. -/

namespace Sys2Proof.Machine

@[simp] theorem Mach.updBlock_clock (m : Mach) (id : Nat) (f : Block → Block) : (m.updBlock id f).clock = m.clock := rfl
@[simp] theorem Mach.updBlock_bootState (m : Mach) (id : Nat) (f : Block → Block) : (m.updBlock id f).bootState = m.bootState := rfl
@[simp] theorem Mach.updBlock_bootStep (m : Mach) (id : Nat) (f : Block → Block) : (m.updBlock id f).bootStep = m.bootStep := rfl
@[simp] theorem Mach.updBlock_bootReason (m : Mach) (id : Nat) (f : Block → Block) : (m.updBlock id f).bootReason = m.bootReason := rfl
@[simp] theorem Mach.updBlock_rmap (m : Mach) (id : Nat) (f : Block → Block) : (m.updBlock id f).rmap = m.rmap := rfl
@[simp] theorem Mach.updBlock_pubBody (m : Mach) (id : Nat) (f : Block → Block) : (m.updBlock id f).pubBody = m.pubBody := rfl
@[simp] theorem Mach.updBlock_pubVer (m : Mach) (id : Nat) (f : Block → Block) : (m.updBlock id f).pubVer = m.pubVer := rfl
@[simp] theorem Mach.updBlock_booting (m : Mach) (id : Nat) (f : Block → Block) : (m.updBlock id f).booting = m.booting := rfl
@[simp] theorem Mach.updBlock_hostCap (m : Mach) (id : Nat) (f : Block → Block) : (m.updBlock id f).hostCap = m.hostCap := rfl
@[simp] theorem Mach.updBlock_boardCap (m : Mach) (id : Nat) (f : Block → Block) : (m.updBlock id f).boardCap = m.boardCap := rfl
@[simp] theorem Mach.updBlock_rateNow (m : Mach) (id : Nat) (f : Block → Block) : (m.updBlock id f).rateNow = m.rateNow := rfl
@[simp] theorem Mach.updBlock_temp (m : Mach) (id : Nat) (f : Block → Block) : (m.updBlock id f).temp = m.temp := rfl
@[simp] theorem Mach.updBlock_hot (m : Mach) (id : Nat) (f : Block → Block) : (m.updBlock id f).hot = m.hot := rfl
@[simp] theorem Mach.updBlock_keys (m : Mach) (id : Nat) (f : Block → Block) : (m.updBlock id f).keys = m.keys := rfl
@[simp] theorem Mach.updBlock_keyTab (m : Mach) (id : Nat) (f : Block → Block) : (m.updBlock id f).keyTab = m.keyTab := rfl
@[simp] theorem Mach.updBlock_boots (m : Mach) (id : Nat) (f : Block → Block) : (m.updBlock id f).boots = m.boots := rfl
@[simp] theorem Mach.updBlock_sealKeys (m : Mach) (id : Nat) (f : Block → Block) : (m.updBlock id f).sealKeys = m.sealKeys := rfl
@[simp] theorem Mach.updBlock_tlb (m : Mach) (id : Nat) (f : Block → Block) : (m.updBlock id f).tlb = m.tlb := rfl
@[simp] theorem Mach.updBlock_bias (m : Mach) (id : Nat) (f : Block → Block) : (m.updBlock id f).bias = m.bias := rfl
@[simp] theorem Mach.updBlock_mem (m : Mach) (id : Nat) (f : Block → Block) : (m.updBlock id f).mem = m.mem := rfl
@[simp] theorem Mach.updBlock_poison (m : Mach) (id : Nat) (f : Block → Block) : (m.updBlock id f).poison = m.poison := rfl
@[simp] theorem Mach.updBlock_l1Bad (m : Mach) (id : Nat) (f : Block → Block) : (m.updBlock id f).l1Bad = m.l1Bad := rfl
@[simp] theorem Mach.updBlock_dir (m : Mach) (id : Nat) (f : Block → Block) : (m.updBlock id f).dir = m.dir := rfl
@[simp] theorem Mach.updBlock_rings (m : Mach) (id : Nat) (f : Block → Block) : (m.updBlock id f).rings = m.rings := rfl
@[simp] theorem Mach.updBlock_queues (m : Mach) (id : Nat) (f : Block → Block) : (m.updBlock id f).queues = m.queues := rfl
@[simp] theorem Mach.updBlock_cmds (m : Mach) (id : Nat) (f : Block → Block) : (m.updBlock id f).cmds = m.cmds := rfl
@[simp] theorem Mach.updBlock_grids (m : Mach) (id : Nat) (f : Block → Block) : (m.updBlock id f).grids = m.grids := rfl
@[simp] theorem Mach.updBlock_gridCnt (m : Mach) (id : Nat) (f : Block → Block) : (m.updBlock id f).gridCnt = m.gridCnt := rfl
@[simp] theorem Mach.updBlock_ctxs (m : Mach) (id : Nat) (f : Block → Block) : (m.updBlock id f).ctxs = m.ctxs := rfl
@[simp] theorem Mach.updBlock_cores (m : Mach) (id : Nat) (f : Block → Block) : (m.updBlock id f).cores = m.cores := rfl
@[simp] theorem Mach.updBlock_nextBlk (m : Mach) (id : Nat) (f : Block → Block) : (m.updBlock id f).nextBlk = m.nextBlk := rfl
@[simp] theorem Mach.updBlock_faults (m : Mach) (id : Nat) (f : Block → Block) : (m.updBlock id f).faults = m.faults := rfl
@[simp] theorem Mach.updBlock_faultSeq (m : Mach) (id : Nat) (f : Block → Block) : (m.updBlock id f).faultSeq = m.faultSeq := rfl
@[simp] theorem Mach.updBlock_logs (m : Mach) (id : Nat) (f : Block → Block) : (m.updBlock id f).logs = m.logs := rfl
@[simp] theorem Mach.updBlock_esc (m : Mach) (id : Nat) (f : Block → Block) : (m.updBlock id f).esc = m.esc := rfl
@[simp] theorem Mach.updBlock_net (m : Mach) (id : Nat) (f : Block → Block) : (m.updBlock id f).net = m.net := rfl
@[simp] theorem Mach.updBlock_retain (m : Mach) (id : Nat) (f : Block → Block) : (m.updBlock id f).retain = m.retain := rfl
@[simp] theorem Mach.updBlock_nextPkt (m : Mach) (id : Nat) (f : Block → Block) : (m.updBlock id f).nextPkt = m.nextPkt := rfl
@[simp] theorem Mach.updBlock_acks (m : Mach) (id : Nat) (f : Block → Block) : (m.updBlock id f).acks = m.acks := rfl
@[simp] theorem Mach.updBlock_lostAcks (m : Mach) (id : Nat) (f : Block → Block) : (m.updBlock id f).lostAcks = m.lostAcks := rfl
@[simp] theorem Mach.updBlock_contribs (m : Mach) (id : Nat) (f : Block → Block) : (m.updBlock id f).contribs = m.contribs := rfl
@[simp] theorem Mach.updBlock_heldCon (m : Mach) (id : Nat) (f : Block → Block) : (m.updBlock id f).heldCon = m.heldCon := rfl
@[simp] theorem Mach.updBlock_slots (m : Mach) (id : Nat) (f : Block → Block) : (m.updBlock id f).slots = m.slots := rfl
@[simp] theorem Mach.updBlock_pairs (m : Mach) (id : Nat) (f : Block → Block) : (m.updBlock id f).pairs = m.pairs := rfl
@[simp] theorem Mach.updBlock_links (m : Mach) (id : Nat) (f : Block → Block) : (m.updBlock id f).links = m.links := rfl
@[simp] theorem Mach.updBlock_mgmt (m : Mach) (id : Nat) (f : Block → Block) : (m.updBlock id f).mgmt = m.mgmt := rfl
@[simp] theorem Mach.updBlock_ackOpen (m : Mach) (id : Nat) (f : Block → Block) : (m.updBlock id f).ackOpen = m.ackOpen := rfl
@[simp] theorem Mach.updBlock_chanReq (m : Mach) (id : Nat) (f : Block → Block) : (m.updBlock id f).chanReq = m.chanReq := rfl
@[simp] theorem Mach.updBlock_qps (m : Mach) (id : Nat) (f : Block → Block) : (m.updBlock id f).qps = m.qps := rfl
@[simp] theorem Mach.updBlock_image (m : Mach) (id : Nat) (f : Block → Block) : (m.updBlock id f).image = m.image := rfl
@[simp] theorem Mach.updBlock_staged (m : Mach) (id : Nat) (f : Block → Block) : (m.updBlock id f).staged = m.staged := rfl
@[simp] theorem Mach.updBlock_nextCore (m : Mach) (id : Nat) (f : Block → Block) : (m.updBlock id f).nextCore = m.nextCore := rfl
@[simp] theorem Mach.updBlock_front (m : Mach) (id : Nat) (f : Block → Block) : (m.updBlock id f).front = m.front := rfl
@[simp] theorem Mach.updBlock_period (m : Mach) (id : Nat) (f : Block → Block) : (m.updBlock id f).period = m.period := rfl
@[simp] theorem Mach.updBlock_ctxCnt (m : Mach) (id : Nat) (f : Block → Block) : (m.updBlock id f).ctxCnt = m.ctxCnt := rfl

@[simp] theorem Mach.updWarp_clock (m : Mach) (id w : Nat) (f : Warp → Warp) : (m.updWarp id w f).clock = m.clock := rfl
@[simp] theorem Mach.updWarp_bootState (m : Mach) (id w : Nat) (f : Warp → Warp) : (m.updWarp id w f).bootState = m.bootState := rfl
@[simp] theorem Mach.updWarp_bootStep (m : Mach) (id w : Nat) (f : Warp → Warp) : (m.updWarp id w f).bootStep = m.bootStep := rfl
@[simp] theorem Mach.updWarp_bootReason (m : Mach) (id w : Nat) (f : Warp → Warp) : (m.updWarp id w f).bootReason = m.bootReason := rfl
@[simp] theorem Mach.updWarp_rmap (m : Mach) (id w : Nat) (f : Warp → Warp) : (m.updWarp id w f).rmap = m.rmap := rfl
@[simp] theorem Mach.updWarp_pubBody (m : Mach) (id w : Nat) (f : Warp → Warp) : (m.updWarp id w f).pubBody = m.pubBody := rfl
@[simp] theorem Mach.updWarp_pubVer (m : Mach) (id w : Nat) (f : Warp → Warp) : (m.updWarp id w f).pubVer = m.pubVer := rfl
@[simp] theorem Mach.updWarp_booting (m : Mach) (id w : Nat) (f : Warp → Warp) : (m.updWarp id w f).booting = m.booting := rfl
@[simp] theorem Mach.updWarp_hostCap (m : Mach) (id w : Nat) (f : Warp → Warp) : (m.updWarp id w f).hostCap = m.hostCap := rfl
@[simp] theorem Mach.updWarp_boardCap (m : Mach) (id w : Nat) (f : Warp → Warp) : (m.updWarp id w f).boardCap = m.boardCap := rfl
@[simp] theorem Mach.updWarp_rateNow (m : Mach) (id w : Nat) (f : Warp → Warp) : (m.updWarp id w f).rateNow = m.rateNow := rfl
@[simp] theorem Mach.updWarp_temp (m : Mach) (id w : Nat) (f : Warp → Warp) : (m.updWarp id w f).temp = m.temp := rfl
@[simp] theorem Mach.updWarp_hot (m : Mach) (id w : Nat) (f : Warp → Warp) : (m.updWarp id w f).hot = m.hot := rfl
@[simp] theorem Mach.updWarp_keys (m : Mach) (id w : Nat) (f : Warp → Warp) : (m.updWarp id w f).keys = m.keys := rfl
@[simp] theorem Mach.updWarp_keyTab (m : Mach) (id w : Nat) (f : Warp → Warp) : (m.updWarp id w f).keyTab = m.keyTab := rfl
@[simp] theorem Mach.updWarp_boots (m : Mach) (id w : Nat) (f : Warp → Warp) : (m.updWarp id w f).boots = m.boots := rfl
@[simp] theorem Mach.updWarp_sealKeys (m : Mach) (id w : Nat) (f : Warp → Warp) : (m.updWarp id w f).sealKeys = m.sealKeys := rfl
@[simp] theorem Mach.updWarp_tlb (m : Mach) (id w : Nat) (f : Warp → Warp) : (m.updWarp id w f).tlb = m.tlb := rfl
@[simp] theorem Mach.updWarp_bias (m : Mach) (id w : Nat) (f : Warp → Warp) : (m.updWarp id w f).bias = m.bias := rfl
@[simp] theorem Mach.updWarp_mem (m : Mach) (id w : Nat) (f : Warp → Warp) : (m.updWarp id w f).mem = m.mem := rfl
@[simp] theorem Mach.updWarp_poison (m : Mach) (id w : Nat) (f : Warp → Warp) : (m.updWarp id w f).poison = m.poison := rfl
@[simp] theorem Mach.updWarp_l1Bad (m : Mach) (id w : Nat) (f : Warp → Warp) : (m.updWarp id w f).l1Bad = m.l1Bad := rfl
@[simp] theorem Mach.updWarp_dir (m : Mach) (id w : Nat) (f : Warp → Warp) : (m.updWarp id w f).dir = m.dir := rfl
@[simp] theorem Mach.updWarp_rings (m : Mach) (id w : Nat) (f : Warp → Warp) : (m.updWarp id w f).rings = m.rings := rfl
@[simp] theorem Mach.updWarp_queues (m : Mach) (id w : Nat) (f : Warp → Warp) : (m.updWarp id w f).queues = m.queues := rfl
@[simp] theorem Mach.updWarp_cmds (m : Mach) (id w : Nat) (f : Warp → Warp) : (m.updWarp id w f).cmds = m.cmds := rfl
@[simp] theorem Mach.updWarp_grids (m : Mach) (id w : Nat) (f : Warp → Warp) : (m.updWarp id w f).grids = m.grids := rfl
@[simp] theorem Mach.updWarp_gridCnt (m : Mach) (id w : Nat) (f : Warp → Warp) : (m.updWarp id w f).gridCnt = m.gridCnt := rfl
@[simp] theorem Mach.updWarp_ctxs (m : Mach) (id w : Nat) (f : Warp → Warp) : (m.updWarp id w f).ctxs = m.ctxs := rfl
@[simp] theorem Mach.updWarp_cores (m : Mach) (id w : Nat) (f : Warp → Warp) : (m.updWarp id w f).cores = m.cores := rfl
@[simp] theorem Mach.updWarp_nextBlk (m : Mach) (id w : Nat) (f : Warp → Warp) : (m.updWarp id w f).nextBlk = m.nextBlk := rfl
@[simp] theorem Mach.updWarp_faults (m : Mach) (id w : Nat) (f : Warp → Warp) : (m.updWarp id w f).faults = m.faults := rfl
@[simp] theorem Mach.updWarp_faultSeq (m : Mach) (id w : Nat) (f : Warp → Warp) : (m.updWarp id w f).faultSeq = m.faultSeq := rfl
@[simp] theorem Mach.updWarp_logs (m : Mach) (id w : Nat) (f : Warp → Warp) : (m.updWarp id w f).logs = m.logs := rfl
@[simp] theorem Mach.updWarp_esc (m : Mach) (id w : Nat) (f : Warp → Warp) : (m.updWarp id w f).esc = m.esc := rfl
@[simp] theorem Mach.updWarp_net (m : Mach) (id w : Nat) (f : Warp → Warp) : (m.updWarp id w f).net = m.net := rfl
@[simp] theorem Mach.updWarp_retain (m : Mach) (id w : Nat) (f : Warp → Warp) : (m.updWarp id w f).retain = m.retain := rfl
@[simp] theorem Mach.updWarp_nextPkt (m : Mach) (id w : Nat) (f : Warp → Warp) : (m.updWarp id w f).nextPkt = m.nextPkt := rfl
@[simp] theorem Mach.updWarp_acks (m : Mach) (id w : Nat) (f : Warp → Warp) : (m.updWarp id w f).acks = m.acks := rfl
@[simp] theorem Mach.updWarp_lostAcks (m : Mach) (id w : Nat) (f : Warp → Warp) : (m.updWarp id w f).lostAcks = m.lostAcks := rfl
@[simp] theorem Mach.updWarp_contribs (m : Mach) (id w : Nat) (f : Warp → Warp) : (m.updWarp id w f).contribs = m.contribs := rfl
@[simp] theorem Mach.updWarp_heldCon (m : Mach) (id w : Nat) (f : Warp → Warp) : (m.updWarp id w f).heldCon = m.heldCon := rfl
@[simp] theorem Mach.updWarp_slots (m : Mach) (id w : Nat) (f : Warp → Warp) : (m.updWarp id w f).slots = m.slots := rfl
@[simp] theorem Mach.updWarp_pairs (m : Mach) (id w : Nat) (f : Warp → Warp) : (m.updWarp id w f).pairs = m.pairs := rfl
@[simp] theorem Mach.updWarp_links (m : Mach) (id w : Nat) (f : Warp → Warp) : (m.updWarp id w f).links = m.links := rfl
@[simp] theorem Mach.updWarp_mgmt (m : Mach) (id w : Nat) (f : Warp → Warp) : (m.updWarp id w f).mgmt = m.mgmt := rfl
@[simp] theorem Mach.updWarp_ackOpen (m : Mach) (id w : Nat) (f : Warp → Warp) : (m.updWarp id w f).ackOpen = m.ackOpen := rfl
@[simp] theorem Mach.updWarp_chanReq (m : Mach) (id w : Nat) (f : Warp → Warp) : (m.updWarp id w f).chanReq = m.chanReq := rfl
@[simp] theorem Mach.updWarp_qps (m : Mach) (id w : Nat) (f : Warp → Warp) : (m.updWarp id w f).qps = m.qps := rfl
@[simp] theorem Mach.updWarp_image (m : Mach) (id w : Nat) (f : Warp → Warp) : (m.updWarp id w f).image = m.image := rfl
@[simp] theorem Mach.updWarp_staged (m : Mach) (id w : Nat) (f : Warp → Warp) : (m.updWarp id w f).staged = m.staged := rfl
@[simp] theorem Mach.updWarp_nextCore (m : Mach) (id w : Nat) (f : Warp → Warp) : (m.updWarp id w f).nextCore = m.nextCore := rfl
@[simp] theorem Mach.updWarp_front (m : Mach) (id w : Nat) (f : Warp → Warp) : (m.updWarp id w f).front = m.front := rfl
@[simp] theorem Mach.updWarp_period (m : Mach) (id w : Nat) (f : Warp → Warp) : (m.updWarp id w f).period = m.period := rfl
@[simp] theorem Mach.updWarp_ctxCnt (m : Mach) (id w : Nat) (f : Warp → Warp) : (m.updWarp id w f).ctxCnt = m.ctxCnt := rfl

@[simp] theorem Mach.updLanes_clock (m : Mach) (id w : Nat) (k : Mask) (f : Lane → Lane) : (m.updLanes id w k f).clock = m.clock := rfl
@[simp] theorem Mach.updLanes_bootState (m : Mach) (id w : Nat) (k : Mask) (f : Lane → Lane) : (m.updLanes id w k f).bootState = m.bootState := rfl
@[simp] theorem Mach.updLanes_bootStep (m : Mach) (id w : Nat) (k : Mask) (f : Lane → Lane) : (m.updLanes id w k f).bootStep = m.bootStep := rfl
@[simp] theorem Mach.updLanes_bootReason (m : Mach) (id w : Nat) (k : Mask) (f : Lane → Lane) : (m.updLanes id w k f).bootReason = m.bootReason := rfl
@[simp] theorem Mach.updLanes_rmap (m : Mach) (id w : Nat) (k : Mask) (f : Lane → Lane) : (m.updLanes id w k f).rmap = m.rmap := rfl
@[simp] theorem Mach.updLanes_pubBody (m : Mach) (id w : Nat) (k : Mask) (f : Lane → Lane) : (m.updLanes id w k f).pubBody = m.pubBody := rfl
@[simp] theorem Mach.updLanes_pubVer (m : Mach) (id w : Nat) (k : Mask) (f : Lane → Lane) : (m.updLanes id w k f).pubVer = m.pubVer := rfl
@[simp] theorem Mach.updLanes_booting (m : Mach) (id w : Nat) (k : Mask) (f : Lane → Lane) : (m.updLanes id w k f).booting = m.booting := rfl
@[simp] theorem Mach.updLanes_hostCap (m : Mach) (id w : Nat) (k : Mask) (f : Lane → Lane) : (m.updLanes id w k f).hostCap = m.hostCap := rfl
@[simp] theorem Mach.updLanes_boardCap (m : Mach) (id w : Nat) (k : Mask) (f : Lane → Lane) : (m.updLanes id w k f).boardCap = m.boardCap := rfl
@[simp] theorem Mach.updLanes_rateNow (m : Mach) (id w : Nat) (k : Mask) (f : Lane → Lane) : (m.updLanes id w k f).rateNow = m.rateNow := rfl
@[simp] theorem Mach.updLanes_temp (m : Mach) (id w : Nat) (k : Mask) (f : Lane → Lane) : (m.updLanes id w k f).temp = m.temp := rfl
@[simp] theorem Mach.updLanes_hot (m : Mach) (id w : Nat) (k : Mask) (f : Lane → Lane) : (m.updLanes id w k f).hot = m.hot := rfl
@[simp] theorem Mach.updLanes_keys (m : Mach) (id w : Nat) (k : Mask) (f : Lane → Lane) : (m.updLanes id w k f).keys = m.keys := rfl
@[simp] theorem Mach.updLanes_keyTab (m : Mach) (id w : Nat) (k : Mask) (f : Lane → Lane) : (m.updLanes id w k f).keyTab = m.keyTab := rfl
@[simp] theorem Mach.updLanes_boots (m : Mach) (id w : Nat) (k : Mask) (f : Lane → Lane) : (m.updLanes id w k f).boots = m.boots := rfl
@[simp] theorem Mach.updLanes_sealKeys (m : Mach) (id w : Nat) (k : Mask) (f : Lane → Lane) : (m.updLanes id w k f).sealKeys = m.sealKeys := rfl
@[simp] theorem Mach.updLanes_tlb (m : Mach) (id w : Nat) (k : Mask) (f : Lane → Lane) : (m.updLanes id w k f).tlb = m.tlb := rfl
@[simp] theorem Mach.updLanes_bias (m : Mach) (id w : Nat) (k : Mask) (f : Lane → Lane) : (m.updLanes id w k f).bias = m.bias := rfl
@[simp] theorem Mach.updLanes_mem (m : Mach) (id w : Nat) (k : Mask) (f : Lane → Lane) : (m.updLanes id w k f).mem = m.mem := rfl
@[simp] theorem Mach.updLanes_poison (m : Mach) (id w : Nat) (k : Mask) (f : Lane → Lane) : (m.updLanes id w k f).poison = m.poison := rfl
@[simp] theorem Mach.updLanes_l1Bad (m : Mach) (id w : Nat) (k : Mask) (f : Lane → Lane) : (m.updLanes id w k f).l1Bad = m.l1Bad := rfl
@[simp] theorem Mach.updLanes_dir (m : Mach) (id w : Nat) (k : Mask) (f : Lane → Lane) : (m.updLanes id w k f).dir = m.dir := rfl
@[simp] theorem Mach.updLanes_rings (m : Mach) (id w : Nat) (k : Mask) (f : Lane → Lane) : (m.updLanes id w k f).rings = m.rings := rfl
@[simp] theorem Mach.updLanes_queues (m : Mach) (id w : Nat) (k : Mask) (f : Lane → Lane) : (m.updLanes id w k f).queues = m.queues := rfl
@[simp] theorem Mach.updLanes_cmds (m : Mach) (id w : Nat) (k : Mask) (f : Lane → Lane) : (m.updLanes id w k f).cmds = m.cmds := rfl
@[simp] theorem Mach.updLanes_grids (m : Mach) (id w : Nat) (k : Mask) (f : Lane → Lane) : (m.updLanes id w k f).grids = m.grids := rfl
@[simp] theorem Mach.updLanes_gridCnt (m : Mach) (id w : Nat) (k : Mask) (f : Lane → Lane) : (m.updLanes id w k f).gridCnt = m.gridCnt := rfl
@[simp] theorem Mach.updLanes_ctxs (m : Mach) (id w : Nat) (k : Mask) (f : Lane → Lane) : (m.updLanes id w k f).ctxs = m.ctxs := rfl
@[simp] theorem Mach.updLanes_cores (m : Mach) (id w : Nat) (k : Mask) (f : Lane → Lane) : (m.updLanes id w k f).cores = m.cores := rfl
@[simp] theorem Mach.updLanes_nextBlk (m : Mach) (id w : Nat) (k : Mask) (f : Lane → Lane) : (m.updLanes id w k f).nextBlk = m.nextBlk := rfl
@[simp] theorem Mach.updLanes_faults (m : Mach) (id w : Nat) (k : Mask) (f : Lane → Lane) : (m.updLanes id w k f).faults = m.faults := rfl
@[simp] theorem Mach.updLanes_faultSeq (m : Mach) (id w : Nat) (k : Mask) (f : Lane → Lane) : (m.updLanes id w k f).faultSeq = m.faultSeq := rfl
@[simp] theorem Mach.updLanes_logs (m : Mach) (id w : Nat) (k : Mask) (f : Lane → Lane) : (m.updLanes id w k f).logs = m.logs := rfl
@[simp] theorem Mach.updLanes_esc (m : Mach) (id w : Nat) (k : Mask) (f : Lane → Lane) : (m.updLanes id w k f).esc = m.esc := rfl
@[simp] theorem Mach.updLanes_net (m : Mach) (id w : Nat) (k : Mask) (f : Lane → Lane) : (m.updLanes id w k f).net = m.net := rfl
@[simp] theorem Mach.updLanes_retain (m : Mach) (id w : Nat) (k : Mask) (f : Lane → Lane) : (m.updLanes id w k f).retain = m.retain := rfl
@[simp] theorem Mach.updLanes_nextPkt (m : Mach) (id w : Nat) (k : Mask) (f : Lane → Lane) : (m.updLanes id w k f).nextPkt = m.nextPkt := rfl
@[simp] theorem Mach.updLanes_acks (m : Mach) (id w : Nat) (k : Mask) (f : Lane → Lane) : (m.updLanes id w k f).acks = m.acks := rfl
@[simp] theorem Mach.updLanes_lostAcks (m : Mach) (id w : Nat) (k : Mask) (f : Lane → Lane) : (m.updLanes id w k f).lostAcks = m.lostAcks := rfl
@[simp] theorem Mach.updLanes_contribs (m : Mach) (id w : Nat) (k : Mask) (f : Lane → Lane) : (m.updLanes id w k f).contribs = m.contribs := rfl
@[simp] theorem Mach.updLanes_heldCon (m : Mach) (id w : Nat) (k : Mask) (f : Lane → Lane) : (m.updLanes id w k f).heldCon = m.heldCon := rfl
@[simp] theorem Mach.updLanes_slots (m : Mach) (id w : Nat) (k : Mask) (f : Lane → Lane) : (m.updLanes id w k f).slots = m.slots := rfl
@[simp] theorem Mach.updLanes_pairs (m : Mach) (id w : Nat) (k : Mask) (f : Lane → Lane) : (m.updLanes id w k f).pairs = m.pairs := rfl
@[simp] theorem Mach.updLanes_links (m : Mach) (id w : Nat) (k : Mask) (f : Lane → Lane) : (m.updLanes id w k f).links = m.links := rfl
@[simp] theorem Mach.updLanes_mgmt (m : Mach) (id w : Nat) (k : Mask) (f : Lane → Lane) : (m.updLanes id w k f).mgmt = m.mgmt := rfl
@[simp] theorem Mach.updLanes_ackOpen (m : Mach) (id w : Nat) (k : Mask) (f : Lane → Lane) : (m.updLanes id w k f).ackOpen = m.ackOpen := rfl
@[simp] theorem Mach.updLanes_chanReq (m : Mach) (id w : Nat) (k : Mask) (f : Lane → Lane) : (m.updLanes id w k f).chanReq = m.chanReq := rfl
@[simp] theorem Mach.updLanes_qps (m : Mach) (id w : Nat) (k : Mask) (f : Lane → Lane) : (m.updLanes id w k f).qps = m.qps := rfl
@[simp] theorem Mach.updLanes_image (m : Mach) (id w : Nat) (k : Mask) (f : Lane → Lane) : (m.updLanes id w k f).image = m.image := rfl
@[simp] theorem Mach.updLanes_staged (m : Mach) (id w : Nat) (k : Mask) (f : Lane → Lane) : (m.updLanes id w k f).staged = m.staged := rfl
@[simp] theorem Mach.updLanes_nextCore (m : Mach) (id w : Nat) (k : Mask) (f : Lane → Lane) : (m.updLanes id w k f).nextCore = m.nextCore := rfl
@[simp] theorem Mach.updLanes_front (m : Mach) (id w : Nat) (k : Mask) (f : Lane → Lane) : (m.updLanes id w k f).front = m.front := rfl
@[simp] theorem Mach.updLanes_period (m : Mach) (id w : Nat) (k : Mask) (f : Lane → Lane) : (m.updLanes id w k f).period = m.period := rfl
@[simp] theorem Mach.updLanes_ctxCnt (m : Mach) (id w : Nat) (k : Mask) (f : Lane → Lane) : (m.updLanes id w k f).ctxCnt = m.ctxCnt := rfl

@[simp] theorem Mach.updCore_clock (m : Mach) (c : Nat) (f : Core → Core) : (m.updCore c f).clock = m.clock := rfl
@[simp] theorem Mach.updCore_bootState (m : Mach) (c : Nat) (f : Core → Core) : (m.updCore c f).bootState = m.bootState := rfl
@[simp] theorem Mach.updCore_bootStep (m : Mach) (c : Nat) (f : Core → Core) : (m.updCore c f).bootStep = m.bootStep := rfl
@[simp] theorem Mach.updCore_bootReason (m : Mach) (c : Nat) (f : Core → Core) : (m.updCore c f).bootReason = m.bootReason := rfl
@[simp] theorem Mach.updCore_rmap (m : Mach) (c : Nat) (f : Core → Core) : (m.updCore c f).rmap = m.rmap := rfl
@[simp] theorem Mach.updCore_pubBody (m : Mach) (c : Nat) (f : Core → Core) : (m.updCore c f).pubBody = m.pubBody := rfl
@[simp] theorem Mach.updCore_pubVer (m : Mach) (c : Nat) (f : Core → Core) : (m.updCore c f).pubVer = m.pubVer := rfl
@[simp] theorem Mach.updCore_booting (m : Mach) (c : Nat) (f : Core → Core) : (m.updCore c f).booting = m.booting := rfl
@[simp] theorem Mach.updCore_hostCap (m : Mach) (c : Nat) (f : Core → Core) : (m.updCore c f).hostCap = m.hostCap := rfl
@[simp] theorem Mach.updCore_boardCap (m : Mach) (c : Nat) (f : Core → Core) : (m.updCore c f).boardCap = m.boardCap := rfl
@[simp] theorem Mach.updCore_rateNow (m : Mach) (c : Nat) (f : Core → Core) : (m.updCore c f).rateNow = m.rateNow := rfl
@[simp] theorem Mach.updCore_temp (m : Mach) (c : Nat) (f : Core → Core) : (m.updCore c f).temp = m.temp := rfl
@[simp] theorem Mach.updCore_hot (m : Mach) (c : Nat) (f : Core → Core) : (m.updCore c f).hot = m.hot := rfl
@[simp] theorem Mach.updCore_keys (m : Mach) (c : Nat) (f : Core → Core) : (m.updCore c f).keys = m.keys := rfl
@[simp] theorem Mach.updCore_keyTab (m : Mach) (c : Nat) (f : Core → Core) : (m.updCore c f).keyTab = m.keyTab := rfl
@[simp] theorem Mach.updCore_boots (m : Mach) (c : Nat) (f : Core → Core) : (m.updCore c f).boots = m.boots := rfl
@[simp] theorem Mach.updCore_sealKeys (m : Mach) (c : Nat) (f : Core → Core) : (m.updCore c f).sealKeys = m.sealKeys := rfl
@[simp] theorem Mach.updCore_tlb (m : Mach) (c : Nat) (f : Core → Core) : (m.updCore c f).tlb = m.tlb := rfl
@[simp] theorem Mach.updCore_bias (m : Mach) (c : Nat) (f : Core → Core) : (m.updCore c f).bias = m.bias := rfl
@[simp] theorem Mach.updCore_mem (m : Mach) (c : Nat) (f : Core → Core) : (m.updCore c f).mem = m.mem := rfl
@[simp] theorem Mach.updCore_poison (m : Mach) (c : Nat) (f : Core → Core) : (m.updCore c f).poison = m.poison := rfl
@[simp] theorem Mach.updCore_l1Bad (m : Mach) (c : Nat) (f : Core → Core) : (m.updCore c f).l1Bad = m.l1Bad := rfl
@[simp] theorem Mach.updCore_dir (m : Mach) (c : Nat) (f : Core → Core) : (m.updCore c f).dir = m.dir := rfl
@[simp] theorem Mach.updCore_rings (m : Mach) (c : Nat) (f : Core → Core) : (m.updCore c f).rings = m.rings := rfl
@[simp] theorem Mach.updCore_queues (m : Mach) (c : Nat) (f : Core → Core) : (m.updCore c f).queues = m.queues := rfl
@[simp] theorem Mach.updCore_cmds (m : Mach) (c : Nat) (f : Core → Core) : (m.updCore c f).cmds = m.cmds := rfl
@[simp] theorem Mach.updCore_grids (m : Mach) (c : Nat) (f : Core → Core) : (m.updCore c f).grids = m.grids := rfl
@[simp] theorem Mach.updCore_gridCnt (m : Mach) (c : Nat) (f : Core → Core) : (m.updCore c f).gridCnt = m.gridCnt := rfl
@[simp] theorem Mach.updCore_ctxs (m : Mach) (c : Nat) (f : Core → Core) : (m.updCore c f).ctxs = m.ctxs := rfl
@[simp] theorem Mach.updCore_blocks (m : Mach) (c : Nat) (f : Core → Core) : (m.updCore c f).blocks = m.blocks := rfl
@[simp] theorem Mach.updCore_nextBlk (m : Mach) (c : Nat) (f : Core → Core) : (m.updCore c f).nextBlk = m.nextBlk := rfl
@[simp] theorem Mach.updCore_faults (m : Mach) (c : Nat) (f : Core → Core) : (m.updCore c f).faults = m.faults := rfl
@[simp] theorem Mach.updCore_faultSeq (m : Mach) (c : Nat) (f : Core → Core) : (m.updCore c f).faultSeq = m.faultSeq := rfl
@[simp] theorem Mach.updCore_logs (m : Mach) (c : Nat) (f : Core → Core) : (m.updCore c f).logs = m.logs := rfl
@[simp] theorem Mach.updCore_esc (m : Mach) (c : Nat) (f : Core → Core) : (m.updCore c f).esc = m.esc := rfl
@[simp] theorem Mach.updCore_net (m : Mach) (c : Nat) (f : Core → Core) : (m.updCore c f).net = m.net := rfl
@[simp] theorem Mach.updCore_retain (m : Mach) (c : Nat) (f : Core → Core) : (m.updCore c f).retain = m.retain := rfl
@[simp] theorem Mach.updCore_nextPkt (m : Mach) (c : Nat) (f : Core → Core) : (m.updCore c f).nextPkt = m.nextPkt := rfl
@[simp] theorem Mach.updCore_acks (m : Mach) (c : Nat) (f : Core → Core) : (m.updCore c f).acks = m.acks := rfl
@[simp] theorem Mach.updCore_lostAcks (m : Mach) (c : Nat) (f : Core → Core) : (m.updCore c f).lostAcks = m.lostAcks := rfl
@[simp] theorem Mach.updCore_contribs (m : Mach) (c : Nat) (f : Core → Core) : (m.updCore c f).contribs = m.contribs := rfl
@[simp] theorem Mach.updCore_heldCon (m : Mach) (c : Nat) (f : Core → Core) : (m.updCore c f).heldCon = m.heldCon := rfl
@[simp] theorem Mach.updCore_slots (m : Mach) (c : Nat) (f : Core → Core) : (m.updCore c f).slots = m.slots := rfl
@[simp] theorem Mach.updCore_pairs (m : Mach) (c : Nat) (f : Core → Core) : (m.updCore c f).pairs = m.pairs := rfl
@[simp] theorem Mach.updCore_links (m : Mach) (c : Nat) (f : Core → Core) : (m.updCore c f).links = m.links := rfl
@[simp] theorem Mach.updCore_mgmt (m : Mach) (c : Nat) (f : Core → Core) : (m.updCore c f).mgmt = m.mgmt := rfl
@[simp] theorem Mach.updCore_ackOpen (m : Mach) (c : Nat) (f : Core → Core) : (m.updCore c f).ackOpen = m.ackOpen := rfl
@[simp] theorem Mach.updCore_chanReq (m : Mach) (c : Nat) (f : Core → Core) : (m.updCore c f).chanReq = m.chanReq := rfl
@[simp] theorem Mach.updCore_qps (m : Mach) (c : Nat) (f : Core → Core) : (m.updCore c f).qps = m.qps := rfl
@[simp] theorem Mach.updCore_image (m : Mach) (c : Nat) (f : Core → Core) : (m.updCore c f).image = m.image := rfl
@[simp] theorem Mach.updCore_staged (m : Mach) (c : Nat) (f : Core → Core) : (m.updCore c f).staged = m.staged := rfl
@[simp] theorem Mach.updCore_nextCore (m : Mach) (c : Nat) (f : Core → Core) : (m.updCore c f).nextCore = m.nextCore := rfl
@[simp] theorem Mach.updCore_front (m : Mach) (c : Nat) (f : Core → Core) : (m.updCore c f).front = m.front := rfl
@[simp] theorem Mach.updCore_period (m : Mach) (c : Nat) (f : Core → Core) : (m.updCore c f).period = m.period := rfl
@[simp] theorem Mach.updCore_ctxCnt (m : Mach) (c : Nat) (f : Core → Core) : (m.updCore c f).ctxCnt = m.ctxCnt := rfl

@[simp] theorem Mach.updBank_clock (m : Mach) (c i : Nat) (f : Bank → Bank) : (m.updBank c i f).clock = m.clock := rfl
@[simp] theorem Mach.updBank_bootState (m : Mach) (c i : Nat) (f : Bank → Bank) : (m.updBank c i f).bootState = m.bootState := rfl
@[simp] theorem Mach.updBank_bootStep (m : Mach) (c i : Nat) (f : Bank → Bank) : (m.updBank c i f).bootStep = m.bootStep := rfl
@[simp] theorem Mach.updBank_bootReason (m : Mach) (c i : Nat) (f : Bank → Bank) : (m.updBank c i f).bootReason = m.bootReason := rfl
@[simp] theorem Mach.updBank_rmap (m : Mach) (c i : Nat) (f : Bank → Bank) : (m.updBank c i f).rmap = m.rmap := rfl
@[simp] theorem Mach.updBank_pubBody (m : Mach) (c i : Nat) (f : Bank → Bank) : (m.updBank c i f).pubBody = m.pubBody := rfl
@[simp] theorem Mach.updBank_pubVer (m : Mach) (c i : Nat) (f : Bank → Bank) : (m.updBank c i f).pubVer = m.pubVer := rfl
@[simp] theorem Mach.updBank_booting (m : Mach) (c i : Nat) (f : Bank → Bank) : (m.updBank c i f).booting = m.booting := rfl
@[simp] theorem Mach.updBank_hostCap (m : Mach) (c i : Nat) (f : Bank → Bank) : (m.updBank c i f).hostCap = m.hostCap := rfl
@[simp] theorem Mach.updBank_boardCap (m : Mach) (c i : Nat) (f : Bank → Bank) : (m.updBank c i f).boardCap = m.boardCap := rfl
@[simp] theorem Mach.updBank_rateNow (m : Mach) (c i : Nat) (f : Bank → Bank) : (m.updBank c i f).rateNow = m.rateNow := rfl
@[simp] theorem Mach.updBank_temp (m : Mach) (c i : Nat) (f : Bank → Bank) : (m.updBank c i f).temp = m.temp := rfl
@[simp] theorem Mach.updBank_hot (m : Mach) (c i : Nat) (f : Bank → Bank) : (m.updBank c i f).hot = m.hot := rfl
@[simp] theorem Mach.updBank_keys (m : Mach) (c i : Nat) (f : Bank → Bank) : (m.updBank c i f).keys = m.keys := rfl
@[simp] theorem Mach.updBank_keyTab (m : Mach) (c i : Nat) (f : Bank → Bank) : (m.updBank c i f).keyTab = m.keyTab := rfl
@[simp] theorem Mach.updBank_boots (m : Mach) (c i : Nat) (f : Bank → Bank) : (m.updBank c i f).boots = m.boots := rfl
@[simp] theorem Mach.updBank_sealKeys (m : Mach) (c i : Nat) (f : Bank → Bank) : (m.updBank c i f).sealKeys = m.sealKeys := rfl
@[simp] theorem Mach.updBank_tlb (m : Mach) (c i : Nat) (f : Bank → Bank) : (m.updBank c i f).tlb = m.tlb := rfl
@[simp] theorem Mach.updBank_bias (m : Mach) (c i : Nat) (f : Bank → Bank) : (m.updBank c i f).bias = m.bias := rfl
@[simp] theorem Mach.updBank_mem (m : Mach) (c i : Nat) (f : Bank → Bank) : (m.updBank c i f).mem = m.mem := rfl
@[simp] theorem Mach.updBank_poison (m : Mach) (c i : Nat) (f : Bank → Bank) : (m.updBank c i f).poison = m.poison := rfl
@[simp] theorem Mach.updBank_l1Bad (m : Mach) (c i : Nat) (f : Bank → Bank) : (m.updBank c i f).l1Bad = m.l1Bad := rfl
@[simp] theorem Mach.updBank_dir (m : Mach) (c i : Nat) (f : Bank → Bank) : (m.updBank c i f).dir = m.dir := rfl
@[simp] theorem Mach.updBank_rings (m : Mach) (c i : Nat) (f : Bank → Bank) : (m.updBank c i f).rings = m.rings := rfl
@[simp] theorem Mach.updBank_queues (m : Mach) (c i : Nat) (f : Bank → Bank) : (m.updBank c i f).queues = m.queues := rfl
@[simp] theorem Mach.updBank_cmds (m : Mach) (c i : Nat) (f : Bank → Bank) : (m.updBank c i f).cmds = m.cmds := rfl
@[simp] theorem Mach.updBank_grids (m : Mach) (c i : Nat) (f : Bank → Bank) : (m.updBank c i f).grids = m.grids := rfl
@[simp] theorem Mach.updBank_gridCnt (m : Mach) (c i : Nat) (f : Bank → Bank) : (m.updBank c i f).gridCnt = m.gridCnt := rfl
@[simp] theorem Mach.updBank_ctxs (m : Mach) (c i : Nat) (f : Bank → Bank) : (m.updBank c i f).ctxs = m.ctxs := rfl
@[simp] theorem Mach.updBank_blocks (m : Mach) (c i : Nat) (f : Bank → Bank) : (m.updBank c i f).blocks = m.blocks := rfl
@[simp] theorem Mach.updBank_nextBlk (m : Mach) (c i : Nat) (f : Bank → Bank) : (m.updBank c i f).nextBlk = m.nextBlk := rfl
@[simp] theorem Mach.updBank_faults (m : Mach) (c i : Nat) (f : Bank → Bank) : (m.updBank c i f).faults = m.faults := rfl
@[simp] theorem Mach.updBank_faultSeq (m : Mach) (c i : Nat) (f : Bank → Bank) : (m.updBank c i f).faultSeq = m.faultSeq := rfl
@[simp] theorem Mach.updBank_logs (m : Mach) (c i : Nat) (f : Bank → Bank) : (m.updBank c i f).logs = m.logs := rfl
@[simp] theorem Mach.updBank_esc (m : Mach) (c i : Nat) (f : Bank → Bank) : (m.updBank c i f).esc = m.esc := rfl
@[simp] theorem Mach.updBank_net (m : Mach) (c i : Nat) (f : Bank → Bank) : (m.updBank c i f).net = m.net := rfl
@[simp] theorem Mach.updBank_retain (m : Mach) (c i : Nat) (f : Bank → Bank) : (m.updBank c i f).retain = m.retain := rfl
@[simp] theorem Mach.updBank_nextPkt (m : Mach) (c i : Nat) (f : Bank → Bank) : (m.updBank c i f).nextPkt = m.nextPkt := rfl
@[simp] theorem Mach.updBank_acks (m : Mach) (c i : Nat) (f : Bank → Bank) : (m.updBank c i f).acks = m.acks := rfl
@[simp] theorem Mach.updBank_lostAcks (m : Mach) (c i : Nat) (f : Bank → Bank) : (m.updBank c i f).lostAcks = m.lostAcks := rfl
@[simp] theorem Mach.updBank_contribs (m : Mach) (c i : Nat) (f : Bank → Bank) : (m.updBank c i f).contribs = m.contribs := rfl
@[simp] theorem Mach.updBank_heldCon (m : Mach) (c i : Nat) (f : Bank → Bank) : (m.updBank c i f).heldCon = m.heldCon := rfl
@[simp] theorem Mach.updBank_slots (m : Mach) (c i : Nat) (f : Bank → Bank) : (m.updBank c i f).slots = m.slots := rfl
@[simp] theorem Mach.updBank_pairs (m : Mach) (c i : Nat) (f : Bank → Bank) : (m.updBank c i f).pairs = m.pairs := rfl
@[simp] theorem Mach.updBank_links (m : Mach) (c i : Nat) (f : Bank → Bank) : (m.updBank c i f).links = m.links := rfl
@[simp] theorem Mach.updBank_mgmt (m : Mach) (c i : Nat) (f : Bank → Bank) : (m.updBank c i f).mgmt = m.mgmt := rfl
@[simp] theorem Mach.updBank_ackOpen (m : Mach) (c i : Nat) (f : Bank → Bank) : (m.updBank c i f).ackOpen = m.ackOpen := rfl
@[simp] theorem Mach.updBank_chanReq (m : Mach) (c i : Nat) (f : Bank → Bank) : (m.updBank c i f).chanReq = m.chanReq := rfl
@[simp] theorem Mach.updBank_qps (m : Mach) (c i : Nat) (f : Bank → Bank) : (m.updBank c i f).qps = m.qps := rfl
@[simp] theorem Mach.updBank_image (m : Mach) (c i : Nat) (f : Bank → Bank) : (m.updBank c i f).image = m.image := rfl
@[simp] theorem Mach.updBank_staged (m : Mach) (c i : Nat) (f : Bank → Bank) : (m.updBank c i f).staged = m.staged := rfl
@[simp] theorem Mach.updBank_nextCore (m : Mach) (c i : Nat) (f : Bank → Bank) : (m.updBank c i f).nextCore = m.nextCore := rfl
@[simp] theorem Mach.updBank_front (m : Mach) (c i : Nat) (f : Bank → Bank) : (m.updBank c i f).front = m.front := rfl
@[simp] theorem Mach.updBank_period (m : Mach) (c i : Nat) (f : Bank → Bank) : (m.updBank c i f).period = m.period := rfl
@[simp] theorem Mach.updBank_ctxCnt (m : Mach) (c i : Nat) (f : Bank → Bank) : (m.updBank c i f).ctxCnt = m.ctxCnt := rfl

@[simp] theorem Mach.updGrid_clock (m : Mach) (n : Nat) (f : Grid → Grid) : (m.updGrid n f).clock = m.clock := rfl
@[simp] theorem Mach.updGrid_bootState (m : Mach) (n : Nat) (f : Grid → Grid) : (m.updGrid n f).bootState = m.bootState := rfl
@[simp] theorem Mach.updGrid_bootStep (m : Mach) (n : Nat) (f : Grid → Grid) : (m.updGrid n f).bootStep = m.bootStep := rfl
@[simp] theorem Mach.updGrid_bootReason (m : Mach) (n : Nat) (f : Grid → Grid) : (m.updGrid n f).bootReason = m.bootReason := rfl
@[simp] theorem Mach.updGrid_rmap (m : Mach) (n : Nat) (f : Grid → Grid) : (m.updGrid n f).rmap = m.rmap := rfl
@[simp] theorem Mach.updGrid_pubBody (m : Mach) (n : Nat) (f : Grid → Grid) : (m.updGrid n f).pubBody = m.pubBody := rfl
@[simp] theorem Mach.updGrid_pubVer (m : Mach) (n : Nat) (f : Grid → Grid) : (m.updGrid n f).pubVer = m.pubVer := rfl
@[simp] theorem Mach.updGrid_booting (m : Mach) (n : Nat) (f : Grid → Grid) : (m.updGrid n f).booting = m.booting := rfl
@[simp] theorem Mach.updGrid_hostCap (m : Mach) (n : Nat) (f : Grid → Grid) : (m.updGrid n f).hostCap = m.hostCap := rfl
@[simp] theorem Mach.updGrid_boardCap (m : Mach) (n : Nat) (f : Grid → Grid) : (m.updGrid n f).boardCap = m.boardCap := rfl
@[simp] theorem Mach.updGrid_rateNow (m : Mach) (n : Nat) (f : Grid → Grid) : (m.updGrid n f).rateNow = m.rateNow := rfl
@[simp] theorem Mach.updGrid_temp (m : Mach) (n : Nat) (f : Grid → Grid) : (m.updGrid n f).temp = m.temp := rfl
@[simp] theorem Mach.updGrid_hot (m : Mach) (n : Nat) (f : Grid → Grid) : (m.updGrid n f).hot = m.hot := rfl
@[simp] theorem Mach.updGrid_keys (m : Mach) (n : Nat) (f : Grid → Grid) : (m.updGrid n f).keys = m.keys := rfl
@[simp] theorem Mach.updGrid_keyTab (m : Mach) (n : Nat) (f : Grid → Grid) : (m.updGrid n f).keyTab = m.keyTab := rfl
@[simp] theorem Mach.updGrid_boots (m : Mach) (n : Nat) (f : Grid → Grid) : (m.updGrid n f).boots = m.boots := rfl
@[simp] theorem Mach.updGrid_sealKeys (m : Mach) (n : Nat) (f : Grid → Grid) : (m.updGrid n f).sealKeys = m.sealKeys := rfl
@[simp] theorem Mach.updGrid_tlb (m : Mach) (n : Nat) (f : Grid → Grid) : (m.updGrid n f).tlb = m.tlb := rfl
@[simp] theorem Mach.updGrid_bias (m : Mach) (n : Nat) (f : Grid → Grid) : (m.updGrid n f).bias = m.bias := rfl
@[simp] theorem Mach.updGrid_mem (m : Mach) (n : Nat) (f : Grid → Grid) : (m.updGrid n f).mem = m.mem := rfl
@[simp] theorem Mach.updGrid_poison (m : Mach) (n : Nat) (f : Grid → Grid) : (m.updGrid n f).poison = m.poison := rfl
@[simp] theorem Mach.updGrid_l1Bad (m : Mach) (n : Nat) (f : Grid → Grid) : (m.updGrid n f).l1Bad = m.l1Bad := rfl
@[simp] theorem Mach.updGrid_dir (m : Mach) (n : Nat) (f : Grid → Grid) : (m.updGrid n f).dir = m.dir := rfl
@[simp] theorem Mach.updGrid_rings (m : Mach) (n : Nat) (f : Grid → Grid) : (m.updGrid n f).rings = m.rings := rfl
@[simp] theorem Mach.updGrid_queues (m : Mach) (n : Nat) (f : Grid → Grid) : (m.updGrid n f).queues = m.queues := rfl
@[simp] theorem Mach.updGrid_cmds (m : Mach) (n : Nat) (f : Grid → Grid) : (m.updGrid n f).cmds = m.cmds := rfl
@[simp] theorem Mach.updGrid_gridCnt (m : Mach) (n : Nat) (f : Grid → Grid) : (m.updGrid n f).gridCnt = m.gridCnt := rfl
@[simp] theorem Mach.updGrid_ctxs (m : Mach) (n : Nat) (f : Grid → Grid) : (m.updGrid n f).ctxs = m.ctxs := rfl
@[simp] theorem Mach.updGrid_cores (m : Mach) (n : Nat) (f : Grid → Grid) : (m.updGrid n f).cores = m.cores := rfl
@[simp] theorem Mach.updGrid_blocks (m : Mach) (n : Nat) (f : Grid → Grid) : (m.updGrid n f).blocks = m.blocks := rfl
@[simp] theorem Mach.updGrid_nextBlk (m : Mach) (n : Nat) (f : Grid → Grid) : (m.updGrid n f).nextBlk = m.nextBlk := rfl
@[simp] theorem Mach.updGrid_faults (m : Mach) (n : Nat) (f : Grid → Grid) : (m.updGrid n f).faults = m.faults := rfl
@[simp] theorem Mach.updGrid_faultSeq (m : Mach) (n : Nat) (f : Grid → Grid) : (m.updGrid n f).faultSeq = m.faultSeq := rfl
@[simp] theorem Mach.updGrid_logs (m : Mach) (n : Nat) (f : Grid → Grid) : (m.updGrid n f).logs = m.logs := rfl
@[simp] theorem Mach.updGrid_esc (m : Mach) (n : Nat) (f : Grid → Grid) : (m.updGrid n f).esc = m.esc := rfl
@[simp] theorem Mach.updGrid_net (m : Mach) (n : Nat) (f : Grid → Grid) : (m.updGrid n f).net = m.net := rfl
@[simp] theorem Mach.updGrid_retain (m : Mach) (n : Nat) (f : Grid → Grid) : (m.updGrid n f).retain = m.retain := rfl
@[simp] theorem Mach.updGrid_nextPkt (m : Mach) (n : Nat) (f : Grid → Grid) : (m.updGrid n f).nextPkt = m.nextPkt := rfl
@[simp] theorem Mach.updGrid_acks (m : Mach) (n : Nat) (f : Grid → Grid) : (m.updGrid n f).acks = m.acks := rfl
@[simp] theorem Mach.updGrid_lostAcks (m : Mach) (n : Nat) (f : Grid → Grid) : (m.updGrid n f).lostAcks = m.lostAcks := rfl
@[simp] theorem Mach.updGrid_contribs (m : Mach) (n : Nat) (f : Grid → Grid) : (m.updGrid n f).contribs = m.contribs := rfl
@[simp] theorem Mach.updGrid_heldCon (m : Mach) (n : Nat) (f : Grid → Grid) : (m.updGrid n f).heldCon = m.heldCon := rfl
@[simp] theorem Mach.updGrid_slots (m : Mach) (n : Nat) (f : Grid → Grid) : (m.updGrid n f).slots = m.slots := rfl
@[simp] theorem Mach.updGrid_pairs (m : Mach) (n : Nat) (f : Grid → Grid) : (m.updGrid n f).pairs = m.pairs := rfl
@[simp] theorem Mach.updGrid_links (m : Mach) (n : Nat) (f : Grid → Grid) : (m.updGrid n f).links = m.links := rfl
@[simp] theorem Mach.updGrid_mgmt (m : Mach) (n : Nat) (f : Grid → Grid) : (m.updGrid n f).mgmt = m.mgmt := rfl
@[simp] theorem Mach.updGrid_ackOpen (m : Mach) (n : Nat) (f : Grid → Grid) : (m.updGrid n f).ackOpen = m.ackOpen := rfl
@[simp] theorem Mach.updGrid_chanReq (m : Mach) (n : Nat) (f : Grid → Grid) : (m.updGrid n f).chanReq = m.chanReq := rfl
@[simp] theorem Mach.updGrid_qps (m : Mach) (n : Nat) (f : Grid → Grid) : (m.updGrid n f).qps = m.qps := rfl
@[simp] theorem Mach.updGrid_image (m : Mach) (n : Nat) (f : Grid → Grid) : (m.updGrid n f).image = m.image := rfl
@[simp] theorem Mach.updGrid_staged (m : Mach) (n : Nat) (f : Grid → Grid) : (m.updGrid n f).staged = m.staged := rfl
@[simp] theorem Mach.updGrid_nextCore (m : Mach) (n : Nat) (f : Grid → Grid) : (m.updGrid n f).nextCore = m.nextCore := rfl
@[simp] theorem Mach.updGrid_front (m : Mach) (n : Nat) (f : Grid → Grid) : (m.updGrid n f).front = m.front := rfl
@[simp] theorem Mach.updGrid_period (m : Mach) (n : Nat) (f : Grid → Grid) : (m.updGrid n f).period = m.period := rfl
@[simp] theorem Mach.updGrid_ctxCnt (m : Mach) (n : Nat) (f : Grid → Grid) : (m.updGrid n f).ctxCnt = m.ctxCnt := rfl

@[simp] theorem Mach.updCtx_clock (m : Mach) (n : Nat) (f : Ctx → Ctx) : (m.updCtx n f).clock = m.clock := rfl
@[simp] theorem Mach.updCtx_bootState (m : Mach) (n : Nat) (f : Ctx → Ctx) : (m.updCtx n f).bootState = m.bootState := rfl
@[simp] theorem Mach.updCtx_bootStep (m : Mach) (n : Nat) (f : Ctx → Ctx) : (m.updCtx n f).bootStep = m.bootStep := rfl
@[simp] theorem Mach.updCtx_bootReason (m : Mach) (n : Nat) (f : Ctx → Ctx) : (m.updCtx n f).bootReason = m.bootReason := rfl
@[simp] theorem Mach.updCtx_rmap (m : Mach) (n : Nat) (f : Ctx → Ctx) : (m.updCtx n f).rmap = m.rmap := rfl
@[simp] theorem Mach.updCtx_pubBody (m : Mach) (n : Nat) (f : Ctx → Ctx) : (m.updCtx n f).pubBody = m.pubBody := rfl
@[simp] theorem Mach.updCtx_pubVer (m : Mach) (n : Nat) (f : Ctx → Ctx) : (m.updCtx n f).pubVer = m.pubVer := rfl
@[simp] theorem Mach.updCtx_booting (m : Mach) (n : Nat) (f : Ctx → Ctx) : (m.updCtx n f).booting = m.booting := rfl
@[simp] theorem Mach.updCtx_hostCap (m : Mach) (n : Nat) (f : Ctx → Ctx) : (m.updCtx n f).hostCap = m.hostCap := rfl
@[simp] theorem Mach.updCtx_boardCap (m : Mach) (n : Nat) (f : Ctx → Ctx) : (m.updCtx n f).boardCap = m.boardCap := rfl
@[simp] theorem Mach.updCtx_rateNow (m : Mach) (n : Nat) (f : Ctx → Ctx) : (m.updCtx n f).rateNow = m.rateNow := rfl
@[simp] theorem Mach.updCtx_temp (m : Mach) (n : Nat) (f : Ctx → Ctx) : (m.updCtx n f).temp = m.temp := rfl
@[simp] theorem Mach.updCtx_hot (m : Mach) (n : Nat) (f : Ctx → Ctx) : (m.updCtx n f).hot = m.hot := rfl
@[simp] theorem Mach.updCtx_keys (m : Mach) (n : Nat) (f : Ctx → Ctx) : (m.updCtx n f).keys = m.keys := rfl
@[simp] theorem Mach.updCtx_keyTab (m : Mach) (n : Nat) (f : Ctx → Ctx) : (m.updCtx n f).keyTab = m.keyTab := rfl
@[simp] theorem Mach.updCtx_boots (m : Mach) (n : Nat) (f : Ctx → Ctx) : (m.updCtx n f).boots = m.boots := rfl
@[simp] theorem Mach.updCtx_sealKeys (m : Mach) (n : Nat) (f : Ctx → Ctx) : (m.updCtx n f).sealKeys = m.sealKeys := rfl
@[simp] theorem Mach.updCtx_tlb (m : Mach) (n : Nat) (f : Ctx → Ctx) : (m.updCtx n f).tlb = m.tlb := rfl
@[simp] theorem Mach.updCtx_bias (m : Mach) (n : Nat) (f : Ctx → Ctx) : (m.updCtx n f).bias = m.bias := rfl
@[simp] theorem Mach.updCtx_mem (m : Mach) (n : Nat) (f : Ctx → Ctx) : (m.updCtx n f).mem = m.mem := rfl
@[simp] theorem Mach.updCtx_poison (m : Mach) (n : Nat) (f : Ctx → Ctx) : (m.updCtx n f).poison = m.poison := rfl
@[simp] theorem Mach.updCtx_l1Bad (m : Mach) (n : Nat) (f : Ctx → Ctx) : (m.updCtx n f).l1Bad = m.l1Bad := rfl
@[simp] theorem Mach.updCtx_dir (m : Mach) (n : Nat) (f : Ctx → Ctx) : (m.updCtx n f).dir = m.dir := rfl
@[simp] theorem Mach.updCtx_rings (m : Mach) (n : Nat) (f : Ctx → Ctx) : (m.updCtx n f).rings = m.rings := rfl
@[simp] theorem Mach.updCtx_queues (m : Mach) (n : Nat) (f : Ctx → Ctx) : (m.updCtx n f).queues = m.queues := rfl
@[simp] theorem Mach.updCtx_cmds (m : Mach) (n : Nat) (f : Ctx → Ctx) : (m.updCtx n f).cmds = m.cmds := rfl
@[simp] theorem Mach.updCtx_grids (m : Mach) (n : Nat) (f : Ctx → Ctx) : (m.updCtx n f).grids = m.grids := rfl
@[simp] theorem Mach.updCtx_gridCnt (m : Mach) (n : Nat) (f : Ctx → Ctx) : (m.updCtx n f).gridCnt = m.gridCnt := rfl
@[simp] theorem Mach.updCtx_cores (m : Mach) (n : Nat) (f : Ctx → Ctx) : (m.updCtx n f).cores = m.cores := rfl
@[simp] theorem Mach.updCtx_blocks (m : Mach) (n : Nat) (f : Ctx → Ctx) : (m.updCtx n f).blocks = m.blocks := rfl
@[simp] theorem Mach.updCtx_nextBlk (m : Mach) (n : Nat) (f : Ctx → Ctx) : (m.updCtx n f).nextBlk = m.nextBlk := rfl
@[simp] theorem Mach.updCtx_faults (m : Mach) (n : Nat) (f : Ctx → Ctx) : (m.updCtx n f).faults = m.faults := rfl
@[simp] theorem Mach.updCtx_faultSeq (m : Mach) (n : Nat) (f : Ctx → Ctx) : (m.updCtx n f).faultSeq = m.faultSeq := rfl
@[simp] theorem Mach.updCtx_logs (m : Mach) (n : Nat) (f : Ctx → Ctx) : (m.updCtx n f).logs = m.logs := rfl
@[simp] theorem Mach.updCtx_esc (m : Mach) (n : Nat) (f : Ctx → Ctx) : (m.updCtx n f).esc = m.esc := rfl
@[simp] theorem Mach.updCtx_net (m : Mach) (n : Nat) (f : Ctx → Ctx) : (m.updCtx n f).net = m.net := rfl
@[simp] theorem Mach.updCtx_retain (m : Mach) (n : Nat) (f : Ctx → Ctx) : (m.updCtx n f).retain = m.retain := rfl
@[simp] theorem Mach.updCtx_nextPkt (m : Mach) (n : Nat) (f : Ctx → Ctx) : (m.updCtx n f).nextPkt = m.nextPkt := rfl
@[simp] theorem Mach.updCtx_acks (m : Mach) (n : Nat) (f : Ctx → Ctx) : (m.updCtx n f).acks = m.acks := rfl
@[simp] theorem Mach.updCtx_lostAcks (m : Mach) (n : Nat) (f : Ctx → Ctx) : (m.updCtx n f).lostAcks = m.lostAcks := rfl
@[simp] theorem Mach.updCtx_contribs (m : Mach) (n : Nat) (f : Ctx → Ctx) : (m.updCtx n f).contribs = m.contribs := rfl
@[simp] theorem Mach.updCtx_heldCon (m : Mach) (n : Nat) (f : Ctx → Ctx) : (m.updCtx n f).heldCon = m.heldCon := rfl
@[simp] theorem Mach.updCtx_slots (m : Mach) (n : Nat) (f : Ctx → Ctx) : (m.updCtx n f).slots = m.slots := rfl
@[simp] theorem Mach.updCtx_pairs (m : Mach) (n : Nat) (f : Ctx → Ctx) : (m.updCtx n f).pairs = m.pairs := rfl
@[simp] theorem Mach.updCtx_links (m : Mach) (n : Nat) (f : Ctx → Ctx) : (m.updCtx n f).links = m.links := rfl
@[simp] theorem Mach.updCtx_mgmt (m : Mach) (n : Nat) (f : Ctx → Ctx) : (m.updCtx n f).mgmt = m.mgmt := rfl
@[simp] theorem Mach.updCtx_ackOpen (m : Mach) (n : Nat) (f : Ctx → Ctx) : (m.updCtx n f).ackOpen = m.ackOpen := rfl
@[simp] theorem Mach.updCtx_chanReq (m : Mach) (n : Nat) (f : Ctx → Ctx) : (m.updCtx n f).chanReq = m.chanReq := rfl
@[simp] theorem Mach.updCtx_qps (m : Mach) (n : Nat) (f : Ctx → Ctx) : (m.updCtx n f).qps = m.qps := rfl
@[simp] theorem Mach.updCtx_image (m : Mach) (n : Nat) (f : Ctx → Ctx) : (m.updCtx n f).image = m.image := rfl
@[simp] theorem Mach.updCtx_staged (m : Mach) (n : Nat) (f : Ctx → Ctx) : (m.updCtx n f).staged = m.staged := rfl
@[simp] theorem Mach.updCtx_nextCore (m : Mach) (n : Nat) (f : Ctx → Ctx) : (m.updCtx n f).nextCore = m.nextCore := rfl
@[simp] theorem Mach.updCtx_front (m : Mach) (n : Nat) (f : Ctx → Ctx) : (m.updCtx n f).front = m.front := rfl
@[simp] theorem Mach.updCtx_period (m : Mach) (n : Nat) (f : Ctx → Ctx) : (m.updCtx n f).period = m.period := rfl
@[simp] theorem Mach.updCtx_ctxCnt (m : Mach) (n : Nat) (f : Ctx → Ctx) : (m.updCtx n f).ctxCnt = m.ctxCnt := rfl

@[simp] theorem Mach.updQueue_clock (m : Mach) (q : Nat) (f : Queue → Queue) : (m.updQueue q f).clock = m.clock := rfl
@[simp] theorem Mach.updQueue_bootState (m : Mach) (q : Nat) (f : Queue → Queue) : (m.updQueue q f).bootState = m.bootState := rfl
@[simp] theorem Mach.updQueue_bootStep (m : Mach) (q : Nat) (f : Queue → Queue) : (m.updQueue q f).bootStep = m.bootStep := rfl
@[simp] theorem Mach.updQueue_bootReason (m : Mach) (q : Nat) (f : Queue → Queue) : (m.updQueue q f).bootReason = m.bootReason := rfl
@[simp] theorem Mach.updQueue_rmap (m : Mach) (q : Nat) (f : Queue → Queue) : (m.updQueue q f).rmap = m.rmap := rfl
@[simp] theorem Mach.updQueue_pubBody (m : Mach) (q : Nat) (f : Queue → Queue) : (m.updQueue q f).pubBody = m.pubBody := rfl
@[simp] theorem Mach.updQueue_pubVer (m : Mach) (q : Nat) (f : Queue → Queue) : (m.updQueue q f).pubVer = m.pubVer := rfl
@[simp] theorem Mach.updQueue_booting (m : Mach) (q : Nat) (f : Queue → Queue) : (m.updQueue q f).booting = m.booting := rfl
@[simp] theorem Mach.updQueue_hostCap (m : Mach) (q : Nat) (f : Queue → Queue) : (m.updQueue q f).hostCap = m.hostCap := rfl
@[simp] theorem Mach.updQueue_boardCap (m : Mach) (q : Nat) (f : Queue → Queue) : (m.updQueue q f).boardCap = m.boardCap := rfl
@[simp] theorem Mach.updQueue_rateNow (m : Mach) (q : Nat) (f : Queue → Queue) : (m.updQueue q f).rateNow = m.rateNow := rfl
@[simp] theorem Mach.updQueue_temp (m : Mach) (q : Nat) (f : Queue → Queue) : (m.updQueue q f).temp = m.temp := rfl
@[simp] theorem Mach.updQueue_hot (m : Mach) (q : Nat) (f : Queue → Queue) : (m.updQueue q f).hot = m.hot := rfl
@[simp] theorem Mach.updQueue_keys (m : Mach) (q : Nat) (f : Queue → Queue) : (m.updQueue q f).keys = m.keys := rfl
@[simp] theorem Mach.updQueue_keyTab (m : Mach) (q : Nat) (f : Queue → Queue) : (m.updQueue q f).keyTab = m.keyTab := rfl
@[simp] theorem Mach.updQueue_boots (m : Mach) (q : Nat) (f : Queue → Queue) : (m.updQueue q f).boots = m.boots := rfl
@[simp] theorem Mach.updQueue_sealKeys (m : Mach) (q : Nat) (f : Queue → Queue) : (m.updQueue q f).sealKeys = m.sealKeys := rfl
@[simp] theorem Mach.updQueue_tlb (m : Mach) (q : Nat) (f : Queue → Queue) : (m.updQueue q f).tlb = m.tlb := rfl
@[simp] theorem Mach.updQueue_bias (m : Mach) (q : Nat) (f : Queue → Queue) : (m.updQueue q f).bias = m.bias := rfl
@[simp] theorem Mach.updQueue_mem (m : Mach) (q : Nat) (f : Queue → Queue) : (m.updQueue q f).mem = m.mem := rfl
@[simp] theorem Mach.updQueue_poison (m : Mach) (q : Nat) (f : Queue → Queue) : (m.updQueue q f).poison = m.poison := rfl
@[simp] theorem Mach.updQueue_l1Bad (m : Mach) (q : Nat) (f : Queue → Queue) : (m.updQueue q f).l1Bad = m.l1Bad := rfl
@[simp] theorem Mach.updQueue_dir (m : Mach) (q : Nat) (f : Queue → Queue) : (m.updQueue q f).dir = m.dir := rfl
@[simp] theorem Mach.updQueue_rings (m : Mach) (q : Nat) (f : Queue → Queue) : (m.updQueue q f).rings = m.rings := rfl
@[simp] theorem Mach.updQueue_cmds (m : Mach) (q : Nat) (f : Queue → Queue) : (m.updQueue q f).cmds = m.cmds := rfl
@[simp] theorem Mach.updQueue_grids (m : Mach) (q : Nat) (f : Queue → Queue) : (m.updQueue q f).grids = m.grids := rfl
@[simp] theorem Mach.updQueue_gridCnt (m : Mach) (q : Nat) (f : Queue → Queue) : (m.updQueue q f).gridCnt = m.gridCnt := rfl
@[simp] theorem Mach.updQueue_ctxs (m : Mach) (q : Nat) (f : Queue → Queue) : (m.updQueue q f).ctxs = m.ctxs := rfl
@[simp] theorem Mach.updQueue_cores (m : Mach) (q : Nat) (f : Queue → Queue) : (m.updQueue q f).cores = m.cores := rfl
@[simp] theorem Mach.updQueue_blocks (m : Mach) (q : Nat) (f : Queue → Queue) : (m.updQueue q f).blocks = m.blocks := rfl
@[simp] theorem Mach.updQueue_nextBlk (m : Mach) (q : Nat) (f : Queue → Queue) : (m.updQueue q f).nextBlk = m.nextBlk := rfl
@[simp] theorem Mach.updQueue_faults (m : Mach) (q : Nat) (f : Queue → Queue) : (m.updQueue q f).faults = m.faults := rfl
@[simp] theorem Mach.updQueue_faultSeq (m : Mach) (q : Nat) (f : Queue → Queue) : (m.updQueue q f).faultSeq = m.faultSeq := rfl
@[simp] theorem Mach.updQueue_logs (m : Mach) (q : Nat) (f : Queue → Queue) : (m.updQueue q f).logs = m.logs := rfl
@[simp] theorem Mach.updQueue_esc (m : Mach) (q : Nat) (f : Queue → Queue) : (m.updQueue q f).esc = m.esc := rfl
@[simp] theorem Mach.updQueue_net (m : Mach) (q : Nat) (f : Queue → Queue) : (m.updQueue q f).net = m.net := rfl
@[simp] theorem Mach.updQueue_retain (m : Mach) (q : Nat) (f : Queue → Queue) : (m.updQueue q f).retain = m.retain := rfl
@[simp] theorem Mach.updQueue_nextPkt (m : Mach) (q : Nat) (f : Queue → Queue) : (m.updQueue q f).nextPkt = m.nextPkt := rfl
@[simp] theorem Mach.updQueue_acks (m : Mach) (q : Nat) (f : Queue → Queue) : (m.updQueue q f).acks = m.acks := rfl
@[simp] theorem Mach.updQueue_lostAcks (m : Mach) (q : Nat) (f : Queue → Queue) : (m.updQueue q f).lostAcks = m.lostAcks := rfl
@[simp] theorem Mach.updQueue_contribs (m : Mach) (q : Nat) (f : Queue → Queue) : (m.updQueue q f).contribs = m.contribs := rfl
@[simp] theorem Mach.updQueue_heldCon (m : Mach) (q : Nat) (f : Queue → Queue) : (m.updQueue q f).heldCon = m.heldCon := rfl
@[simp] theorem Mach.updQueue_slots (m : Mach) (q : Nat) (f : Queue → Queue) : (m.updQueue q f).slots = m.slots := rfl
@[simp] theorem Mach.updQueue_pairs (m : Mach) (q : Nat) (f : Queue → Queue) : (m.updQueue q f).pairs = m.pairs := rfl
@[simp] theorem Mach.updQueue_links (m : Mach) (q : Nat) (f : Queue → Queue) : (m.updQueue q f).links = m.links := rfl
@[simp] theorem Mach.updQueue_mgmt (m : Mach) (q : Nat) (f : Queue → Queue) : (m.updQueue q f).mgmt = m.mgmt := rfl
@[simp] theorem Mach.updQueue_ackOpen (m : Mach) (q : Nat) (f : Queue → Queue) : (m.updQueue q f).ackOpen = m.ackOpen := rfl
@[simp] theorem Mach.updQueue_chanReq (m : Mach) (q : Nat) (f : Queue → Queue) : (m.updQueue q f).chanReq = m.chanReq := rfl
@[simp] theorem Mach.updQueue_qps (m : Mach) (q : Nat) (f : Queue → Queue) : (m.updQueue q f).qps = m.qps := rfl
@[simp] theorem Mach.updQueue_image (m : Mach) (q : Nat) (f : Queue → Queue) : (m.updQueue q f).image = m.image := rfl
@[simp] theorem Mach.updQueue_staged (m : Mach) (q : Nat) (f : Queue → Queue) : (m.updQueue q f).staged = m.staged := rfl
@[simp] theorem Mach.updQueue_nextCore (m : Mach) (q : Nat) (f : Queue → Queue) : (m.updQueue q f).nextCore = m.nextCore := rfl
@[simp] theorem Mach.updQueue_front (m : Mach) (q : Nat) (f : Queue → Queue) : (m.updQueue q f).front = m.front := rfl
@[simp] theorem Mach.updQueue_period (m : Mach) (q : Nat) (f : Queue → Queue) : (m.updQueue q f).period = m.period := rfl
@[simp] theorem Mach.updQueue_ctxCnt (m : Mach) (q : Nat) (f : Queue → Queue) : (m.updQueue q f).ctxCnt = m.ctxCnt := rfl

/-- Element j of a list after a change of element i. -/
theorem modAt_getElem? {α : Type} (l : List α) (i j : Nat) (f : α → α) : (modAt l i f)[j]? = if j = i then l[j]?.map f else l[j]? := by
  induction l generalizing i j with
  | nil => simp [modAt]
  | cons x xs ih =>
    cases i with
    | zero => cases j <;> simp [modAt]
    | succ i =>
      cases j with
      | zero => simp [modAt]
      | succ j => simp [modAt, ih]

@[simp] theorem modAt_length {α : Type} (l : List α) (i : Nat) (f : α → α) : (modAt l i f).length = l.length := by
  induction l generalizing i with
  | nil => rfl
  | cons x xs ih => cases i <;> simp [modAt, ih]

theorem updQueue_queue (m : Mach) (q : Nat) (f : Queue → Queue) (h : q < m.queues.length) : (m.updQueue q f).queue q = f (m.queue q) := by
  simp only [Mach.queue, Mach.updQueue, List.getD_eq_getElem?_getD, modAt_getElem?, if_true]
  simp [h]

theorem updQueue_other (m : Mach) (q p : Nat) (f : Queue → Queue) (h : p ≠ q) : (m.updQueue q f).queue p = m.queue p := by
  simp [Mach.queue, Mach.updQueue, List.getD_eq_getElem?_getD, modAt_getElem?, h]

theorem updCore_core (m : Mach) (c : Nat) (f : Core → Core) (h : c < m.cores.length) : (m.updCore c f).core c = f (m.core c) := by
  simp only [Mach.core, Mach.updCore, List.getD_eq_getElem?_getD, modAt_getElem?, if_true]
  simp [h]

theorem updCore_other (m : Mach) (c d : Nat) (f : Core → Core) (h : d ≠ c) : (m.updCore c f).core d = m.core d := by
  simp [Mach.core, Mach.updCore, List.getD_eq_getElem?_getD, modAt_getElem?, h]

end Sys2Proof.Machine
end

