-- ==== Sys2Proof/Laws/Ops.lean ====
section
/-! SUPPORT. What each shared operation of the package can change: one lemma each, which a later proof cites instead of unfolding the operation. A lemma says that the result is the machine with new values of the fields it names, and so that every other field stays. -/

namespace Sys2Proof.Machine

/-- R334: a write of bytes changes memory and the keys of its sectors alone. -/
theorem putCells_fields (m : Mach) (cs : List Host.Cell) : ∃ mem ks, m.putCells cs = { m with mem := mem, sealKeys := ks } := by
  have one (m : Mach) (k s : Nat) : ∃ mem ks, m.rekey k s = { m with mem := mem, sealKeys := ks } := by
    unfold Mach.rekey; split
    · exact ⟨m.mem, m.sealKeys, rfl⟩
    · exact ⟨_, _, rfl⟩
  have all (k : Nat) (ss : List Nat) (m : Mach) : ∃ mem ks, ss.foldl (fun m s => m.rekey k s) m = { m with mem := mem, sealKeys := ks } := by
    induction ss generalizing m with
    | nil => exact ⟨m.mem, m.sealKeys, rfl⟩
    | cons s ss ih =>
      obtain ⟨mem, ks, e⟩ := one m k s
      rw [List.foldl_cons, e]
      exact ih { m with mem := mem, sealKeys := ks }
  unfold Mach.putCells
  generalize (cs.map fun c => keyCrypt c.1).eraseDups = ids
  induction ids generalizing m with
  | nil => exact ⟨m.mem, m.sealKeys, rfl⟩
  | cons k rest ih =>
    obtain ⟨mem, ks, e⟩ := all k (((cs.filter fun c => keyCrypt c.1 == k).map fun c => sectorOf c.1).eraseDups) m
    rw [List.foldl_cons]
    simp only [e]
    exact ih { m with mem := mem.setCells ((cs.filter fun c => keyCrypt c.1 == k).map fun c => (plainKey c.1, c.2)), sealKeys := ks }

theorem hostWrite_eq (m : Mach) (a : Nat) (bs : List Byte) : ∃ mem ks, m.hostWrite a bs = { m with mem := mem, sealKeys := ks } :=
  putCells_fields m _

/-- R318: a record changes the error logs alone. -/
theorem log_eq (m : Mach) (i : LogInfo) (c : Option (List Byte)) : ∃ ls, m.log i c = { m with logs := ls } := by
  cases h : m.logs[i.die]? with
  | none => exact ⟨m.logs, by simp [Mach.log, h]⟩
  | some lg =>
    by_cases hn : 256 < lg.recs.length + (if c.isSome then 2 else 1)
    · exact ⟨_, by simp only [Mach.log, h, if_pos hn]; rfl⟩
    · exact ⟨_, by simp only [Mach.log, h, if_neg hn]; rfl⟩

/-- R325: what a ring writes is memory, with the keys of its sectors, and the rings. -/
theorem ringFlush_eq (m : Mach) (i n : Nat) : ∃ mem ks rs, m.ringFlush i n = { m with mem := mem, sealKeys := ks, rings := rs } := by
  induction n generalizing m with
  | zero => exact ⟨_, _, _, rfl⟩
  | succ n ih =>
    cases h : (m.rings.getD i Ring.empty).held with
    | nil => exact ⟨m.mem, m.sealKeys, m.rings, by simp only [Mach.ringFlush, h]⟩
    | cons x xs =>
      by_cases hr : (m.rings.getD i Ring.empty).room = true
      · simp only [Mach.ringFlush, h, hr, if_true]
        obtain ⟨mem, ks, e⟩ := hostWrite_eq m ((m.rings.getD i Ring.empty).base + ((m.rings.getD i Ring.empty).tail % 2 ^ (m.rings.getD i Ring.empty).logs) * ringRec i) x
        rw [e]
        exact ih { m with mem := mem, sealKeys := ks, rings := _ }
      · exact ⟨m.mem, m.sealKeys, m.rings, by simp only [Mach.ringFlush, h, hr]; rfl⟩

theorem ringPush_eq (m : Mach) (i : Nat) (x : List Byte) : ∃ mem ks rs, m.ringPush i x = { m with mem := mem, sealKeys := ks, rings := rs } :=
  ringFlush_eq { m with rings := modAt m.rings i fun r => { r with held := r.held ++ [x] } } i
    ((modAt m.rings i fun r => { r with held := r.held ++ [x] }).getD i Ring.empty).held.length

/-- R325: a notice writes memory and the rings. -/
theorem notice_eq (m : Mach) (k c a b : Nat) : ∃ mem ks rs, m.notice k c a b = { m with mem := mem, sealKeys := ks, rings := rs } := ringPush_eq _ _ _

theorem addPoison_eq (m : Mach) (s : Nat) : ∃ ps, m.addPoison s = { m with poison := ps } := by
  unfold Mach.addPoison; split
  · exact ⟨m.poison, rfl⟩
  · exact ⟨_, rfl⟩

theorem mem_addPoison (m : Mach) (x y : Nat) : y ∈ (m.addPoison x).poison ↔ y = x ∨ y ∈ m.poison := by
  unfold Mach.addPoison; split
  · rename_i h
    simp only [List.contains_eq_mem, decide_eq_true_eq] at h
    exact ⟨Or.inr, fun h2 => by rcases h2 with h2 | h2 <;> simp_all⟩
  · simp

theorem observe_eq (m : Mach) (s : Nat) : ∃ bs lb, m.observe s = { m with blocks := bs, l1Bad := lb } := ⟨_, _, rfl⟩

/-- R315: poisoning sectors changes the poison list, the watching paths, the poisoned L1 copies and the logs; every sector named is poisoned. -/
theorem poisonAll_eq (m : Mach) (die sub : Nat) (pas : List Nat) :
    ∃ ps bs lb ls, m.poisonAll die sub pas = { m with poison := ps, blocks := bs, l1Bad := lb, logs := ls } ∧ (∀ x ∈ m.poison, x ∈ ps) ∧
      ∀ pa ∈ pas, sectorOf (keyOf m.rmap.pkg pa) ∈ ps := by
  unfold Mach.poisonAll
  induction pas generalizing m with
  | nil => exact ⟨_, _, _, _, rfl, by simp, by simp⟩
  | cons p rest ih =>
    simp only [List.foldl_cons]
    generalize hl : ({ cause := 0x0F, sub := sub, die := die, ctx := none, core := none, warp := none, flags := 0, rolls := none, va := none, pa := some (p / 128 * 128), pc := none, grid := none, detail := 0 } : LogInfo) = li
    obtain ⟨ps, e1⟩ := addPoison_eq m (sectorOf (keyOf m.rmap.pkg p))
    obtain ⟨bs, lb, e2⟩ := observe_eq (m.addPoison (sectorOf (keyOf m.rmap.pkg p))) (sectorOf (keyOf m.rmap.pkg p))
    obtain ⟨ls, e3⟩ := log_eq ((m.addPoison (sectorOf (keyOf m.rmap.pkg p))).observe (sectorOf (keyOf m.rmap.pkg p))) li none
    have hp : ∀ y, y = sectorOf (keyOf m.rmap.pkg p) ∨ y ∈ m.poison → y ∈ ps := by
      intro y hy
      have := (mem_addPoison m (sectorOf (keyOf m.rmap.pkg p)) y).mpr hy
      rw [e1] at this; exact this
    rw [e3, e2, e1]
    obtain ⟨a, b, d, c, e, h1, h2⟩ := ih { m with poison := ps, blocks := bs, l1Bad := lb, logs := ls }
    refine ⟨a, b, d, c, e, fun x hx => h1 x (hp x (Or.inr hx)), ?_⟩
    intro pa hpa
    rcases List.mem_cons.mp hpa with rfl | h
    · exact h1 _ (hp _ (Or.inl rfl))
    · exact h2 pa h

/-- R193: a completed number is noted in its context. -/
theorem tlFinish_eq (m : Mach) (c t n : Nat) : ∃ cs, m.tlFinish c t n = { m with ctxs := cs } := by
  unfold Mach.tlFinish; split
  · exact ⟨m.ctxs, rfl⟩
  · exact ⟨_, rfl⟩

theorem cplFlush_eq (m : Mach) (q n : Nat) : ∃ mem ks qs, m.cplFlush q n = { m with mem := mem, sealKeys := ks, queues := qs } := by
  induction n generalizing m with
  | zero => exact ⟨_, _, _, rfl⟩
  | succ n ih =>
    cases h : (m.queue q).held with
    | nil => exact ⟨m.mem, m.sealKeys, m.queues, by simp only [Mach.cplFlush, h]⟩
    | cons x xs =>
      by_cases hr : ((m.queue q).cplcount + 2 ^ 32 - (m.queue q).cplhead) % 2 ^ 32 < 2 ^ (m.queue q).logs
      · simp only [Mach.cplFlush, h, if_pos hr]
        obtain ⟨mem, ks, e⟩ := hostWrite_eq m ((m.queue q).cplbase + 32 * ((m.queue q).cplcount % 2 ^ (m.queue q).logs))
          (x.set 7 (BitVec.ofNat 8 (1 - (m.queue q).cplcount / 2 ^ (m.queue q).logs % 2)))
        rw [e]
        exact ih (({ m with mem := mem, sealKeys := ks } : Mach).updQueue q fun k => { k with cplcount := k.cplcount + 1, held := xs })
      · exact ⟨m.mem, m.sealKeys, m.queues, by simp only [Mach.cplFlush, h, if_neg hr]⟩

/-- R329: a completion record changes memory and its queue. -/
theorem postCpl_eq (m : Mach) (q seq op sub st tag res v : Nat) :
    ∃ mem ks qs, m.postCpl q seq op sub st tag res v = { m with mem := mem, sealKeys := ks, queues := qs } := by
  obtain ⟨a, ks, b, e⟩ := cplFlush_eq (m.updQueue q fun k => { k with held := k.held ++ [leBytes 4 seq ++ leBytes 1 op ++ leBytes 1 sub ++ leBytes 1 st ++ zeros 1 ++ leBytes 8 tag ++ leBytes 8 res ++ leBytes 8 v] }) q
    ((m.updQueue q fun k => { k with held := k.held ++ [leBytes 4 seq ++ leBytes 1 op ++ leBytes 1 sub ++ leBytes 1 st ++ zeros 1 ++ leBytes 8 tag ++ leBytes 8 res ++ leBytes 8 v] }).queue q).held.length
  exact ⟨a, ks, b, e⟩

/-- R329: a command that completes changes memory, the queues, the list of commands and its timeline. -/
theorem finishCmd_eq (m : Mach) (c : Cmd) (sub st res v : Nat) :
    ∃ mem ks qs cs xs, m.finishCmd c sub st res v = { m with mem := mem, sealKeys := ks, queues := qs, cmds := cs, ctxs := xs } := by
  obtain ⟨a, ks, b, e⟩ := postCpl_eq m c.q c.seq c.op sub st c.tag res v
  simp only [Mach.finishCmd, e]
  split
  · exact ⟨_, _, _, _, _, rfl⟩
  · obtain ⟨cs, h⟩ := tlFinish_eq { ({ m with mem := a, sealKeys := ks, queues := b } : Mach).updQueue c.q (fun k =>
        { k with
          lastcomp := ((List.range (c.seq :: k.done).length).foldl (fun (p : Nat × List Nat) (_ : Nat) =>
            if p.2.contains ((p.1 + 1) % 2 ^ 32) then ((p.1 + 1) % 2 ^ 32, p.2.filter fun x => x != (p.1 + 1) % 2 ^ 32) else p) (k.lastcomp, c.seq :: k.done)).1,
          done := ((List.range (c.seq :: k.done).length).foldl (fun (p : Nat × List Nat) (_ : Nat) =>
            if p.2.contains ((p.1 + 1) % 2 ^ 32) then ((p.1 + 1) % 2 ^ 32, p.2.filter fun x => x != (p.1 + 1) % 2 ^ 32) else p) (k.lastcomp, c.seq :: k.done)).2,
          lasterr := if st = 0 then k.lasterr else c.seq, errstat := if st = 0 then k.errstat else st * 256 + sub }) with
        cmds := m.cmds.filter fun x => !(x.q == c.q && x.seq == c.seq) } c.ctx c.tl c.tlNum
    exact ⟨_, _, _, _, cs, h⟩

/-- R31: events of one cycle are put in order in the history and in the contexts' lists. -/
theorem orderCycle_eq (m : Mach) : ∃ rm cs, m.orderCycle = { m with rmap := rm, ctxs := cs } := ⟨_, _, rfl⟩

theorem ordered_eq (c : Bool) (m : Mach) : ∃ rm cs, (if c then m.orderCycle else m) = { m with rmap := rm, ctxs := cs } := by
  cases c
  · exact ⟨m.rmap, m.ctxs, rfl⟩
  · exact orderCycle_eq m

/-- R28, R31: an event, while a version is left, changes the map, the contexts, memory and the rings. -/
theorem postEvent_eq (m : Mach) (kind obj idx : Nat) (f : ResMap → ResMap) (h : m.rmap.ver ≠ 2 ^ 32 - 1) :
    ∃ rm cs mem ks rs, m.postEvent kind obj idx f = { m with rmap := rm, ctxs := cs, mem := mem, sealKeys := ks, rings := rs } := by
  unfold Mach.postEvent
  split
  · exact ⟨_, _, _, _, _, rfl⟩
  · obtain ⟨rm, cs, e1⟩ := ordered_eq (m.rmap.hist.any fun e => e.time == m.clock) { m with
        rmap := { (f m.rmap).judged with ver := m.rmap.ver + 1, hist := (({ ver := m.rmap.ver + 1, kind := kind, obj := obj, idx := idx, time := m.clock } : MapEvent) :: (f m.rmap).judged.hist).take 16 },
        ctxs := m.ctxs.map (fun (c : Ctx) => { c with events := c.events ++ [(m.rmap.ver + 1, kind, m.clock)] }) }
    obtain ⟨mem, ks, rs, e⟩ := notice_eq { m with rmap := rm, ctxs := cs } 1 0xFF (m.rmap.ver + 1) 0
    exact ⟨_, _, mem, ks, rs, (congrArg (fun x => x.notice 1 0xFF (m.rmap.ver + 1) 0) e1).trans e⟩

end Sys2Proof.Machine
end

