-- ==== Sys2Proof/Laws/PerInstr.lean ====
section
/-! SUPPORT. Facts about every instruction as syntax, one lemma per constructor of Instr: the header and major its word shows, and that only a host carries a prefix payload (R96, R100, R115, R116). -/

namespace Sys2Proof.Laws

theorem opOf_wordOf (h : Hdr) (op : BitVec 7) (x : BitVec 19) : opOf (wordOf h op x) = op := by
  apply BitVec.eq_of_getLsbD_eq
  intro i hi
  simp only [opOf, wordOf, BitVec.getLsbD_extractLsb', BitVec.getLsbD_append, hi, decide_true, Bool.true_and]
  rw [if_neg (by omega), if_pos (by omega)]
  congr 1
  omega

/-- R115, R116: an instruction that carries a payload has the word of a host, and only PFX has the prefix's major. -/
def Words.Statement (i : Instr) : Prop :=
  ∀ w, i.word = some w → (i.payload.isSome = true → isHost (opOf w) = true) ∧ (isPfx w = true → ∃ hi lo, i = .pfx hi lo)

/-- A word built from a header, a major and operand bits meets the statement when the major does. -/
theorem words_of (i : Instr) (h : Hdr) (op : BitVec 7) (x : BitVec 19) (hw : i.word = some (wordOf h op x)) (hn : op ≠ 0x7F#7)
    (hp : i.payload = none ∨ isHost op = true) : Words.Statement i := by
  intro w e
  rw [hw] at e
  cases e
  rw [isPfx, opOf_wordOf]
  refine ⟨fun hs => ?_, fun hq => absurd (by simpa using hq) hn⟩
  rcases hp with hp | hp
  · rw [hp] at hs; simp at hs
  · exact hp

theorem Words.packageReset (r : BootReport) : Words.Statement (.packageReset r) := fun _ e => by cases e
theorem Words.coreRetired (die : Nat) (core : Nat) : Words.Statement (.coreRetired die core) := fun _ e => by cases e
theorem Words.l2SliceRetired (die : Nat) (slice : Nat) (unread : List Nat) : Words.Statement (.l2SliceRetired die slice unread) := fun _ e => by cases e
theorem Words.hbmChannelFailing (die : Nat) (chan : Nat) : Words.Statement (.hbmChannelFailing die chan) := fun _ e => by cases e
theorem Words.hbmChannelRemap (die : Nat) (chan : Nat) (unread : List Nat) : Words.Statement (.hbmChannelRemap die chan unread) := fun _ e => by cases e
theorem Words.linkHalving (link : Nat) : Words.Statement (.linkHalving link) := fun _ e => by cases e
theorem Words.linkSilenceTimeout (link : Nat) : Words.Statement (.linkSilenceTimeout link) := fun _ e => by cases e
theorem Words.linkLost (l : PathLoss) : Words.Statement (.linkLost l) := fun _ e => by cases e
theorem Words.planeLost (l : PathLoss) : Words.Statement (.planeLost l) := fun _ e => by cases e
theorem Words.portLost (port : Nat) : Words.Statement (.portLost port) := fun _ e => by cases e
theorem Words.boardCapChange (watts : Nat) : Words.Statement (.boardCapChange watts) := fun _ e => by cases e
theorem Words.contextSuspend (ctx : Nat) : Words.Statement (.contextSuspend ctx) := fun _ e => by cases e
theorem Words.tokenGrant (temp : Nat) : Words.Statement (.tokenGrant temp) := fun _ e => by cases e
theorem Words.descriptorValidation : Words.Statement (.descriptorValidation) := fun _ e => by cases e
theorem Words.blockPlacement (die : Nat) : Words.Statement (.blockPlacement die) := fun _ e => by cases e
theorem Words.steal (die : Nat) (grid : Nat) : Words.Statement (.steal die grid) := fun _ e => by cases e
theorem Words.warpExchange (core : Nat) : Words.Statement (.warpExchange core) := fun _ e => by cases e
theorem Words.pathAged (blk : Nat) (warp : Nat) : Words.Statement (.pathAged blk warp) := fun _ e => by cases e
theorem Words.pollWatchWake (blk : Nat) (warp : Nat) (lane : Nat) : Words.Statement (.pollWatchWake blk warp lane) := fun _ e => by cases e
theorem Words.pollWatchExpiry (blk : Nat) (warp : Nat) (lane : Nat) : Words.Statement (.pollWatchExpiry blk warp lane) := fun _ e => by cases e
theorem Words.bankSwap (core : Nat) : Words.Statement (.bankSwap core) := fun _ e => by cases e
theorem Words.swapComplete (core : Nat) : Words.Statement (.swapComplete core) := fun _ e => by cases e
theorem Words.contextSave (blk : Nat) : Words.Statement (.contextSave blk) := fun _ e => by cases e
theorem Words.blockRestore (blk : Nat) : Words.Statement (.blockRestore blk) := fun _ e => by cases e
theorem Words.longResultArrival (blk : Nat) (warp : Nat) (seq : Nat) : Words.Statement (.longResultArrival blk warp seq) := fun _ e => by cases e
theorem Words.cellarStart (core : Nat) : Words.Statement (.cellarStart core) := fun _ e => by cases e
theorem Words.cellarSpillComplete (core : Nat) : Words.Statement (.cellarSpillComplete core) := fun _ e => by cases e
theorem Words.cellarFillComplete (core : Nat) : Words.Statement (.cellarFillComplete core) := fun _ e => by cases e
theorem Words.subwarpReplay (blk : Nat) (warp : Nat) (lane : Nat) : Words.Statement (.subwarpReplay blk warp lane) := fun _ e => by cases e
theorem Words.softErrorDetected (blk : Nat) (warp : Nat) (sub : Nat) (lanes : Nat) : Words.Statement (.softErrorDetected blk warp sub lanes) := fun _ e => by cases e
theorem Words.memoryEccError (pa : Nat) : Words.Statement (.memoryEccError pa) := fun _ e => by cases e
theorem Words.ch0RoomEnqueue (blk : Nat) : Words.Statement (.ch0RoomEnqueue blk) := fun _ e => by cases e
theorem Words.copyComplete (blk : Nat) (tag : Nat) : Words.Statement (.copyComplete blk tag) := fun _ e => by cases e
theorem Words.snoopWritebackInFlight (line : Nat) : Words.Statement (.snoopWritebackInFlight line) := fun _ e => by cases e
theorem Words.hostMemAccess (write : Bool) (pa : Nat) (len : Nat) (bytes : List (BitVec 8)) : Words.Statement (.hostMemAccess write pa len bytes) := fun _ e => by cases e
theorem Words.mergeHoldExpiry (blk : Nat) (ch : Nat) : Words.Statement (.mergeHoldExpiry blk ch) := fun _ e => by cases e
theorem Words.packetSend (blk : Nat) (ch : Nat) : Words.Statement (.packetSend blk ch) := fun _ e => by cases e
theorem Words.escapementPacketArrival (pkt : Nat) : Words.Statement (.escapementPacketArrival pkt) := fun _ e => by cases e
theorem Words.streamAck (ack : Nat) : Words.Statement (.streamAck ack) := fun _ e => by cases e
theorem Words.startRetry (blk : Nat) (ch : Nat) : Words.Statement (.startRetry blk ch) := fun _ e => by cases e
theorem Words.escapementContextFree (esc : Nat) : Words.Statement (.escapementContextFree esc) := fun _ e => by cases e
theorem Words.retentionResend (pkt : Nat) : Words.Statement (.retentionResend pkt) := fun _ e => by cases e
theorem Words.flitReplayRequest (at_ : LinkModule) (loss : FlitLoss) : Words.Statement (.flitReplayRequest at_ loss) := fun _ e => by cases e
theorem Words.suspectAckTimeout (line : Nat) : Words.Statement (.suspectAckTimeout line) := fun _ e => by cases e
theorem Words.coherenceReissueTimeout (line : Nat) : Words.Statement (.coherenceReissueTimeout line) := fun _ e => by cases e
theorem Words.managementResendTimeout (link : Nat) : Words.Statement (.managementResendTimeout link) := fun _ e => by cases e
theorem Words.bufferLimitRecompute (link : Nat) (toB : Bool) : Words.Statement (.bufferLimitRecompute link toB) := fun _ e => by cases e
theorem Words.bufferLimitAnnounce (link : Nat) (toB : Bool) : Words.Statement (.bufferLimitAnnounce link toB) := fun _ e => by cases e
theorem Words.linklost (link : Nat) : Words.Statement (.linklost link) := fun _ e => by cases e
theorem Words.routesRecomputed (src : Nat) (dst : Nat) : Words.Statement (.routesRecomputed src dst) := fun _ e => by cases e
theorem Words.delivered (src : Nat) (dst : Nat) (strm : Nat) : Words.Statement (.delivered src dst strm) := fun _ e => by cases e
theorem Words.exchangeTimeout (src : Nat) (dst : Nat) : Words.Statement (.exchangeTimeout src dst) := fun _ e => by cases e
theorem Words.syncdone (src : Nat) (dst : Nat) : Words.Statement (.syncdone src dst) := fun _ e => by cases e
theorem Words.slotContribution (rr : Nat) : Words.Statement (.slotContribution rr) := fun _ e => by cases e
theorem Words.slotDeadline (plane : Nat) (slot : Nat) : Words.Statement (.slotDeadline plane slot) := fun _ e => by cases e
theorem Words.slotFree (plane : Nat) (slot : Nat) : Words.Statement (.slotFree plane slot) := fun _ e => by cases e
theorem Words.timelineAdvance (ctx : Nat) (tl : Nat) : Words.Statement (.timelineAdvance ctx tl) := fun _ e => by cases e
theorem Words.gridComplete (grid : Nat) : Words.Statement (.gridComplete grid) := fun _ e => by cases e
theorem Words.miterPhaseStart (core : Nat) : Words.Statement (.miterPhaseStart core) := fun _ e => by cases e
theorem Words.miterIterationEnd (core : Nat) : Words.Statement (.miterIterationEnd core) := fun _ e => by cases e
theorem Words.errorLogDrain (die : Nat) : Words.Statement (.errorLogDrain die) := fun _ e => by cases e
theorem Words.netpostAcknowledged (q : Nat) (seq : Nat) (data : List (BitVec 8)) : Words.Statement (.netpostAcknowledged q seq data) := fun _ e => by cases e
theorem Words.doorbell (q : Nat) (v : Nat) : Words.Statement (.doorbell q v) := fun _ e => by cases e
theorem Words.queueEnable (q : Nat) : Words.Statement (.queueEnable q) := fun _ e => by cases e
theorem Words.queueDisable (q : Nat) : Words.Statement (.queueDisable q) := fun _ e => by cases e
theorem Words.ringHeadWrite (ring : Nat) (v : Nat) : Words.Statement (.ringHeadWrite ring v) := fun _ e => by cases e
theorem Words.hostRegisterWrite (off : Nat) (size : Nat) (v : Nat) : Words.Statement (.hostRegisterWrite off size v) := fun _ e => by cases e
theorem Words.hostLaunch (q : Nat) : Words.Statement (.hostLaunch q) := fun _ e => by cases e
theorem Words.copy (q : Nat) : Words.Statement (.copy q) := fun _ e => by cases e
theorem Words.tlhold (q : Nat) : Words.Statement (.tlhold q) := fun _ e => by cases e
theorem Words.netpost (q : Nat) : Words.Statement (.netpost q) := fun _ e => by cases e
theorem Words.netqp (q : Nat) : Words.Statement (.netqp q) := fun _ e => by cases e
theorem Words.ctxcreate (q : Nat) : Words.Statement (.ctxcreate q) := fun _ e => by cases e
theorem Words.ctxdestroy (q : Nat) : Words.Statement (.ctxdestroy q) := fun _ e => by cases e
theorem Words.tlbinv (q : Nat) : Words.Statement (.tlbinv q) := fun _ e => by cases e
theorem Words.biasflip (q : Nat) : Words.Statement (.biasflip q) := fun _ e => by cases e
theorem Words.faultresp (q : Nat) : Words.Statement (.faultresp q) := fun _ e => by cases e
theorem Words.hostMapack (q : Nat) : Words.Statement (.hostMapack q) := fun _ e => by cases e
theorem Words.chanconf (q : Nat) : Words.Statement (.chanconf q) := fun _ e => by cases e
theorem Words.kill (q : Nat) : Words.Statement (.kill q) := fun _ e => by cases e
theorem Words.brkresume (q : Nat) : Words.Statement (.brkresume q) := fun _ e => by cases e
theorem Words.suspend (q : Nat) : Words.Statement (.suspend q) := fun _ e => by cases e
theorem Words.resume (q : Nat) : Words.Statement (.resume q) := fun _ e => by cases e
theorem Words.slotread (q : Nat) : Words.Statement (.slotread q) := fun _ e => by cases e
theorem Words.keyinstall (q : Nat) : Words.Statement (.keyinstall q) := fun _ e => by cases e
theorem Words.keyremove (q : Nat) : Words.Statement (.keyremove q) := fun _ e => by cases e
theorem Words.powercap (q : Nat) : Words.Statement (.powercap q) := fun _ e => by cases e
theorem Words.attest (q : Nat) : Words.Statement (.attest q) := fun _ e => by cases e
theorem Words.fwstage (q : Nat) : Words.Statement (.fwstage q) := fun _ e => by cases e
theorem Words.pfx (hi : BitVec 4) (lo : BitVec 19) : Words.Statement (.pfx hi lo) := fun _ _ => ⟨fun h => by simp [Instr.payload] at h, fun _ => ⟨_, _, rfl⟩⟩
theorem Words.nop (h : Hdr) : Words.Statement (.nop h) := words_of _ _ _ _ rfl (by decide) (.inl rfl)
theorem Words.bra (h : Hdr) (t : BitVec 19) : Words.Statement (.bra h t) := words_of _ _ _ _ rfl (by decide) (.inl rfl)
theorem Words.brx (h : Hdr) (a : BitVec 6) : Words.Statement (.brx h a) := words_of _ _ _ _ rfl (by decide) (.inl rfl)
theorem Words.call (h : Hdr) (e : BitVec 3) (t : BitVec 16) : Words.Statement (.call h e t) := words_of _ _ _ _ rfl (by decide) (.inl rfl)
theorem Words.callx (h : Hdr) (e : BitVec 3) (a : BitVec 6) : Words.Statement (.callx h e a) := words_of _ _ _ _ rfl (by decide) (.inl rfl)
theorem Words.ret (h : Hdr) : Words.Statement (.ret h) := words_of _ _ _ _ rfl (by decide) (.inl rfl)
theorem Words.unwind (h : Hdr) (a : BitVec 6) : Words.Statement (.unwind h a) := words_of _ _ _ _ rfl (by decide) (.inl rfl)
theorem Words.yield (h : Hdr) : Words.Statement (.yield h) := words_of _ _ _ _ rfl (by decide) (.inl rfl)
theorem Words.exit (h : Hdr) : Words.Statement (.exit h) := words_of _ _ _ _ rfl (by decide) (.inl rfl)
theorem Words.trap (h : Hdr) (i : BitVec 13) : Words.Statement (.trap h i) := words_of _ _ _ _ rfl (by decide) (.inl rfl)
theorem Words.tret (h : Hdr) : Words.Statement (.tret h) := words_of _ _ _ _ rfl (by decide) (.inl rfl)
theorem Words.brk (h : Hdr) (i : BitVec 13) : Words.Statement (.brk h i) := words_of _ _ _ _ rfl (by decide) (.inl rfl)
theorem Words.bar (h : Hdr) : Words.Statement (.bar h) := words_of _ _ _ _ rfl (by decide) (.inl rfl)
theorem Words.pbinit (h : Hdr) (a : BitVec 6) (b : BitVec 6) : Words.Statement (.pbinit h a b) := words_of _ _ _ _ rfl (by decide) (.inl rfl)
theorem Words.pbarr (h : Hdr) (a : BitVec 6) : Words.Statement (.pbarr h a) := words_of _ _ _ _ rfl (by decide) (.inl rfl)
theorem Words.pbwait (h : Hdr) (a : BitVec 6) (b : BitVec 6) : Words.Statement (.pbwait h a b) := words_of _ _ _ _ rfl (by decide) (.inl rfl)
theorem Words.divg (h : Hdr) (i : BitVec 13) : Words.Statement (.divg h i) := words_of _ _ _ _ rfl (by decide) (.inl rfl)
theorem Words.reconv (h : Hdr) (i : BitVec 13) : Words.Statement (.reconv h i) := words_of _ _ _ _ rfl (by decide) (.inl rfl)
theorem Words.grow (h : Hdr) (a : BitVec 6) : Words.Statement (.grow h a) := words_of _ _ _ _ rfl (by decide) (.inl rfl)
theorem Words.growTry (h : Hdr) (p : BitVec 3) (a : BitVec 6) : Words.Statement (.growTry h p a) := words_of _ _ _ _ rfl (by decide) (.inl rfl)
theorem Words.shrink (h : Hdr) (a : BitVec 6) : Words.Statement (.shrink h a) := words_of _ _ _ _ rfl (by decide) (.inl rfl)
theorem Words.launch (h : Hdr) (d : BitVec 6) (a : BitVec 6) (b : BitVec 6) : Words.Statement (.launch h d a b) := words_of _ _ _ _ rfl (by decide) (.inl rfl)
theorem Words.mapack (h : Hdr) (a : BitVec 6) : Words.Statement (.mapack h a) := words_of _ _ _ _ rfl (by decide) (.inl rfl)
theorem Words.fence (h : Hdr) (i : BitVec 13) : Words.Statement (.fence h i) := words_of _ _ _ _ rfl (by decide) (.inl rfl)
theorem Words.iadd (h : Hdr) (d : BitVec 6) (a : BitVec 6) (b : BitVec 6) (m : Bool) (pf : Option (BitVec 23)) : Words.Statement (.iadd h d a b m pf) := words_of _ _ _ _ rfl (by decide) (.inr rfl)
theorem Words.iaddi (h : Hdr) (d : BitVec 6) (a : BitVec 6) (i : BitVec 7) (pf : Option (BitVec 23)) : Words.Statement (.iaddi h d a i pf) := words_of _ _ _ _ rfl (by decide) (.inr rfl)
theorem Words.isub (h : Hdr) (d : BitVec 6) (a : BitVec 6) (b : BitVec 6) (m : Bool) (pf : Option (BitVec 23)) : Words.Statement (.isub h d a b m pf) := words_of _ _ _ _ rfl (by decide) (.inr rfl)
theorem Words.imul (h : Hdr) (d : BitVec 6) (a : BitVec 6) (b : BitVec 6) (m : Bool) : Words.Statement (.imul h d a b m) := words_of _ _ _ _ rfl (by decide) (.inl rfl)
theorem Words.imulh (h : Hdr) (d : BitVec 6) (a : BitVec 6) (b : BitVec 6) (m : Bool) (pf : Option (BitVec 23)) : Words.Statement (.imulh h d a b m pf) := words_of _ _ _ _ rfl (by decide) (.inr rfl)
theorem Words.imad (h : Hdr) (d : BitVec 6) (a : BitVec 6) (b : BitVec 6) (m : Bool) (pf : Option (BitVec 23)) : Words.Statement (.imad h d a b m pf) := words_of _ _ _ _ rfl (by decide) (.inr rfl)
theorem Words.imin (h : Hdr) (d : BitVec 6) (a : BitVec 6) (b : BitVec 6) (m : Bool) (pf : Option (BitVec 23)) : Words.Statement (.imin h d a b m pf) := words_of _ _ _ _ rfl (by decide) (.inr rfl)
theorem Words.imax (h : Hdr) (d : BitVec 6) (a : BitVec 6) (b : BitVec 6) (m : Bool) (pf : Option (BitVec 23)) : Words.Statement (.imax h d a b m pf) := words_of _ _ _ _ rfl (by decide) (.inr rfl)
theorem Words.iaddw (h : Hdr) (d : BitVec 6) (a : BitVec 6) (b : BitVec 6) (m : Bool) : Words.Statement (.iaddw h d a b m) := words_of _ _ _ _ rfl (by decide) (.inl rfl)
theorem Words.isubw (h : Hdr) (d : BitVec 6) (a : BitVec 6) (b : BitVec 6) (m : Bool) : Words.Statement (.isubw h d a b m) := words_of _ _ _ _ rfl (by decide) (.inl rfl)
theorem Words.shlw (h : Hdr) (d : BitVec 6) (a : BitVec 6) (b : BitVec 6) (m : Bool) : Words.Statement (.shlw h d a b m) := words_of _ _ _ _ rfl (by decide) (.inl rfl)
theorem Words.isetp (h : Hdr) (p : BitVec 3) (k : BitVec 3) (a : BitVec 6) (b : BitVec 6) (m : Bool) (pf : Option (BitVec 23)) : Words.Statement (.isetp h p k a b m pf) := words_of _ _ _ _ rfl (by decide) (.inr rfl)
theorem Words.isetpw (h : Hdr) (p : BitVec 3) (k : BitVec 3) (a : BitVec 6) (b : BitVec 6) (m : Bool) (pf : Option (BitVec 23)) : Words.Statement (.isetpw h p k a b m pf) := words_of _ _ _ _ rfl (by decide) (.inr rfl)
theorem Words.and (h : Hdr) (d : BitVec 6) (a : BitVec 6) (b : BitVec 6) (m : Bool) : Words.Statement (.and h d a b m) := words_of _ _ _ _ rfl (by decide) (.inl rfl)
theorem Words.or (h : Hdr) (d : BitVec 6) (a : BitVec 6) (b : BitVec 6) (m : Bool) : Words.Statement (.or h d a b m) := words_of _ _ _ _ rfl (by decide) (.inl rfl)
theorem Words.xor (h : Hdr) (d : BitVec 6) (a : BitVec 6) (b : BitVec 6) (m : Bool) : Words.Statement (.xor h d a b m) := words_of _ _ _ _ rfl (by decide) (.inl rfl)
theorem Words.lop3 (h : Hdr) (d : BitVec 6) (a : BitVec 6) (b : BitVec 6) (m : Bool) (pf : Option (BitVec 23)) : Words.Statement (.lop3 h d a b m pf) := words_of _ _ _ _ rfl (by decide) (.inr rfl)
theorem Words.shl (h : Hdr) (d : BitVec 6) (a : BitVec 6) (b : BitVec 6) (m : Bool) : Words.Statement (.shl h d a b m) := words_of _ _ _ _ rfl (by decide) (.inl rfl)
theorem Words.shr (h : Hdr) (d : BitVec 6) (a : BitVec 6) (b : BitVec 6) (m : Bool) : Words.Statement (.shr h d a b m) := words_of _ _ _ _ rfl (by decide) (.inl rfl)
theorem Words.sar (h : Hdr) (d : BitVec 6) (a : BitVec 6) (b : BitVec 6) (m : Bool) : Words.Statement (.sar h d a b m) := words_of _ _ _ _ rfl (by decide) (.inl rfl)
theorem Words.rot (h : Hdr) (d : BitVec 6) (a : BitVec 6) (b : BitVec 6) (m : Bool) : Words.Statement (.rot h d a b m) := words_of _ _ _ _ rfl (by decide) (.inl rfl)
theorem Words.popc (h : Hdr) (d : BitVec 6) (a : BitVec 6) : Words.Statement (.popc h d a) := words_of _ _ _ _ rfl (by decide) (.inl rfl)
theorem Words.clz (h : Hdr) (d : BitVec 6) (a : BitVec 6) : Words.Statement (.clz h d a) := words_of _ _ _ _ rfl (by decide) (.inl rfl)
theorem Words.brev (h : Hdr) (d : BitVec 6) (a : BitVec 6) : Words.Statement (.brev h d a) := words_of _ _ _ _ rfl (by decide) (.inl rfl)
theorem Words.bfx (h : Hdr) (d : BitVec 6) (a : BitVec 6) (b : BitVec 6) (m : Bool) : Words.Statement (.bfx h d a b m) := words_of _ _ _ _ rfl (by decide) (.inl rfl)
theorem Words.bfi (h : Hdr) (d : BitVec 6) (a : BitVec 6) (b : BitVec 6) (pf : Option (BitVec 23)) : Words.Statement (.bfi h d a b pf) := words_of _ _ _ _ rfl (by decide) (.inr rfl)
theorem Words.mov (h : Hdr) (d : BitVec 6) (a : BitVec 6) : Words.Statement (.mov h d a) := words_of _ _ _ _ rfl (by decide) (.inl rfl)
theorem Words.movi (h : Hdr) (d : BitVec 6) (i : BitVec 13) (pf : Option (BitVec 23)) : Words.Statement (.movi h d i pf) := words_of _ _ _ _ rfl (by decide) (.inr rfl)
theorem Words.shape (h : Hdr) (d : BitVec 6) (a : BitVec 6) : Words.Statement (.shape h d a) := words_of _ _ _ _ rfl (by decide) (.inl rfl)
theorem Words.unif (h : Hdr) (d : BitVec 6) (a : BitVec 6) : Words.Statement (.unif h d a) := words_of _ _ _ _ rfl (by decide) (.inl rfl)
theorem Words.plop (h : Hdr) (p : BitVec 3) (f : BitVec 3) (q : BitVec 3) (r : BitVec 3) (s : Bool) : Words.Statement (.plop h p f q r s) := words_of _ _ _ _ rfl (by decide) (.inl rfl)
theorem Words.p2v (h : Hdr) (d : BitVec 6) : Words.Statement (.p2v h d) := words_of _ _ _ _ rfl (by decide) (.inl rfl)
theorem Words.v2p (h : Hdr) (a : BitVec 6) : Words.Statement (.v2p h a) := words_of _ _ _ _ rfl (by decide) (.inl rfl)
theorem Words.shflLane (h : Hdr) (d : BitVec 6) (a : BitVec 6) (b : BitVec 6) (pf : Option (BitVec 23)) : Words.Statement (.shflLane h d a b pf) := words_of _ _ _ _ rfl (by decide) (.inr rfl)
theorem Words.shflSwap (h : Hdr) (d : BitVec 6) (a : BitVec 6) (b : BitVec 6) (pf : Option (BitVec 23)) : Words.Statement (.shflSwap h d a b pf) := words_of _ _ _ _ rfl (by decide) (.inr rfl)
theorem Words.shflBelow (h : Hdr) (d : BitVec 6) (a : BitVec 6) (b : BitVec 6) (pf : Option (BitVec 23)) : Words.Statement (.shflBelow h d a b pf) := words_of _ _ _ _ rfl (by decide) (.inr rfl)
theorem Words.shflAbove (h : Hdr) (d : BitVec 6) (a : BitVec 6) (b : BitVec 6) (pf : Option (BitVec 23)) : Words.Statement (.shflAbove h d a b pf) := words_of _ _ _ _ rfl (by decide) (.inr rfl)
theorem Words.voteAll (h : Hdr) (s : BitVec 3) (p : BitVec 3) : Words.Statement (.voteAll h s p) := words_of _ _ _ _ rfl (by decide) (.inl rfl)
theorem Words.voteAny (h : Hdr) (s : BitVec 3) (p : BitVec 3) : Words.Statement (.voteAny h s p) := words_of _ _ _ _ rfl (by decide) (.inl rfl)
theorem Words.voteEq (h : Hdr) (s : BitVec 3) (p : BitVec 3) : Words.Statement (.voteEq h s p) := words_of _ _ _ _ rfl (by decide) (.inl rfl)
theorem Words.voteBallotLo (h : Hdr) (d : BitVec 6) (s : BitVec 3) : Words.Statement (.voteBallotLo h d s) := words_of _ _ _ _ rfl (by decide) (.inl rfl)
theorem Words.voteBallotHi (h : Hdr) (d : BitVec 6) (s : BitVec 3) : Words.Statement (.voteBallotHi h d s) := words_of _ _ _ _ rfl (by decide) (.inl rfl)
theorem Words.matchW (h : Hdr) (d : BitVec 6) (a : BitVec 6) : Words.Statement (.matchW h d a) := words_of _ _ _ _ rfl (by decide) (.inl rfl)
theorem Words.redw (h : Hdr) (d : BitVec 6) (a : BitVec 6) (b : BitVec 6) : Words.Statement (.redw h d a b) := words_of _ _ _ _ rfl (by decide) (.inl rfl)
theorem Words.crd (h : Hdr) (d : BitVec 6) (r : BitVec 13) : Words.Statement (.crd h d r) := words_of _ _ _ _ rfl (by decide) (.inl rfl)
theorem Words.cwr (h : Hdr) (d : BitVec 6) (r : BitVec 13) : Words.Statement (.cwr h d r) := words_of _ _ _ _ rfl (by decide) (.inl rfl)
theorem Words.fadd (h : Hdr) (d : BitVec 6) (a : BitVec 6) (b : BitVec 6) (m : Bool) : Words.Statement (.fadd h d a b m) := words_of _ _ _ _ rfl (by decide) (.inl rfl)
theorem Words.fsub (h : Hdr) (d : BitVec 6) (a : BitVec 6) (b : BitVec 6) (m : Bool) : Words.Statement (.fsub h d a b m) := words_of _ _ _ _ rfl (by decide) (.inl rfl)
theorem Words.fmul (h : Hdr) (d : BitVec 6) (a : BitVec 6) (b : BitVec 6) (m : Bool) : Words.Statement (.fmul h d a b m) := words_of _ _ _ _ rfl (by decide) (.inl rfl)
theorem Words.ffma (h : Hdr) (d : BitVec 6) (a : BitVec 6) (b : BitVec 6) (m : Bool) (pf : Option (BitVec 23)) : Words.Statement (.ffma h d a b m pf) := words_of _ _ _ _ rfl (by decide) (.inr rfl)
theorem Words.fmin (h : Hdr) (d : BitVec 6) (a : BitVec 6) (b : BitVec 6) (m : Bool) : Words.Statement (.fmin h d a b m) := words_of _ _ _ _ rfl (by decide) (.inl rfl)
theorem Words.fmax (h : Hdr) (d : BitVec 6) (a : BitVec 6) (b : BitVec 6) (m : Bool) : Words.Statement (.fmax h d a b m) := words_of _ _ _ _ rfl (by decide) (.inl rfl)
theorem Words.fsetp (h : Hdr) (p : BitVec 3) (k : BitVec 3) (a : BitVec 6) (b : BitVec 6) (m : Bool) : Words.Statement (.fsetp h p k a b m) := words_of _ _ _ _ rfl (by decide) (.inl rfl)
theorem Words.frcp (h : Hdr) (d : BitVec 6) (a : BitVec 6) : Words.Statement (.frcp h d a) := words_of _ _ _ _ rfl (by decide) (.inl rfl)
theorem Words.frsq (h : Hdr) (d : BitVec 6) (a : BitVec 6) : Words.Statement (.frsq h d a) := words_of _ _ _ _ rfl (by decide) (.inl rfl)
theorem Words.fsqrt (h : Hdr) (d : BitVec 6) (a : BitVec 6) : Words.Statement (.fsqrt h d a) := words_of _ _ _ _ rfl (by decide) (.inl rfl)
theorem Words.fexp2 (h : Hdr) (d : BitVec 6) (a : BitVec 6) : Words.Statement (.fexp2 h d a) := words_of _ _ _ _ rfl (by decide) (.inl rfl)
theorem Words.flog2 (h : Hdr) (d : BitVec 6) (a : BitVec 6) : Words.Statement (.flog2 h d a) := words_of _ _ _ _ rfl (by decide) (.inl rfl)
theorem Words.fsin (h : Hdr) (d : BitVec 6) (a : BitVec 6) : Words.Statement (.fsin h d a) := words_of _ _ _ _ rfl (by decide) (.inl rfl)
theorem Words.fcos (h : Hdr) (d : BitVec 6) (a : BitVec 6) : Words.Statement (.fcos h d a) := words_of _ _ _ _ rfl (by decide) (.inl rfl)
theorem Words.frnd (h : Hdr) (d : BitVec 6) (a : BitVec 6) (t : Bool) (x : BitVec 2) : Words.Statement (.frnd h d a t x) := words_of _ _ _ _ rfl (by decide) (.inl rfl)
theorem Words.cvt (h : Hdr) (d : BitVec 6) (a : BitVec 6) (x : BitVec 3) (y : BitVec 3) (m : Bool) (pf : Option (BitVec 23)) : Words.Statement (.cvt h d a x y m pf) := words_of _ _ _ _ rfl (by decide) (.inr rfl)
theorem Words.dadd (h : Hdr) (d : BitVec 6) (a : BitVec 6) (b : BitVec 6) (m : Bool) : Words.Statement (.dadd h d a b m) := words_of _ _ _ _ rfl (by decide) (.inl rfl)
theorem Words.dmul (h : Hdr) (d : BitVec 6) (a : BitVec 6) (b : BitVec 6) (m : Bool) : Words.Statement (.dmul h d a b m) := words_of _ _ _ _ rfl (by decide) (.inl rfl)
theorem Words.dfma (h : Hdr) (d : BitVec 6) (a : BitVec 6) (b : BitVec 6) (m : Bool) (pf : Option (BitVec 23)) : Words.Statement (.dfma h d a b m pf) := words_of _ _ _ _ rfl (by decide) (.inr rfl)
theorem Words.dmin (h : Hdr) (d : BitVec 6) (a : BitVec 6) (b : BitVec 6) (m : Bool) : Words.Statement (.dmin h d a b m) := words_of _ _ _ _ rfl (by decide) (.inl rfl)
theorem Words.dmax (h : Hdr) (d : BitVec 6) (a : BitVec 6) (b : BitVec 6) (m : Bool) : Words.Statement (.dmax h d a b m) := words_of _ _ _ _ rfl (by decide) (.inl rfl)
theorem Words.dsetp (h : Hdr) (p : BitVec 3) (k : BitVec 3) (a : BitVec 6) (b : BitVec 6) (m : Bool) : Words.Statement (.dsetp h p k a b m) := words_of _ _ _ _ rfl (by decide) (.inl rfl)
theorem Words.hadd2 (h : Hdr) (d : BitVec 6) (a : BitVec 6) (b : BitVec 6) (m : Bool) (pf : Option (BitVec 23)) : Words.Statement (.hadd2 h d a b m pf) := words_of _ _ _ _ rfl (by decide) (.inr rfl)
theorem Words.hmul2 (h : Hdr) (d : BitVec 6) (a : BitVec 6) (b : BitVec 6) (m : Bool) (pf : Option (BitVec 23)) : Words.Statement (.hmul2 h d a b m pf) := words_of _ _ _ _ rfl (by decide) (.inr rfl)
theorem Words.hfma2 (h : Hdr) (d : BitVec 6) (a : BitVec 6) (b : BitVec 6) (m : Bool) (pf : Option (BitVec 23)) : Words.Statement (.hfma2 h d a b m pf) := words_of _ _ _ _ rfl (by decide) (.inr rfl)
theorem Words.ld (h : Hdr) (d : BitVec 6) (a : BitVec 6) (z : BitVec 3) (o : BitVec 4) (pf : Option (BitVec 23)) : Words.Statement (.ld h d a z o pf) := words_of _ _ _ _ rfl (by decide) (.inr rfl)
theorem Words.ldAcq (h : Hdr) (d : BitVec 6) (a : BitVec 6) (z : BitVec 3) (o : BitVec 4) (pf : Option (BitVec 23)) : Words.Statement (.ldAcq h d a z o pf) := words_of _ _ _ _ rfl (by decide) (.inr rfl)
theorem Words.ldPoll (h : Hdr) (d : BitVec 6) (a : BitVec 6) (z : BitVec 3) (o : BitVec 4) (pf : Option (BitVec 23)) : Words.Statement (.ldPoll h d a z o pf) := words_of _ _ _ _ rfl (by decide) (.inr rfl)
theorem Words.ldU (h : Hdr) (d : BitVec 6) (a : BitVec 6) (z : BitVec 3) (o : BitVec 4) (pf : Option (BitVec 23)) : Words.Statement (.ldU h d a z o pf) := words_of _ _ _ _ rfl (by decide) (.inr rfl)
theorem Words.st (h : Hdr) (s : BitVec 6) (a : BitVec 6) (z : BitVec 3) (o : BitVec 4) (pf : Option (BitVec 23)) : Words.Statement (.st h s a z o pf) := words_of _ _ _ _ rfl (by decide) (.inr rfl)
theorem Words.stRel (h : Hdr) (s : BitVec 6) (a : BitVec 6) (z : BitVec 3) (o : BitVec 4) (pf : Option (BitVec 23)) : Words.Statement (.stRel h s a z o pf) := words_of _ _ _ _ rfl (by decide) (.inr rfl)
theorem Words.lds (h : Hdr) (d : BitVec 6) (a : BitVec 6) (z : BitVec 3) (o : BitVec 4) (pf : Option (BitVec 23)) : Words.Statement (.lds h d a z o pf) := words_of _ _ _ _ rfl (by decide) (.inr rfl)
theorem Words.sts (h : Hdr) (s : BitVec 6) (a : BitVec 6) (z : BitVec 3) (o : BitVec 4) (pf : Option (BitVec 23)) : Words.Statement (.sts h s a z o pf) := words_of _ _ _ _ rfl (by decide) (.inr rfl)
theorem Words.ldt (h : Hdr) (d : BitVec 6) (a : BitVec 6) (z : BitVec 3) (o : BitVec 4) (pf : Option (BitVec 23)) : Words.Statement (.ldt h d a z o pf) := words_of _ _ _ _ rfl (by decide) (.inr rfl)
theorem Words.stt (h : Hdr) (s : BitVec 6) (a : BitVec 6) (z : BitVec 3) (o : BitVec 4) (pf : Option (BitVec 23)) : Words.Statement (.stt h s a z o pf) := words_of _ _ _ _ rfl (by decide) (.inr rfl)
theorem Words.atomArith (h : Hdr) (d : BitVec 6) (a : BitVec 5) (b : BitVec 6) (u : BitVec 2) (pf : Option (BitVec 23)) : Words.Statement (.atomArith h d a b u pf) := words_of _ _ _ _ rfl (by decide) (.inr rfl)
theorem Words.atomMinmax (h : Hdr) (d : BitVec 6) (a : BitVec 5) (b : BitVec 6) (u : BitVec 2) (pf : Option (BitVec 23)) : Words.Statement (.atomMinmax h d a b u pf) := words_of _ _ _ _ rfl (by decide) (.inr rfl)
theorem Words.atomBit (h : Hdr) (d : BitVec 6) (a : BitVec 5) (b : BitVec 6) (u : BitVec 2) (pf : Option (BitVec 23)) : Words.Statement (.atomBit h d a b u pf) := words_of _ _ _ _ rfl (by decide) (.inr rfl)
theorem Words.atomCas (h : Hdr) (d : BitVec 6) (a : BitVec 5) (b : BitVec 6) (u : BitVec 2) (pf : Option (BitVec 23)) : Words.Statement (.atomCas h d a b u pf) := words_of _ _ _ _ rfl (by decide) (.inr rfl)
theorem Words.stashmap (h : Hdr) (d : BitVec 6) (a : BitVec 6) (b : BitVec 6) : Words.Statement (.stashmap h d a b) := words_of _ _ _ _ rfl (by decide) (.inl rfl)
theorem Words.stashmapUn (h : Hdr) (d : BitVec 6) : Words.Statement (.stashmapUn h d) := words_of _ _ _ _ rfl (by decide) (.inl rfl)
theorem Words.stashpin (h : Hdr) (a : BitVec 6) : Words.Statement (.stashpin h a) := words_of _ _ _ _ rfl (by decide) (.inl rfl)
theorem Words.stashpinUn (h : Hdr) (a : BitVec 6) : Words.Statement (.stashpinUn h a) := words_of _ _ _ _ rfl (by decide) (.inl rfl)
theorem Words.rld (h : Hdr) (a : BitVec 5) (s : BitVec 6) (x : BitVec 4) : Words.Statement (.rld h a s x) := words_of _ _ _ _ rfl (by decide) (.inl rfl)
theorem Words.rst (h : Hdr) (ch : BitVec 4) (a : BitVec 5) (s : BitVec 6) (x : BitVec 4) : Words.Statement (.rst h ch a s x) := words_of _ _ _ _ rfl (by decide) (.inl rfl)
theorem Words.ratom (h : Hdr) (ch : BitVec 4) (a : BitVec 5) (s : BitVec 6) (x : BitVec 4) : Words.Statement (.ratom h ch a s x) := words_of _ _ _ _ rfl (by decide) (.inl rfl)
theorem Words.rred (h : Hdr) (ch : BitVec 4) (a : BitVec 5) (s : BitVec 6) (x : BitVec 4) : Words.Statement (.rred h ch a s x) := words_of _ _ _ _ rfl (by decide) (.inl rfl)
theorem Words.chjoin (h : Hdr) (ch : BitVec 4) (k : BitVec 4) : Words.Statement (.chjoin h ch k) := words_of _ _ _ _ rfl (by decide) (.inl rfl)
theorem Words.chdrain (h : Hdr) (ch : BitVec 4) : Words.Statement (.chdrain h ch) := words_of _ _ _ _ rfl (by decide) (.inl rfl)
theorem Words.chstat (h : Hdr) (ch : BitVec 4) (d : BitVec 6) : Words.Statement (.chstat h ch d) := words_of _ _ _ _ rfl (by decide) (.inl rfl)
theorem Words.cpySh (h : Hdr) (t : BitVec 6) (a : BitVec 6) (b : BitVec 5) : Words.Statement (.cpySh h t a b) := words_of _ _ _ _ rfl (by decide) (.inl rfl)
theorem Words.cpySt (h : Hdr) (t : BitVec 6) (a : BitVec 6) (b : BitVec 5) : Words.Statement (.cpySt h t a b) := words_of _ _ _ _ rfl (by decide) (.inl rfl)
theorem Words.cpyTile (h : Hdr) (t : BitVec 6) (a : BitVec 6) (b : BitVec 5) : Words.Statement (.cpyTile h t a b) := words_of _ _ _ _ rfl (by decide) (.inl rfl)
theorem Words.cpyr (h : Hdr) (t : BitVec 6) (a : BitVec 6) (b : BitVec 5) : Words.Statement (.cpyr h t a b) := words_of _ _ _ _ rfl (by decide) (.inl rfl)
theorem Words.twaitAny (h : Hdr) (a : BitVec 6) : Words.Statement (.twaitAny h a) := words_of _ _ _ _ rfl (by decide) (.inl rfl)
theorem Words.twaitAll (h : Hdr) (a : BitVec 6) : Words.Statement (.twaitAll h a) := words_of _ _ _ _ rfl (by decide) (.inl rfl)
theorem Words.tfirst (h : Hdr) (d : BitVec 6) (a : BitVec 6) : Words.Statement (.tfirst h d a) := words_of _ _ _ _ rfl (by decide) (.inl rfl)
theorem Words.tlwait (h : Hdr) (d : BitVec 6) (a : BitVec 6) : Words.Statement (.tlwait h d a) := words_of _ _ _ _ rfl (by decide) (.inl rfl)
theorem Words.tlread (h : Hdr) (d : BitVec 6) (a : BitVec 6) : Words.Statement (.tlread h d a) := words_of _ _ _ _ rfl (by decide) (.inl rfl)
theorem Words.tld (h : Hdr) (t : BitVec 4) (a : BitVec 6) (b : BitVec 6) (p : Bool) (v : BitVec 2) : Words.Statement (.tld h t a b p v) := words_of _ _ _ _ rfl (by decide) (.inl rfl)
theorem Words.tst (h : Hdr) (t : BitVec 4) (a : BitVec 6) (b : BitVec 6) (v : BitVec 2) : Words.Statement (.tst h t a b v) := words_of _ _ _ _ rfl (by decide) (.inl rfl)
theorem Words.tzero (h : Hdr) (t : BitVec 4) (v : BitVec 2) : Words.Statement (.tzero h t v) := words_of _ _ _ _ rfl (by decide) (.inl rfl)
theorem Words.tmov (h : Hdr) (t : BitVec 4) (a : BitVec 4) (v : BitVec 2) : Words.Statement (.tmov h t a v) := words_of _ _ _ _ rfl (by decide) (.inl rfl)
theorem Words.mtrn (h : Hdr) (t : BitVec 4) (a : BitVec 4) (v : BitVec 2) : Words.Statement (.mtrn h t a v) := words_of _ _ _ _ rfl (by decide) (.inl rfl)
theorem Words.tget (h : Hdr) (d : BitVec 6) (t : BitVec 4) (b : BitVec 6) (r : Bool) (i : BitVec 2) (pf : Option (BitVec 23)) : Words.Statement (.tget h d t b r i pf) := words_of _ _ _ _ rfl (by decide) (.inr rfl)
theorem Words.tset (h : Hdr) (d : BitVec 6) (t : BitVec 4) (b : BitVec 6) (r : Bool) (i : BitVec 2) (pf : Option (BitVec 23)) : Words.Statement (.tset h d t b r i pf) := words_of _ _ _ _ rfl (by decide) (.inr rfl)
theorem Words.mma (h : Hdr) (t : BitVec 4) (a : BitVec 4) (b : BitVec 4) (f : BitVec 4) (p : Bool) (v : BitVec 2) : Words.Statement (.mma h t a b f p v) := words_of _ _ _ _ rfl (by decide) (.inl rfl)
theorem Words.mmab (h : Hdr) (t : BitVec 4) (a : BitVec 4) (b : BitVec 4) (f : BitVec 4) (v : BitVec 2) : Words.Statement (.mmab h t a b f v) := words_of _ _ _ _ rfl (by decide) (.inl rfl)
theorem Words.mscale (h : Hdr) (t : BitVec 4) (a : BitVec 4) (s : BitVec 6) : Words.Statement (.mscale h t a s) := words_of _ _ _ _ rfl (by decide) (.inl rfl)
theorem Words.mpoly (h : Hdr) (t : BitVec 4) (a : BitVec 4) (n : BitVec 4) (p : Bool) : Words.Statement (.mpoly h t a n p) := words_of _ _ _ _ rfl (by decide) (.inl rfl)
theorem Words.miterNs (h : Hdr) (t : BitVec 4) (p : Bool) : Words.Statement (.miterNs h t p) := words_of _ _ _ _ rfl (by decide) (.inl rfl)
theorem Words.miterNinv (h : Hdr) (t : BitVec 4) (a : BitVec 4) (p : Bool) : Words.Statement (.miterNinv h t a p) := words_of _ _ _ _ rfl (by decide) (.inl rfl)
theorem Words.miterPoly (h : Hdr) (t : BitVec 4) (n : BitVec 4) (p : Bool) : Words.Statement (.miterPoly h t n p) := words_of _ _ _ _ rfl (by decide) (.inl rfl)
theorem Words.tqnt (h : Hdr) (t : BitVec 4) (a : BitVec 4) (s : BitVec 6) : Words.Statement (.tqnt h t a s) := words_of _ _ _ _ rfl (by decide) (.inl rfl)
theorem Words.tdq (h : Hdr) (t : BitVec 4) (a : BitVec 4) (s : BitVec 6) : Words.Statement (.tdq h t a s) := words_of _ _ _ _ rfl (by decide) (.inl rfl)
theorem Words.mxWordEnd (core : Nat) : Words.Statement (.mxWordEnd core) := fun _ e => by cases e
theorem Words.entryVisibleAtDieScope (blk : Nat) (seq : Nat) : Words.Statement (.entryVisibleAtDieScope blk seq) := fun _ e => by cases e
theorem Words.cplheadWrite (q : Nat) (v : Nat) : Words.Statement (.cplheadWrite q v) := fun _ e => by cases e

end Sys2Proof.Laws
end

