-- ==== Sys2Proof/Tests/Slice0.lean ====
section
/-! SUPPORT. Tests: ill-formed instructions are refused, words written out from the spec's encodings decode, a few worked examples of the spec, and for every statement that has hypotheses a state and operands that meet them. -/

namespace Sys2Proof.Tests

open Sys2Proof Sys2Proof.Machine

set_option maxRecDepth 100000

/-- No guard. -/
def h : Hdr := { c := false, w := false, gn := false, gp := 7 }

/-- R101: each fetch check on a single instruction refuses a term that breaks it: a negated p7 guard, odd pairs, a quad out of step, payload bits outside the mask, a missing or misplaced payload, and reserved codes. -/
theorem test_ill_formed_refused : ([.nop { h with gn := true }, .iaddw h 5 2 0 false, .iaddw h 4 3 0 false, .dadd h 0 2 5 false,
    .st h 1 2 3 0 none, .ld h 6 2 4 0 none, .ld h 4 3 2 0 none, .ld h 4 2 7 0 none, .st h 4 2 5 0 none, .iadd h 1 2 3 false (some 4),
    .imulh h 1 2 3 false (some 1), .imad h 1 2 3 false (some 0x80), .lop3 h 1 2 3 false none, .lop3 h 1 2 3 false (some 0x4000),
    .movi h 1 0 (some 0x80000), .shflLane h 1 2 3 (some 0), .dfma h 0 2 4 false (some 0x4100), .isetp h 1 6 2 3 false none,
    .plop h 1 4 2 3 false, .plop h 1 3 2 3 false, .redw h 1 2 11, .crd h 1 0x022, .cwr h 1 0x000, .cvt h 1 2 4 4 false none,
    .cvt h 1 2 1 4 false (some 2), .frnd h 1 2 true 0, .matchW h 1 2, .divg h 16, .fence h 3, .tlwait h 32 2, .cpyr h 32 2 2,
    .atomArith h 1 0 2 0 (some 0xC), .atomCas h 2 0 2 1 none, .ratom h 0 0 0 14, .rred h 0 0 2 0, .mma h 0 1 2 7 false 0,
    .tget h 1 0 2 false 0 (some 0x20), .pfx 0 0] : List Instr).all (fun i => !i.wf) = true := by decide

/-- The same with every field right are accepted. -/
theorem test_well_formed_accepted : ([.nop { h with gn := true, gp := 0 }, .iaddw h 4 2 0 false, .dadd h 0 2 4 false, .st h 2 2 3 0 none,
    .ld h 4 2 4 0 none, .iadd h 1 2 3 false (some 3), .lop3 h 1 2 3 false (some 0x3FFF), .plop h 1 3 2 0 false, .redw h 1 2 10,
    .crd h 1 0x06B, .cwr h 1 0x062, .divg h 15, .fence h 2, .tlwait h 31 2, .atomCas h 2 0 4 1 none, .mma h 0 1 2 10 false 0] :
    List Instr).all Instr.wf = true := by decide

/-- Words and what they decode to, with nothing left over. -/
def reads (ws : List Word) (i : Instr) : Prop := decodeWords ws = .ok (i, [])

/-- Words of control flow, from chapters 15 to 18. -/
theorem test_decode_control : reads [0x1C000000#32] (.nop h) ∧ reads [0x1C0FFFFD#32] (.bra h 0x7FFFD#19) ∧ reads [0x1C100500#32] (.brx h 10) ∧
    reads [0x1C1A0005#32] (.call h 2 5) ∧ reads [0x1C200500#32] (.callx h 0 10) ∧ reads [0x1C280000#32] (.ret h) ∧
    reads [0x1C300080#32] (.unwind h 1) ∧ reads [0x1C380000#32] (.yield h) ∧ reads [0x1C400000#32] (.exit h) ∧ reads [0x1C480005#32] (.trap h 5) ∧
    reads [0x1C500000#32] (.tret h) ∧ reads [0x1C580007#32] (.brk h 7) ∧ reads [0x1C600000#32] (.bar h) ∧ reads [0x1C680188#32] (.pbinit h 3 4) ∧
    reads [0x1C78018A#32] (.pbwait h 3 5) ∧ reads [0x1C800003#32] (.divg h 3) ∧ reads [0x1C900080#32] (.grow h 1) ∧
    reads [0x1C920081#32] (.growTry h 2 1) ∧ reads [0x1C980080#32] (.shrink h 1) ∧ reads [0x1CA04A0C#32] (.launch h 2 20 6) ∧
    reads [0x1CA80080#32] (.mapack h 1) ∧ reads [0x1CB00002#32] (.fence h 2) := by
  unfold reads; and_intros <;> rfl

/-- Words of the vector pipes. -/
theorem test_decode_vector : reads [0x03F80001#32, 0x1CB86084#32] (.iadd h 3 1 2 false (some 1)) ∧ reads [0x1CC040FD#32] (.iaddi h 2 1 0x7D none) ∧
    reads [0x1CF88A0C#32] (.iaddw h 4 20 6 false) ∧ reads [0x03F80002#32, 0x1CD86084#32] (.imulh h 3 1 2 false (some 2)) ∧
    reads [0x1D2060FF#32] (.and h 3 1 0x3F true) ∧ reads [0x1D404089#32] (.shl h 2 1 4 true) ∧ reads [0x1D584091#32] (.rot h 2 1 8 true) ∧
    reads [0x1D604082#32] (.clz h 2 1) ∧ reads [0x1D684087#32] (.bfx h 2 1 3 true) ∧ reads [0x1D784080#32] (.mov h 2 1) ∧
    reads [0x1D802008#32] (.movi h 1 8 none) ∧ reads [0x1D884080#32] (.shape h 2 1) ∧ reads [0x1D904080#32] (.unif h 2 1) ∧
    reads [0x1D990107#32] (.plop h 1 0 2 3 true) ∧ reads [0x1DA06000#32] (.p2v h 3) ∧ reads [0x1DA80180#32] (.v2p h 3) ∧
    reads [0x1DB06088#32] (.shflLane h 3 1 4 none) ∧ reads [0x1DC000A0#32] (.voteAll h 1 2) ∧ reads [0x1DC08C80#32] (.voteBallotLo h 4 1) ∧
    reads [0x1DC88080#32] (.matchW h 4 1) ∧ reads [0x1DD04082#32] (.redw h 2 1 1) ∧ reads [0x1DD82000#32] (.crd h 1 0) ∧
    reads [0x1DE0A069#32] (.cwr h 5 0x069) := by
  unfold reads; and_intros <;> rfl

/-- Words of floating point. -/
theorem test_decode_float : reads [0x1DE86084#32] (.fadd h 3 1 2 false) ∧ reads [0x03F84300#32, 0x1E008084#32] (.ffma h 4 1 2 false (some 0x4300)) ∧
    reads [0x1E194084#32] (.fsetp h 1 2 1 2 false) ∧ reads [0x1E204080#32] (.frcp h 2 1) ∧ reads [0x1E20408A#32] (.fsin h 2 1) ∧
    reads [0x1E284086#32] (.frnd h 2 1 false 3) ∧ reads [0x03F80013#32, 0x1E3060C2#32] (.cvt h 3 1 4 1 false (some 0x13)) ∧
    reads [0x1E388004#32] (.dadd h 4 0 2 false) ∧ reads [0x03F84600#32, 0x1E488004#32] (.dfma h 4 0 2 false (some 0x4600)) ∧
    reads [0x03F84304#32, 0x1E788084#32] (.hfma2 h 4 1 2 false (some 0x4304)) := by
  unfold reads; and_intros <;> rfl

/-- Words of memory, channels and copies. -/
theorem test_decode_memory : reads [0x06812A21#32] (.ld { h with gp := 1 } 9 20 2 1 none) ∧ reads [0x1EA02A21#32] (.st h 1 20 2 1 none) ∧
    reads [0x1EA88B20#32] (.stRel h 4 22 2 0 none) ∧ reads [0x1EB821A2#32] (.sts h 1 3 2 2 none) ∧ reads [0x1EC8C230#32] (.stt h 6 4 3 0 none) ∧
    reads [0x03F8000B#32, 0x1ED08A18#32] (.atomArith h 4 10 6 0 (some 0xB)) ∧ reads [0x1EF04A06#32] (.stashmap h 2 20 3) ∧
    reads [0x1EF04001#32] (.stashmapUn h 2) ∧ reads [0x1EF80A00#32] (.stashpin h 20) ∧ reads [0x1F002852#32] (.rld h 10 5 2) ∧
    reads [0x1F092852#32] (.rst h 2 10 5 2) ∧ reads [0x1F11A860#32] (.ratom h 3 10 6 0) ∧ reads [0x1F18A880#32] (.rred h 1 10 8 0) ∧
    reads [0x1F210400#32] (.chjoin h 2 1) ∧ reads [0x1F290000#32] (.chdrain h 2) ∧ reads [0x1F310050#32] (.chstat h 2 5) ∧
    reads [0x1F384A10#32] (.cpySh h 2 20 4) ∧ reads [0x1F406A10#32] (.cpyr h 3 20 4) ∧ reads [0x1F480101#32] (.twaitAll h 2) ∧
    reads [0x1F50CA00#32] (.tfirst h 6 20) ∧ reads [0x1F586200#32] (.tlwait h 3 4) ∧ reads [0x1F60C180#32] (.tlread h 6 3) := by
  unfold reads; and_intros <;> rfl

/-- Words of the array. -/
theorem test_decode_array : reads [0x1F682830#32] (.tld h 0 20 6 false 0) ∧ reads [0x1F68A834#32] (.tld h 1 20 6 true 0) ∧
    reads [0x1F712C31#32] (.tst h 2 22 6 1) ∧ reads [0x1F7B8000#32] (.tzero h 7 0) ∧ reads [0x1F799022#32] (.tmov h 3 2 2) ∧
    reads [0x1F7AA040#32] (.mtrn h 5 4 0) ∧ reads [0x1F910089#32] (.mma h 2 0 1 1 false 1) ∧ reads [0x1F998090#32] (.mmab h 3 0 1 2 0) ∧
    reads [0x1FA1180E#32] (.mscale h 2 3 7) ∧ reads [0x1FAAA018#32] (.mpoly h 5 4 3 false) ∧ reads [0x1FB20000#32] (.miterNs h 4 false) ∧
    reads [0x1FB22820#32] (.miterNinv h 4 5 false) ∧ reads [0x1FB3004A#32] (.miterPoly h 6 5 false) ∧ reads [0x1FBAA007#32] (.tqnt h 5 4 7) ∧
    reads [0x1FBB2847#32] (.tdq h 6 5 7) := by
  unfold reads; and_intros <;> rfl

/-- R101: a reserved major, a reserved sub-op and a nonzero reserved bit are no instruction. -/
theorem test_decode_refuses : (decodeWords [0x1FC00000#32]).toOption = none ∧ (decodeWords [0x1D604086#32]).toOption = none ∧
    (decodeWords [0x1C000001#32]).toOption = none ∧ (decodeWords []).toOption = none := by decide

/-- R97, R100: a word stored where a machine fresh from reset fetches runs as its first instruction. -/
theorem test_first_instruction_runs : (match step (State.reset.withFetchWord 32 0x1C0FFFFD) with | .next t => t.iss.isNone | _ => false) = true := by decide


/-! ### A machine to test on: the installed program's block of one warp of 16 lanes (log entry 7), with chosen registers, lanes and block fields. -/

def m0 : Mach := { Mach.reset.installed with clock := 2 }
def b0 : Block := (m0.block? 0).get (by decide)
def w0 : Warp := (m0.warp? 0 0).get (by decide)

/-- Registers: U 0, A(3, 1), U 8, a G, the pair U 0x10018, the pair U 0x18000, then zeros. -/
def rs0 : List RVal :=
  [.u 0, .a 3 1, .u 8, RVal.lanes 16 (BitVec.ofNat 32), .u 0x10018, .u 0, .u 0x18000, .u 0] ++ List.replicate 40 (.u 0)

/-- The warp with a frame of 48 registers, and the block and machine that hold it. -/
def warpOf (rs : List RVal) (f : Warp → Warp) : Warp := f { w0 with frames := w0.frames.map fun f => { f with size := 48, regs := rs } }
def blockOf (w : Warp) (f : Block → Block) : Block := f { b0 with warps := [w] }
def machOf (b : Block) : Mach := { m0 with blocks := [b] }

/-- The word at the block's entry under issue, by the lanes of a mask. -/
def issueOf (m : Mach) (b : Block) (w : Warp) (ex : Mask) : Issue :=
  m.issueOf b w { lanes := ex, age := 0, aged := false, yield := false } ⟨0, 0⟩ ⟨0, 1⟩ false
def cxOf (m : Mach) (b : Block) (w : Warp) (ex : Mask) : Cx :=
  { s := { m := m, iss := some (issueOf m b w ex), inputs := [] }, is := issueOf m b w ex, b := b, w := w, ex := ex, fid := 0 }

/-- A machine whose one block has one warp runs its word. -/
theorem runs_of (m : Mach) (b : Block) (w : Warp) (ex : Mask) (hm : m.blocks = [b]) (hb : b.warps = [w])
    (he : ex = (issueOf m b w ex).exec w h) (hs : ex ≠ 0) (hf : 0 = (w.lane (lowest ex)).fid) : Runs (cxOf m b w ex).s h (cxOf m b w ex) where
  iss := rfl
  state := rfl
  block := by simp [cxOf, issueOf, Mach.issueOf, Mach.block?, hm]
  warp := by simp [cxOf, issueOf, Mach.issueOf, Mach.warp?, Mach.block?, Block.warp?, hm, hb]
  exec := he
  some := hs
  frame := hf

/-- The plain case: registers rs, all 16 lanes. -/
def cx (rs : List RVal) : Cx := cxOf (machOf (blockOf (warpOf rs id) id)) (blockOf (warpOf rs id) id) (warpOf rs id) 0xFFFF

theorem warp_live (rs : List RVal) : (warpOf rs id).liveLanes = w0.liveLanes := rfl

theorem cx_runs (rs : List RVal) : Runs (cx rs).s h (cx rs) where
  iss := rfl
  state := rfl
  block := rfl
  warp := rfl
  exec := by
    change (0xFFFF#64 : Mask) = (~~~0 : Mask) &&& 0xFFFF#64 &&& ~~~(0 : Mask) &&& (warpOf rs id).liveLanes
    rw [warp_live]; decide
  some := (by decide : (0xFFFF#64 : Mask) ≠ 0)
  frame := by
    change 0 = (w0.lane (lowest (0xFFFF#64 : Mask))).fid
    decide

/-- The frame holds v0 to v47, and the g registers are always there. -/
theorem cx_holds (rs : List RVal) (regs : List Nat) (hr : ∀ r ∈ regs, r < 48 ∨ 56 ≤ r) : (cx rs).Holds regs := by
  intro r hm h56
  exact ⟨_, rfl, by have := hr r hm; change r < 48; omega⟩

/-- The value an outcome leaves in lane l of register r of the issuing warp. -/
def after (o : Host.Outcome State Fault Refusal) (r l : Nat) : Option Word :=
  match o with
  | .next t => (t.m.warp? 0 0).map fun w => (w.reg 0 r).get l
  | _ => none

def two (x y : Word) : List RVal := [.u 0, .u x, .u y, .u 0] ++ List.replicate 44 (.u 0)

/-- R372's worked example: 0x7FFFFFFF + 1, plain and saturated, and 0xFFFFFFFF + 1 saturated as n32. -/
theorem test_iadd : after (exec (.iadd h 3 1 2 false none) (cx (two 0x7FFFFFFF 1)).s) 3 5 = some 0x80000000 ∧
    after (exec (.iadd h 3 1 2 false (some 1)) (cx (two 0x7FFFFFFF 1)).s) 3 5 = some 0x7FFFFFFF ∧
    after (exec (.iadd h 3 1 2 false (some 3)) (cx (two 0xFFFFFFFF 1)).s) 3 5 = some 0xFFFFFFFF := by decide

/-- R374's worked example: 0xFFFFFFFF times 2. -/
theorem test_imul : after (exec (.imul h 3 1 2 false) (cx (two 0xFFFFFFFF 2)).s) 3 0 = some 0xFFFFFFFE ∧
    after (exec (.imulh h 3 1 2 false none) (cx (two 0xFFFFFFFF 2)).s) 3 0 = some 0xFFFFFFFF ∧
    after (exec (.imulh h 3 1 2 false (some 2)) (cx (two 0xFFFFFFFF 2)).s) 3 0 = some 1 := by decide

/-- R404's worked example. -/
theorem test_rot : after (exec (.rot h 2 1 8 true) (cx (two 0x12345678 0)).s) 2 15 = some 0x34567812 := by decide

/-- R408: SHL of A(3, 1) by 4 is A(48, 16), and by a register of 32 it is U(0). -/
theorem test_shl_affine : (match exec (.shl h 2 1 4 true) (cx [.u 0, .a 3 1, .u 32]).s with
    | .next t => (t.m.warp? 0 0).map fun w => w.reg 0 2 | _ => none) = some (.a 48 16) ∧
    (match exec (.shl h 3 1 2 false) (cx [.u 0, .a 3 1, .u 32, .u 0]).s with
    | .next t => (t.m.warp? 0 0).map fun w => w.reg 0 3 | _ => none) = some (.u 0) := by decide

/-- R373's worked example: v6 = 0xFFFFFFF0 subtracts 16. -/
theorem test_iaddw : after (exec (.iaddw h 4 2 1 false) (cx (two 0xFFFFFFF0 0x18000)).s) 4 0 = some 0x17FF0 := by decide

/-- R387: MOVI without a prefix sign-extends, with one it takes all 32 bits. -/
theorem test_movi : after (exec (.movi h 1 0x1678 (some 0x91A2)) (cx rs0).s) 1 0 = some 0x12345678 ∧
    after (exec (.movi h 1 0x1FFF none) (cx rs0).s) 1 0 = some 0xFFFFFFFF := by decide

/-- R365: 1 + 1 = 2, and 1.5 times 1.5 = 2.25, in f32. -/
theorem test_float : after (exec (.fadd h 3 1 2 false) (cx (two 0x3F800000 0x3F800000)).s) 3 0 = some 0x40000000 ∧
    after (exec (.fmul h 3 1 2 false) (cx (two 0x3FC00000 0x3FC00000)).s) 3 0 = some 0x40100000 := by decide

/-- R69: a register at the frame's size traps FRAME: the grid, with no handler, is killed. -/
theorem test_frame_trap : (match exec (.mov h 48 1) (cx rs0).s with | .next t => t.m.grids.all (fun g => g.killed) && t.iss.isNone | _ => false) = true := by decide


/-! ### Witnesses: for each statement with hypotheses, a state and operands that meet them. -/

/-- The hypotheses common to the statements about encoded words, with any registers named; they are all that IntegerArithmetic, WideArithmetic, LogicAndShifts, BitOperations, Moves, FloatArithmetic, PackedHalf, FloatCompares, Conversions, TrapWords and SitesAndExit ask. -/
theorem witness_word_runs (regs : List Nat) (hr : ∀ r ∈ regs, r < 48 ∨ 56 ≤ r) : Runs (cx rs0).s h (cx rs0) ∧ (cx rs0).Holds regs :=
  ⟨cx_runs rs0, cx_holds rs0 regs hr⟩

/-- PredicateWords: the last function of PLOP and its first. -/
theorem witness_PredicateWords : (3 : BitVec 3).toNat < 4 ∧ (0 : BitVec 3).toNat < 4 := by decide

/-- The same machine with one lane under way. -/
def cx1 : Cx := cxOf (machOf (blockOf (warpOf rs0 id) id)) (blockOf (warpOf rs0 id) id) (warpOf rs0 id) 1

theorem cx1_runs : Runs cx1.s h cx1 := runs_of _ _ _ _ rfl rfl (by decide) (by decide) (by decide)

/-- ShapeTags: a full write with A and U sources, and a write that misses live lanes. -/
theorem witness_ShapeTags : subset ((cx rs0).w.liveSet 0 3) (cx rs0).ex = true ∧ ((cx rs0).reg 1).line = some (3, 1) ∧
    ((cx rs0).opB 2 false).line = some (8, 0) ∧ (cx rs0).reg 1 = .a 3 1 ∧ (cx rs0).opB 2 false = .u 8 ∧ (cx rs0).reg 0 = .u 0 ∧
    subset (cx1.w.liveSet 0 3) cx1.ex = false := by decide

/-- RegisterRules: the first register outside the frame, alone and as the second of a pair. -/
theorem witness_RegisterRules : ∃ f, (cx rs0).w.frame? (cx rs0).fid = some f ∧ f.size ≤ (48 : BitVec 6).toNat ∧
    (47 : BitVec 6).toNat < 55 ∧ f.size ≤ (47 : BitVec 6).toNat + 1 := ⟨_, rfl, by decide⟩

/-- RoundingAndNans: a tie of the rounding modes, and signalling and quiet NaN operands. -/
theorem witness_RoundingAndNans : ((0 : Int) < 1 ∧ 2 * (3 % 2 ^ ((1 : Int) - 0).toNat) = 2 ^ ((1 : Int) - 0).toNat) ∧
    (f32.value (f32.input false 0x7FC00000)).isNan = true ∧ (f32.value (f32.input true 0x7F800001)).isSig = true := by decide

/-- SpecialFunctions: the negative operands nearest and farthest from zero, minus infinity and a NaN. -/
theorem witness_SpecialFunctions : ∀ x ∈ [0x80800000, 0xFF7FFFFF, 0xFF800000, 0xFFFFFFFF], x < 2 ^ 32 ∧ x.testBit 31 = true ∧
    f32.subnormal x = false ∧ x % 2 ^ 31 ≠ 0 := by decide

/-- CrossLaneMoves and VotesAndReductions: Exec lies within the width. -/
theorem witness_VotesAndReductions : (∀ l, (cx rs0).ex.getLsbD l = true → l < (cx rs0).W) ∧ (cx rs0).W ∈ [16, 32, 64] := by
  refine ⟨fun l hl => ?_, by decide⟩
  have h1 : ∀ l, l < 64 → ((0xFFFF#64 : Mask).getLsbD l = true → l < 16) := by decide
  by_cases h2 : l < 64
  · exact h1 l h2 hl
  · have := BitVec.getLsbD_of_ge (0xFFFF#64 : Mask) l (by omega)
    change (0xFFFF#64 : Mask).getLsbD l = true at hl
    rw [this] at hl; cases hl

/-- ControlReads: the first and last tile the block holds, and the first it does not hold; the coefficients and lane counts at the ends of their ranges; the current frame. -/
theorem witness_ControlReads : (cx rs0).b.ntiles = 4 ∧ 0x030 ≤ (0x033 : BitVec 13).toNat ∧ (0x033 : BitVec 13).toNat < 0x030 + 4 ∧
    0x030 + 4 ≤ (0x034 : BitVec 13).toNat ∧ (0x03F : BitVec 13).toNat < 0x040 ∧
    (0x040 ≤ (0x05F : BitVec 13).toNat ∧ (0x05F : BitVec 13).toNat < 0x060) ∧ (0x068 ≤ (0x06B : BitVec 13).toNat ∧ (0x06B : BitVec 13).toNat ≤ 0x06B) ∧
    ((cx rs0).w.frame? (cx rs0).fid).isSome = true ∧ ((cx rs0).s.m.warp? (cx rs0).is.blk (cx rs0).is.warp).isSome = true := by decide

/-- A machine whose array runs a MITER of the block, for a CWR of MITSTAT that is held. -/
def iter0 : MxIter :=
  { mode := 0, td := 0, ta := 0, n := 0, pair := false, tctl := 0, tctlF := 0, step := 0, k := 0, rise := 0, flags := 0, coef := [], cap := 1,
    tol := 0, div := 0x0000FF00, src := [] }
def run0 : MxRun :=
  { blk := 0, warp := 0, side := 0, pc := ⟨0, 0⟩, seq := some 0, endAt := 0, writes := [], iter := some iter0, flags := 0, follower := false, dead := false }
def machMx (r : MxRun) : Mach := { machOf (blockOf (warpOf rs0 id) id) with cores := modAt m0.cores 0 fun k => { k with mx := some r } }
def cxMx : Cx := cxOf (machMx run0) (blockOf (warpOf rs0 id) id) (warpOf rs0 id) 0xFFFF

/-- ControlWrites: a G source, U sources at the ends of each register's range, and MITSTAT with and without a MITER running. -/
theorem witness_ControlWrites : (∀ v l, ((cx (two v 0)).reg 1).isU = true ∧ (cx (two v 0)).lane 1 l = v) ∧ ((cx rs0).reg 3).isU = false ∧
    isNan32 0x7FC00000 = true ∧ isNan32 0x7F800000 = false ∧ (0x0000FF00 : Word).toNat / 2 ^ 16 % 2 ^ 15 = 0 ∧
    (10 < (11 : Word).toNat % 16 ∧ 0 < (cx rs0).b.ntiles) ∧ ((0x1FA : Word).toNat / 2 ^ 18 % 2 ^ 13 = 0 ∧ (0x1FA : Word).toNat % 16 ≤ 10 ∧ (0x1FA : Word).toNat / 16 % 64 = 31) ∧
    (31 < (0x200 : Word).toNat / 16 % 64 ∧ (0x40000 : Word).toNat / 2 ^ 18 % 2 ^ 13 ≠ 0 ∧ (0x10000 : Word).toNat / 2 ^ 16 % 2 ^ 15 ≠ 0) ∧
    (cx rs0).s.m.miterOn (cx rs0).b (cx rs0).w.side = false ∧ cxMx.s.m.miterOn cxMx.b cxMx.w.side = true :=
  ⟨fun _ _ => ⟨rfl, rfl⟩, by decide⟩

theorem cxMx_runs : Runs cxMx.s h cxMx := runs_of (machMx run0) (blockOf (warpOf rs0 id) id) (warpOf rs0 id) 0xFFFF rfl rfl (by decide) (by decide) (by decide)

/-- A word deep in the segment, for branches past its end. -/
def cxFar : Cx := { cx1 with is := { cx1.is with here := ⟨1398100, 0⟩ }, s := { cx1.s with iss := some { cx1.is with here := ⟨1398100, 0⟩ } } }

/-- Branches: an empty Exec under p0; targets at both ends of the segment and past them; code addresses at, below and past the segment's ends, and misaligned. -/
theorem witness_Branches : (cx rs0).is.exec (cx rs0).w { h with gp := 0 } = 0 ∧ Runs cxFar.s h cxFar ∧
    ((cxFar.is.here.pk : Int) + (0 : BitVec 19).toInt = 1398100 ∧ 1398100 < (cxFar.is.here.pk : Int) + (1 : BitVec 19).toInt) ∧
    ((cx rs0).is.here.pk : Int) + (0x7FFFF : BitVec 19).toInt < 0 ∧
    ((cx rs0).allU (pairRegs 4) = true ∧ ((cx rs0).pair 4 (cx rs0).low).toNat = 0x10018 ∧ (cx rs0).b.entry = 0x10000) ∧
    (cx rs0).allU (pairRegs 2) = false ∧
    (∀ p ∈ [(0xFFFF, 1), (0x1010000, 2), (0x100FFFC, 3), (0x10001, 3), (0x10000, 4)], ((cx (two (BitVec.ofNat 32 p.1) 0)).pair 1 0).toNat = p.1 ∧
      (p.2 = 1 → p.1 < 0x10000) ∧ (p.2 = 2 → 0x10000 + 2 ^ 24 ≤ p.1) ∧
      (p.2 = 3 → p.1 < 0x10000 + 2 ^ 24 ∧ ((p.1 - 0x10000) % 4 ≠ 0 ∨ 16777212 ≤ p.1 - 0x10000)) ∧ (p.2 = 4 → (p.1 - 0x10000) % 4 = 0)) := by
  refine ⟨by decide, ⟨rfl, rfl, cx1_runs.block, cx1_runs.warp, cx1_runs.exec, cx1_runs.some, cx1_runs.frame⟩, ?_⟩
  decide

/-- A lane with n return entries, each naming the base frame. -/
def stacked (n : Nat) (l : Lane) : Lane := { l with depth := n, stack := List.replicate (min n 16) { addr := 0x10018, fid := 0 } }
def warpStack (n : Nat) : Warp := warpOf rs0 fun w => { w with lanes := w.lanes.map (stacked n) }
def cxStack (n : Nat) : Cx := cxOf (machOf (blockOf (warpStack n) id)) (blockOf (warpStack n) id) (warpStack n) 1

def leafFrame : Frame := { id := 1, level := 1, size := 8, members := 1, regs := [], resident := true, clob := 0, slots := [], order := 1 }

/-- Calls: 15 entries on chip, a target in the segment, and lines for the largest demand; a warp of 256 frames; and lanes 64 deep. -/
theorem witness_Calls : Runs (cxStack 15).s h (cxStack 15) ∧ (∀ l ∈ (cxStack 15).lanes, ((cxStack 15).w.lane l).stack.length < 16 ∧
      ((cxStack 15).w.lane l).depth ≠ 64) ∧
    ((cxStack 15).is.here.pk : Int) + (0 : BitVec 16).toInt = 0 ∧ codePc (cxStack 15).b.entry ((cxStack 15).pair 4 (cxStack 15).low).toNat = .ok ⟨2, 0⟩ ∧
    (cxStack 15).w.frames.length < 256 ∧ (cxStack 15).allocates ((cxStack 15).b.lines 56) = true ∧
    256 ≤ (warpOf rs0 fun w => { w with frames := w.frames ++ List.replicate 255 leafFrame }).frames.length ∧
    (∃ l ∈ (cxStack 64).lanes, ((cxStack 64).w.lane l).depth = 64) :=
  ⟨runs_of _ _ _ _ rfl rfl (by decide) (by decide) (by decide), by decide, by decide, rfl, by decide, by decide, by decide, by decide⟩

/-- Returns: one entry, and all 16 entries on chip, that name the base frame and an address in the segment; depth 0; and more entries than the depth. -/
theorem witness_Returns : Runs (cxStack 16).s h (cxStack 16) ∧
    (∀ n ∈ [1, 16], ∀ l ∈ (cxStack 16).lanes, n ≤ ((cxStack 16).w.lane l).stack.length ∧ n ≤ ((cxStack 16).w.lane l).depth ∧
      ((cxStack 16).w.lane l).stack[n - 1]? = some { addr := 0x10018, fid := 0 } ∧
      framesPassed (fun e => match (cxStack 16).w.frame? e.fid with | some f => f.members.getLsbD l | none => false) ((cxStack 16).w.lane l).fid []
        (((cxStack 16).w.lane l).stack.take n) = some []) ∧
    codePc (cxStack 16).b.entry 0x10018 = .ok ⟨2, 0⟩ ∧ (∃ l ∈ (cxStack 0).lanes, ((cxStack 0).w.lane l).depth = 0) ∧
    ((cxStack 16).allU [2] = true ∧ (cxStack 16).lane 2 0 ≠ 0 ∧ (cxStack 16).lane 0 0 = 0) ∧
    (∃ l ∈ (cxStack 7).lanes, ((cxStack 7).w.lane l).depth < ((cxStack 7).lane 2 (cxStack 7).low).toNat) :=
  ⟨runs_of _ _ _ _ rfl rfl (by decide) (by decide) (by decide), by decide, rfl, by decide, by decide, by decide⟩

/-- FrameSizes: a U count of 8, which fills the frame to 56; a count of 0; a lane left out; and lines for it. -/
theorem witness_FrameSizes : (∃ f, (cx rs0).w.frame? (cx rs0).fid = some f ∧ f.size + 8 = 56 ∧ 8 + 8 ≤ f.size) ∧ (cx rs0).allU [2] = true ∧
    ((cx rs0).lane 2 (cx rs0).low).toNat = 8 ∧ subset ((cx rs0).w.liveSet 0 0) (cx rs0).ex = true ∧ (cx rs0).allU [3] = false ∧
    subset (cx1.w.liveSet 0 0) cx1.ex = false ∧ ((cx rs0).lane 0 0).toNat = 0 ∧ (cx rs0).allocates ((cx rs0).b.lines 8) = true :=
  ⟨⟨_, rfl, by decide⟩, by decide, by decide, by decide, by decide, by decide, by decide, by decide⟩


/-- SitesAndExit: a warp that has executed a YIELD on a core with a second ready warp outside its active set. -/
def twoWarps : Block := { blockOf (warpOf rs0 id) id with warps := [warpOf rs0 id, { warpOf rs0 id with num := 1 }] }
def mYield : Mach :=
  { machOf twoWarps with front := some { blk := 0, warp := 0, ready := [], issued := [], second := none, fpmode := 0, smode := 0, yields := true } }

theorem witness_SitesAndExit : (mYield.front.map fun f => (f.blk, f.warp, f.yields)) = some (0, 0, true) ∧ (mYield.block? 0).isSome = true ∧
    ((mYield.coreWarps 0).filter fun p =>
      !(mYield.core 0).actSet.contains (p.1.id, p.2.num) && (p.1.id, p.2.num) != (0, 0) && !(mYield.offers unitGate p.1 p.2).isEmpty).map (fun p => p.2.num) = [1] ∧
    (cxStack 0).s.m.settleAll 0 0 1 = ((cxStack 0).s.m, true) ∧ ((cxStack 0).w.sites[15]?).isSome = true := by decide

/-- A verdict with no trap and no missing page, over some lane. -/
def goes (rs : List LaneRes) : Bool := match verdict rs with | .go accs [] => !accs.isEmpty | _ => false

/-- The machine with its context's local memory on the mapped page, and one lane whose block has a handler. -/
def machLocal (b : Block) : Mach := { machOf b with ctxs := m0.ctxs.map fun k => { k with locbase := 0x10000 } }
def blockTrap : Block := blockOf (warpOf rs0 id) fun b => { b with trapbase := 0x10018 }
def cxTrap : Cx := cxOf (machLocal blockTrap) blockTrap (warpOf rs0 id) 1

/-- TrapEntry: a lane outside a handler with no result to come, a handler in the segment, and a slot that translates. -/
theorem witness_TrapEntry : (machLocal blockTrap).block? 0 = some blockTrap ∧ (machLocal blockTrap).warp? 0 0 = some (warpOf rs0 id) ∧
    (warpOf rs0 id).pending 1 = [] ∧ ((warpOf rs0 id).lane 0).handler = false ∧ blockTrap.trapbase ≠ 0 ∧
    codePc blockTrap.entry blockTrap.trapbase.toNat = .ok ⟨2, 0⟩ ∧
    (let m := machLocal blockTrap
     let va := m.localVa blockTrap (warpOf rs0 id) 0 (m.sliceSize blockTrap - 64)
     goes [m.checkOne 0 { lane := 0, va := va, size := 64, need := { r := false, w := true, x := false } }] = true) :=
  ⟨rfl, rfl, by decide, by decide, by decide, rfl, by decide⟩

def warpHandler : Warp := warpOf rs0 fun w => { w with lanes := w.lanes.map fun l => { l with handler := true } }
def cxHandler : Cx := cxOf (machLocal (blockOf warpHandler id)) (blockOf warpHandler id) warpHandler 1

/-- TrapReturn: a lane in handler mode whose slot translates and holds a resume point in the segment; and a lane that is not. -/
theorem witness_TrapReturn : Runs cxHandler.s h cxHandler ∧ (∀ l ∈ cxHandler.lanes, (cxHandler.w.lane l).handler = true) ∧
    goes (cxHandler.lanes.map fun l => cxHandler.localAccess l (cxHandler.is.base.sliceSize cxHandler.b - 64) 64 { r := true, w := false, x := false }) = true ∧
    (∃ l ∈ (cx rs0).lanes, ((cx rs0).w.lane l).handler = false) :=
  ⟨runs_of (machLocal (blockOf warpHandler id)) (blockOf warpHandler id) warpHandler 1 rfl rfl (by decide) (by decide) (by decide), by decide, by decide, by decide⟩

/-- Local accesses of one lane. -/
def cxLocal : Cx := cxOf (machLocal (blockOf (warpOf rs0 id) id)) (blockOf (warpOf rs0 id) id) (warpOf rs0 id) 1

theorem cxLocal_runs : Runs cxLocal.s h cxLocal :=
  runs_of (machLocal (blockOf (warpOf rs0 id) id)) (blockOf (warpOf rs0 id) id) (warpOf rs0 id) 1 rfl rfl (by decide) (by decide) (by decide)

/-- Loads, Stores, StoreOrder: accesses of one lane that pass their checks, global, shared at the window's last word, and thread-local, with nothing before them to perform; and LD.u's U pair. -/
theorem witness_Loads : goes (cxLocal.lanes.map fun l => cxLocal.checkGlob l (cxLocal.pair 6 l).toNat 16 needR) = true ∧
    goes (cxLocal.lanes.map fun l => cxLocal.checkShared l (1024 - 4) 4 needR) = true ∧
    goes (cxLocal.lanes.map fun l => cxLocal.checkLocal l (65536 - 8) 8 needR) = true ∧
    goes (cxLocal.lanes.map fun l => cxLocal.is.base.checkOne cxLocal.b.ctx { lane := l, va := (cxLocal.pair (2 * 3) l).toNat, size := 8, need := needR }) = true ∧
    cxLocal.allU (pairRegs 6) = true ∧ cxLocal.allU (pairRegs 3) = false := by decide

/-- AccessFaults: a misaligned access, an offset past the window, an offset past the slice, and a page that is not mapped. -/
theorem witness_AccessFaults : (match verdict (cxLocal.lanes.map fun l => cxLocal.checkGlob l 0x10018 16 needR) with | .trap 4 2 _ _ _ => true | _ => false) = true ∧
    (match verdict (cxLocal.lanes.map fun l => cxLocal.checkShared l 1024 4 needW) with | .trap 7 2 _ _ _ => true | _ => false) = true ∧
    (match verdict (cxLocal.lanes.map fun l => cxLocal.checkLocal l 65536 8 needW) with | .trap 7 3 _ _ _ => true | _ => false) = true ∧
    (match verdict (cxLocal.lanes.map fun l => cxLocal.checkGlob l 0x20000 16 needW) with | .go [] misses => !misses.isEmpty | _ => false) = true := by decide

/-- AccessFaults: a page that grants no write. -/
def cxRo : Cx :=
  cxOf { machLocal (blockOf (warpOf rs0 id) id) with mem := m0.mem.setCells (cellsFrom 0x103008 (leBytes 8 0x100003B)) } (blockOf (warpOf rs0 id) id) (warpOf rs0 id) 1

theorem witness_AccessFaults_prot : (match verdict (cxRo.lanes.map fun l => cxRo.checkGlob l (cxRo.pair 6 l).toNat 16 needW) with
    | .trap 6 1 va pa _ => va == 0x18000 && pa == some 0x18000 | _ => false) = true := by decide

/-- A block with one byte of a sector in its buffer, unreleased, and a quota q. -/
def entry0 : SbEnt := { seq := 0, sector := 0x18000 / 128, va := 0x18000, cells := [(0x18000, 1)], released := false, tst := false, own := none }
def blockSb (q : Nat) (e : List SbEnt) : Block := blockOf (warpOf rs0 id) fun b => { b with quota := q, sb := e, sbSeq := e.length }

/-- Stores: nothing to settle first; a store that finds room in the buffer, and one that a quota of 0 refuses. -/
theorem witness_Stores : (cxLocal.s.m.settle 0 0 1 1 []).2 = true ∧
    (Mach.storeAll 0 [(0x18000, 0x18000, [1])] (machOf (blockSb 16 []))).2 = true ∧
    (Mach.storeAll 0 [(0x18000, 0x18000, [1])] (machOf (blockSb 0 []))).2 = false := by decide

/-- StoreOrder: a block whose buffer holds one unreleased entry, into which a store of the same sector goes; ST.rel of a word homed on the die. -/
theorem witness_StoreOrder : (machOf (blockSb 16 [entry0])).block? 0 = some (blockSb 16 [entry0]) ∧ 0x18001 % 128 + 4 ≤ 128 ∧
    (blockSb 16 [entry0]).occupancy + 128 ≤ (blockSb 16 [entry0]).quota * 1024 ∧
    ((blockSb 16 [entry0]).sb.map fun e => e.seq).Pairwise (fun x y => x < y) ∧ (∀ e ∈ (blockSb 16 [entry0]).sb, e.seq < (blockSb 16 [entry0]).sbSeq) ∧
    (∀ e ∈ (blockSb 16 [entry0]).sb, ∀ c ∈ e.cells, c.1 / 128 = e.sector) ∧
    (∀ e ∈ (blockSb 16 [entry0]).sb, e.released = false → e.tst = false → ∀ x ∈ (blockSb 16 [entry0]).sb, x.sector = e.sector → x.seq ≤ e.seq) ∧
    (blockSb 16 [entry0]).rels = [] ∧
    (cxLocal.s.m.settleAll 0 0 1).2 = true ∧ cxLocal.s.m.onDie cxLocal.b 0x18000 = true := by
  refine ⟨rfl, ?_⟩
  decide

/-- The page at 0x10000 mapped to die 1. -/
def machFar : Mach :=
  { machOf (blockOf (warpOf rs0 id) id) with mem := m0.mem.setCells (cellsFrom 0x103008 (leBytes 8 (2 ^ 44 + 0x100003F))), rmap := { m0.rmap with dies := [installDie, installDie] } }
def cxFarMem : Cx := cxOf machFar (blockOf (warpOf rs0 id) id) (warpOf rs0 id) 1

/-- Atomics: a word homed on the die, and one on another die with room on ch0; both orders' settling. -/
theorem witness_Atomics : goes (cxLocal.lanes.map fun l => cxLocal.checkAtom l (cxLocal.pair (2 * 3) l).toNat (atomSize 13)) = true ∧
    Runs cxFarMem.s h cxFarMem ∧ goes (cxFarMem.lanes.map fun l => cxFarMem.checkAtom l (cxFarMem.pair (2 * 3) l).toNat 4) = true ∧
    machFar.onDie cxFarMem.b (2 ^ 36 + 0x18000) = false ∧ machFar.ch0Ready cxFarMem.b 64 = true ∧ (machFar.settle 0 0 1 1 []).2 = true ∧
    machFar.accInFlight cxFarMem.b { lane := 0, va := 0x18000, loc := .glob (2 ^ 36 + 0x18000), size := 4, ops := [1] } = false := by
  refine ⟨by decide, runs_of machFar (blockOf (warpOf rs0 id) id) (warpOf rs0 id) 1 rfl rfl (by decide) (by decide) (by decide), ?_⟩
  decide

/-- StoreOrder, Atomics: a lane whose word is homed on another die, with everything before it performed and room on ch0. -/
theorem witness_StoreOrder_far : goes (cxFarMem.lanes.map fun l => cxFarMem.checkGlob l (cxFarMem.pair 6 l).toNat 4 needW) = true ∧
    (machFar.settleAll 0 0 1).2 = true ∧ machFar.ch0Ready cxFarMem.b 1 = true ∧
    machFar.near cxFarMem.b { lane := 0, va := 0x18000, loc := .glob (2 ^ 36 + 0x18000), size := 4, ops := [1] } = false := by decide

/-- A block with a stash of 2,048 bytes and one mapping. -/
def blockStash (n : Nat) : Block := blockOf (warpOf [.u 0, .u 1024, .u 0x10000, .u 0, .u 1, .u 0, .u 0x100000] id) fun b =>
  { b with stsize := 2048, maps := List.replicate n { side := 0, off := 0, base := 0x18000, len := 1024, undo := [] } }
def cxStash (n : Nat) : Cx := cxOf (machOf (blockStash n)) (blockStash n) (warpOf [.u 0, .u 1024, .u 0x10000, .u 0, .u 1, .u 0, .u 0x100000] id) 1

/-- StashWords: a mapping that fits beside another, up to the stash's end; one whose offset is taken; 16 mappings; a length past the stash; a misaligned and a too high base; a mapping to take away, and none; a line to lock. -/
theorem witness_StashWords : Runs (cxStash 1).s h (cxStash 1) ∧
    (let c := cxStash 1
     (c.lane 1 0).toNat + (c.lane 1 0).toNat = c.b.stsize ∧ (c.pair 2 0).toNat = 0x10000 ∧ c.b.maps.length ≠ 16 ∧ (cxStash 16).b.maps.length = 16 ∧
       (∀ p ∈ c.b.maps, ¬ (p.side = c.w.side ∧ 1024 < p.off + p.len ∧ p.off < 1024 + 1024) ∧ ¬ (0x10000 < p.base + p.len ∧ p.base < 0x10000 + 1024)) ∧
       (∃ p ∈ c.b.maps, p.side = c.w.side ∧ p.off = 0) ∧ (∀ p ∈ c.b.maps, ¬ (p.side = c.w.side ∧ p.off = 1024)) ∧ c.b.stsize < 1024 + 2048 ∧
       (c.pair 4 0).toNat = 1 ∧ (c.pair 3 0).toNat = 2 ^ 32 ∧ 2 ^ 52 ≤ (c.pair 5 0).toNat ∧
       goes (c.lanes.map fun l => c.checkLine l (c.pair 2 l).toNat) = true ∧ (c.s.m.coreLocks 0).length ≤ 63) := by
  refine ⟨runs_of (machOf (blockStash 1)) (blockStash 1) _ 1 rfl rfl (by decide) (by decide) (by decide), ?_⟩
  decide

/-- A block whose window holds a phase barrier at 8, in phase 1. -/
def warpObj : Warp := warpOf [.u 8, .u 1, .u 0, .u 65535, .u 65536] id
def blockObj : Block := blockOf warpObj fun b => { b with shared := [(12, 1)] }
def cxObj : Cx := cxOf (machOf blockObj) blockObj warpObj 1
/-- The same with a released entry of its buffer not yet visible. -/
def blockUnseen : Block := blockOf warpObj fun b => { b with sb := [{ entry0 with released := true }], sbSeq := 1 }

/-- BarriersAndFences: an object in the window, counts 0, 1, 65,535 and 65,536, a phase that is over and one that is not, and a fence with nothing and with something still unseen. -/
theorem witness_BarriersAndFences : Runs cxObj.s h cxObj ∧ goes (cxObj.lanes.map (cxObj.checkObj 0)) = true ∧
    (cxObj.s.m.settleAll 0 0 1).2 = true ∧ (cxObj.s.m.settle 0 0 1 1 []).2 = true ∧
    ((cxObj.lane 2 0).toNat = 0 ∧ (cxObj.lane 1 0).toNat = 1 ∧ (cxObj.lane 3 0).toNat = 65535 ∧ (cxObj.lane 4 0).toNat = 65536) ∧
    leNat (blockObj.shared.bytes (8 + 4) 4) = 1 ∧ (1 ≤ (1 + 2 ^ 32 - 0) % 2 ^ 32 ∧ ¬ 1 ≤ (1 + 2 ^ 32 - 1) % 2 ^ 32) ∧
    (machOf blockObj).unseen blockObj = [] ∧ (machOf blockUnseen).unseen blockUnseen ≠ [] := by
  refine ⟨runs_of (machOf blockObj) blockObj warpObj 1 rfl rfl (by decide) (by decide) (by decide), ?_⟩
  decide

/-- TagsAndTimelines: the highest mask of the block's four tags, ready; the first mask past them; the empty mask; a channel the block holds and the first it does not. -/
theorem witness_TagsAndTimelines : (cx rs0).b.ntags = 4 ∧ ((cx (two 15 0)).pair 1 0).toNat = 15 ∧ ((cx (two 16 0)).pair 1 0).toNat = 16 ∧
    (∀ i, i < 4 → ((cx rs0).b.ready).getLsbD i = true) ∧ (cx rs0).b.tagErr = [] ∧ (cx rs0).b.nchan = 2 ∧
    (cx rs0).s.m.tlCount (cx rs0).b.ctx 31 < 1 := by decide

/-- ChannelOperations: a store and an atomic that pass their checks with room on their channel, and slot descriptors that are good and bad. -/
theorem witness_ChannelOperations : (cx rs0).b.nchan = 2 ∧
    goes (cxLocal.lanes.map fun l => cxLocal.is.base.checkOne cxLocal.b.ctx { lane := l, va := (cxLocal.pair (2 * 3) l).toNat, size := 16, need := needW }) = true ∧
    (cxLocal.b.chan 1).queue.length + 1 ≤ 64 ∧ (homeOf 0x18000).2 ≠ 8 ∧ cxLocal.s.m.warp? 0 0 = some cxLocal.w ∧
    badSlot 0x0000000101000000 = false ∧ badSlot 0 = true := by
  refine ⟨rfl, by decide, by decide, by decide, rfl, by decide, by decide⟩

/-- JoinAndDrain: a channel with nothing outstanding, one with a latched error, and one with an operation not acknowledged. -/
theorem witness_JoinAndDrain : let q := (cx rs0).b.chan 1
    q.queue.length < 64 ∧ q.ackedUpto q.issued = true ∧ q.err = none ∧ ({ q with err := some (0x0D, 0, 0) } : Chan).err ≠ none ∧
      ({ q with issued := 1, sent := [{ first := 1, dpkg := 0, ddie := 0, seq := 0, rred := false, src := none, tl := none }] } : Chan).ackedUpto 1 = false ∧
      ((cx rs0).w.lane (cx rs0).low).run ≠ .drained := by decide


/-- Registers for copies: a destination offset of 0 and a size of 64 KiB, then CPYR's destination, size and channel; and n as a bound breaker. -/
def rsCopy (n : Word) : List RVal := [.u 0, .u n, .u n, .u 1, .u 0, .u 0, .u 0x18000, .u 0, .u 0x1C000, .u 0, .u 16, .u 1]
def cxCopy (n : Word) : Cx :=
  cxOf (machOf (blockOf (warpOf (rsCopy n) id) fun b => { b with shsize := 65536 })) (blockOf (warpOf (rsCopy n) id) fun b => { b with shsize := 65536 })
    (warpOf (rsCopy n) id) 1

/-- Copies: a copy of 16 bytes into the shared window; CPYR of 16 bytes whose channel stands and whose timeline has room, with size 0, and with a channel past the block's; the first tag the block does not hold. -/
theorem witness_Copies : Runs (cxCopy 16).s h (cxCopy 16) ∧
    goes (((cxCopy 16).lanes.map fun l => (cxCopy 16).copyReq 6 0 l).flatMap fun q => (cxCopy 16).copyChecks 0 q) = true ∧
    (cxCopy 16).b.ntags = 4 ∧ (cxCopy 16).allU [2 * 4 + 3] = true ∧ ((cxCopy 16).val (2 * 4 + 3) 0).toNat < (cxCopy 16).b.nchan ∧
    (cxCopy 16).b.nchan ≤ ((cxCopy 2).val (2 * 0 + 2) 0).toNat ∧ ((cxCopy 16).pair 6 0).toNat = 0x18000 ∧ ((cxCopy 16).pair (2 * 4) 0).toNat = 0x1C000 ∧
    ((cxCopy 16).val (2 * 4 + 2) 0).toNat = 16 ∧ ((cxCopy 16).val (2 * 2) 0).toNat = 0 ∧
    goes ([0x18000, 0x1C000].map fun va => (cxCopy 16).is.base.checkOne 0 { lane := 0, va := va, size := 16, need := { r := true, w := true, x := false } }) = true ∧
    keyPkg 0x18000 = (cxCopy 16).s.m.rmap.pkg ∧ (cxCopy 16).s.m.tlFull 0 31 = false ∧ ((cxCopy 16).b.chan 1).queue.length < 64 := by
  refine ⟨runs_of (machOf (blockOf (warpOf (rsCopy 16) id) fun b => { b with shsize := 65536 })) _ _ 1 rfl rfl (by decide) (by decide) (by decide), ?_⟩
  decide

/-- Copies: a source page of another package. -/
def cxPkg : Cx :=
  cxOf
    { machOf (blockOf (warpOf (rsCopy 16) id) id) with
      mem := m0.mem.setCells (cellsFrom 0x103008 (leBytes 8 0x100043F))
      rmap := { m0.rmap with ports := List.replicate 44 { state := 1, ver := 1, peerPkg := 1, peerPort := 0 } } }
    (blockOf (warpOf (rsCopy 16) id) id) (warpOf (rsCopy 16) id) 1

theorem witness_Copies_package :
    (match verdict (cxPkg.lanes.map fun l => cxPkg.is.base.checkOne cxPkg.b.ctx { lane := l, va := 0x18000, size := 16, need := { r := true, w := false, x := false } }) with
    | .go (x :: _) [] => keyPkg x.1.key != cxPkg.s.m.rmap.pkg | _ => false) = true := by decide

/-- A block whose tiles have the TCTLs listed: f32 8 x 8, f16 8 x 8, GSX 8 x 8 and one not valid. -/
def tc32 : Word := 0x80001C71
def tc16 : Word := 0x80001C73
def tcG : Word := 0x80001C78
def blockTiles (ts : List Word) (cap : Word) : Block :=
  blockOf (warpOf rs0 id) fun b => { b with sides := (b.sides.map fun s => { s with tctl := ts, eng := { s.eng with mitcap := cap } }) }
def cxTiles (ts : List Word) (cap : Word) : Cx := cxOf (machOf (blockTiles ts cap)) (blockTiles ts cap) (warpOf rs0 id) 1

theorem cxTiles_runs (ts : List Word) (cap : Word) : Runs (cxTiles ts cap).s h (cxTiles ts cap) :=
  runs_of (machOf (blockTiles ts cap)) (blockTiles ts cap) (warpOf rs0 id) 1 rfl rfl
    (by change (1#64 : Mask) = (~~~0 : Mask) &&& 1#64 &&& ~~~(0 : Mask) &&& (warpOf rs0 id).liveLanes; decide) (by decide) (by decide)

/-- ArrayWords: every one of the nine words with tiles it takes, with a tile the block does not hold, and with a tile whose TCTL is not valid. -/
theorem witness_ArrayWords :
    (∀ p ∈ [(Instr.tzero h 0 0, [tc32]), (.tmov h 0 1 0, [tc32, tc32]), (.mtrn h 0 1 0, [tc32, tc32]), (.mma h 0 1 2 3 false 0, [tc32, tc16, tc16]),
        (.mscale h 0 1 2, [tc32, tc32]), (.mpoly h 0 1 3 false, [tc32, tc32]), (.tqnt h 0 1 2, [tcG, tc32]), (.tdq h 0 1 2, [tc32, tcG])],
      (mxOpOf p.1).all (fun o => o.bad (blockTiles p.2 1) 0 == none && !o.poisoned (blockTiles p.2 1) 0 8 &&
        !o.sreg.any fun r => !(cxTiles p.2 1).allU [r]) = true) ∧
    (mxOpOf (.tzero h 4 0)).any (fun o => o.bad (blockTiles [tc32] 1) 0 == some 1) = true ∧
    (mxOpOf (.tzero h 1 0)).any (fun o => o.bad (blockTiles [tc32] 1) 0 == some 2) = true ∧
    (mxOpOf (.mscale h 0 1 3)).any (fun o => o.sreg.any fun r => !(cxTiles [tc32, tc32] 1).allU [r]) = true ∧
    (mxOpOf (.mma h 0 1 2 3 false 0)).any (fun o => o.mirror (blockTiles [tc32, tc16, tc16] 1) 0 8 && !o.mirror (blockTiles [0x80001DF1, 0x80001DF3, tc16] 1) 0 32) = true := by decide

/-- ArrayWords: the same words, and products of f64 and i8 tiles, on tiles whose bytes are in canonical form. -/
theorem witness_ArrayWords_results : ∀ p ∈ [(Instr.tzero h 0 0, [tc32]), (.tmov h 0 1 0, [tc32, tc32]), (.mtrn h 0 1 0, [tc32, tc32]),
      (.mma h 0 1 2 0 false 0, [0x80001C70, 0x80001C70, 0x80001C70]), (.mma h 0 1 2 6 false 0, [0x80001C77, 0x80003C76, 0x80001CF6]),
      (.mscale h 0 1 2, [tc32, tc32])],
    (mxOpOf p.1).all (fun o => o.bad (blockTiles p.2 1) 0 == none && !o.pair && ((blockTiles p.2 1).tile 0 o.td).bytes.wf &&
      decide (o.td < ((blockTiles p.2 1).side 0).tiles.length)) = true := by decide

/-- IterationStart: each MITER with tiles it takes, fresh at its site below a cap of 1, and held there by an end of its block with its count at the cap, with CAPFAULT and without. -/
def engHeld (div : Word) : MitRegs := { ((blockTiles [tc32] 1).side 0).eng with mitstat := 0x80000001, owner := some (0, ⟨0, 0⟩), mitdiv := div }

theorem witness_IterationStart : (∀ i ∈ [Instr.miterNs h 0 false, .miterNinv h 0 1 false, .miterPoly h 0 3 false],
      (mxOpOf i).all (fun o => o.bad (blockTiles [tc32, tc32] 1) 0 == none && !o.poisoned (blockTiles [tc32, tc32] 1) 0 8) = true) ∧
    ((blockTiles [tc32] 1).side 0).eng.owner = none ∧ ((blockTiles [tc32] 1).side 0).eng.mitcap.toNat = 1 ∧
    (∀ d, (engHeld d).mitstat = 0x80000001 ∧ (engHeld d).owner = some ((warpOf rs0 id).num, ⟨0, 0⟩) ∧ (engHeld d).mitcap = 1 ∧ (engHeld d).mitdiv = d) ∧
    (0x80000001 : Word).getLsbD 31 = true ∧ (0x80000001 : Word).toNat / 2 ^ 0 % 2 ^ 8 = 1 ∧ (0x0000FF00 : Word).getLsbD 31 = false ∧
    (0x8000FF00 : Word).getLsbD 31 = true := by
  refine ⟨by decide, by decide, by decide, fun d => ⟨rfl, rfl, rfl, rfl⟩, ?_⟩
  decide

/-- SliceWords: a good tile of 64 words, its last slice for 16 lanes, the first past it, and an index that is not U. -/
theorem witness_SliceWords : (blockTiles [tc32] 1).tileCheck 0 0 = none ∧ (tileBytes tc32 + 3) / 4 = 64 ∧ 3 * 16 < 64 ∧ ¬ 4 * 16 < 64 ∧
    ((blockTiles [tc32] 1).tile 0 0).poison = false ∧ (cxTiles [tc32] 1).allU [0] = true ∧ (cxTiles [tc32] 1).allU [3] = false ∧ (warpOf rs0 id).rb = [] := by decide

/-- TileTransfers: a good tile whose eight rows of 32 bytes stand at a mapped base with a stride of 32; a bad tile; a base and a stride out of step. -/
def rsTile : List RVal := [.u 32, .u 8, .u 0x18000, .u 0, .u 0x18008, .u 0, .u 0, .u 0x100000]
def cxTile : Cx := cxOf (machOf (blockOf (warpOf rsTile id) fun b => { b with sides := b.sides.map fun s => { s with tctl := [tc32] } }))
  (blockOf (warpOf rsTile id) fun b => { b with sides := b.sides.map fun s => { s with tctl := [tc32] } }) (warpOf rsTile id) 1

theorem witness_TileTransfers : Runs cxTile.s h cxTile ∧ cxTile.b.tileCheck 0 0 = none ∧ cxTile.b.tileCheck 0 1 = some 2 ∧ rowBytes tc32 = 32 ∧
    ((cxTile.pair 2 0).toNat % 16 = 0 ∧ (cxTile.lane 0 0).toNat = 32 ∧ (cxTile.lane 1 0).toNat % 16 ≠ 0 ∧ (cxTile.pair 4 0).toNat % 16 ≠ 0 ∧
      2 ^ 52 ≤ (cxTile.pair 6 0).toNat) ∧
    goes ((validRows tc32 8).map fun r => cxTile.checkGlob 0 (0x18000 + r * 32) 1 { r := true, w := true, x := false }) = true ∧
    (cxTile.s.m.settle 0 0 1 1 []).2 = true ∧ cxTile.b.paired = false ∧ (cxTile.b.tile 0 0).poison = false ∧
    cxTile.s.m.inFlight cxTile.b 0x18000 32 = false ∧ (cxTile.s.m.tileParts cxTile.b [(0x18000, 0x18000, 32)]).2 = [] ∧
    cxTile.b.checked = false ∧ cxTile.b.rels = [] := by
  refine ⟨runs_of (machOf (blockOf (warpOf rsTile id) fun b => { b with sides := b.sides.map fun s => { s with tctl := [tc32] } })) _ _ 1 rfl rfl (by decide) (by decide) (by decide), ?_⟩
  decide

/-- TileTransfers: a paired block whose two tiles have one TCTL, for TLD.pair. -/
def blockPair : Block := blockOf (warpOf rsTile id) fun b => { b with sides := (b.sides ++ b.sides).map fun s => { s with tctl := [tc32] } }

theorem witness_TileTransfers_pair : blockPair.paired = true ∧ (warpOf rsTile id).side = 0 ∧ blockPair.tctl 1 0 = blockPair.tctl 0 0 ∧ blockPair.tileCheck 0 0 = none := by
  decide

/-- FrontEndWords: a version at the context's and one past it; a descriptor at a mapped aligned address with the highest channel mask; a misaligned one and the first mask past it. -/
def rsLaunch : List RVal := [.u 1, .u 2, .u 0x18000, .u 0, .u 0x18040, .u 0, .u 3, .u 4]
def cxLaunch : Cx := cxOf (machOf (blockOf (warpOf rsLaunch id) id)) (blockOf (warpOf rsLaunch id) id) (warpOf rsLaunch id) 1

theorem witness_FrontEndWords : Runs cxLaunch.s h cxLaunch ∧ ((cxLaunch.is.base.ctx? cxLaunch.b.ctx).map fun k => k.mapver) = some 1 ∧
    (cxLaunch.lane 0 0).toNat = 1 ∧ (cxLaunch.lane 1 0).toNat = 2 ∧ cxLaunch.allU (pairRegs 2 ++ [6]) = true ∧ (cxLaunch.pair 2 0).toNat % 128 = 0 ∧
    (cxLaunch.pair 4 0).toNat % 128 ≠ 0 ∧ (cxLaunch.lane 6 0).toNat + 1 = 2 ^ min cxLaunch.b.nchan 16 ∧ (cxLaunch.lane 7 0).toNat = 2 ^ min cxLaunch.b.nchan 16 ∧
    goes [(cxLaunch.is.base.updBlock 0 fun b => b.release 0 2).checkOne 0 { lane := 0, va := 0x18000, size := 128, need := { r := true, w := false, x := false } }] = true ∧
    cxLaunch.s.m.deviceGrids 0 < 4096 ∧ cxLaunch.s.m.poison = [] ∧ keyPkg 0x18000 = cxLaunch.s.m.rmap.pkg ∧
    cxLaunch.s.m.accInFlight cxLaunch.b { lane := 0, va := 0x18000, loc := .glob 0x18000, size := 128, ops := [] } = false := by
  refine ⟨runs_of (machOf (blockOf (warpOf rsLaunch id) id)) _ _ 1 rfl rfl (by decide) (by decide) (by decide), ?_⟩
  decide


/-! ### Witnesses for the package's events -/

/-- A package of one live die, with every link, plane and port live. -/
def rmap1 : ResMap :=
  { m0.rmap with
    links := List.replicate 26 { state := 1, modmask := 0xFF, width := 64, replays := 0, bdp := 0x10000 }
    planes := [(1, 256), (1, 256)]
    ports := List.replicate 44 { state := 1, ver := 1, peerPkg := 1, peerPort := 0 } }
def packet3 : Packet :=
  { id := 9, blk := 0, strm := { die := 0, core := 0, slot := 0, ch := 1, dpkg := 1, ddie := 0 }, seq := 0, mark := 0, epoch := 0, start := false, first := 1,
    op := .store 0 0x18000 [(0, 7)], tags := [], route := [(3, true)], port := some 43, sentAt := 0 }
/-- On link 3: 65 replays to die 0, a packet under way, and silence since 1,000 cycles ago. -/
def mNet : Mach :=
  { m0 with rmap := rmap1, links := modAt m0.links 3 fun k => { k with reps := List.replicate 65 (0, 2), quiet := some 2 }, chanReq := [(0, 5, true)],
            net := [packet3], retain := [packet3], clock := 1002 }
def last : Mach := { mNet with rmap := { rmap1 with ver := 2 ^ 32 - 1 } }
def ctxLate : Ctx := { installCtx with mapver := 2, events := [(2, 1, 0)] }

/-- MapEvents: a version with room and the last one; live components of each kind, at the ends of their ranges; a link over its replay bound, and silent for 1,000 cycles while it owes flits; a history with no event of this cycle; a remap in progress; an overdue context; a cap change; and a due token period at, below and above the temperature limit. -/
theorem witness_MapEvents : (mNet.bootState ≠ 3 ∧ 0 < mNet.rmap.ver ∧ mNet.rmap.ver < 2 ^ 32 - 1) ∧ last.rmap.ver = 2 ^ 32 - 1 ∧
    (mNet.rmap.dies[0]? = some installDie ∧ installDie.cores.testBit 0 = true ∧ installDie.cores.testBit 19 = true ∧ installDie.slices.testBit 15 = true ∧
      installDie.channels.testBit 31 = true ∧ installDie.state = 1) ∧
    ((0, 5, true) ∈ mNet.chanReq ∧ mNet.cmds = [] ∧ ∀ q ∈ mNet.chanReq, ¬(q.1 = 0 ∧ q.2.1 = 31)) ∧
    (mNet.rmap.linkState 0 ≠ 0 ∧ mNet.rmap.linkState 25 ≠ 0 ∧ mNet.rmap.linkState 3 = 1 ∧ ((mNet.links[3]?).map fun k =>
        decide (64 < (k.reps.filter fun r => r.1 == 0 && decide (mNet.clock < r.2 + 1000000)).length) && k.quiet == some 2) = some true ∧
      mNet.owes 3 = true ∧ 2 + 1000 ≤ mNet.clock ∧ ∀ e ∈ mNet.rmap.hist, e.time ≠ mNet.clock) ∧
    ((mNet.blocks.map fun b => b.id).Nodup ∧ ∀ b ∈ mNet.blocks, b.place = .placed ∧ ∃ c ∈ mNet.ctxs, c.id = b.ctx) ∧
    ((mNet.rmap.planes.getD 1 (0, 0)).1 ≠ 0 ∧ ((mNet.rmap.ports[43]?).map fun p => p.state) = some 1) ∧
    (min (min mNet.hostCap 2400) 2400 = mNet.rmap.limit ∧ min (min mNet.hostCap 2399) 2400 ≠ mNet.rmap.limit) ∧
    ctxLate.overdue 2000000 = false ∧ ctxLate.overdue 2000001 = true ∧
    (({ mNet with clock := 256 } : Mach).clock % 256 = 0 ∧ mNet.period < 256 / 256) := by decide

/-- A grid of 17 blocks: not yet validated; dealt to die 0 of two; and done. -/
def gridNew : Grid := { installGrid with num := 2, valid := false, desc := { installDesc with nx := 17 }, raw := List.replicate 128 0 }
def gridDealt : Grid := { gridNew with valid := true, dies := [0, 1], chunks := [(0, [1, 2]), (0, [8]), (0, [16])], left := 17, total := 17 }
def gridOver : Grid := { gridNew with valid := true, dies := [0] }
def mGrid (g : Grid) : Mach := { m0 with grids := [g], blocks := [], ctxs := [{ installCtx with lslots := 2 }], rmap := { rmap1 with dies := [installDie, installDie] } }
def cmd0 : Cmd := { q := 0, seq := 0, raw := [0, 0, 0, 0, 1], started := true, tlNum := 0, wait := [], pos := 1 }

/-- GridEvents: a grid to validate that passes, and one that fails; a block to place; a die that steals; and a grid that is over, with a command and without. -/
theorem witness_GridEvents : ((mGrid gridNew).grids.find? fun g => !g.valid && g.failed.isNone && !g.killed && !g.complete) = some gridNew ∧
    ((mGrid gridNew).launchFault { gridNew with desc := { gridNew.desc with isareq := 0 } }).isSome = true ∧ (mGrid gridNew).launchFault gridNew = none ∧
    ((mGrid gridDealt).restoreReady 0 = [] ∧ (mGrid gridDealt).servedGrids 0 = [gridDealt] ∧ (mGrid gridDealt).nextOf gridDealt 0 = some (.fresh 1) ∧
      gridDealt.desc.coop = false ∧ (mGrid gridDealt).freeSlot 0 = some 0 ∧
      (mGrid gridDealt).spots 0 0 false gridDealt.desc.asks (fun _ => false) ≠ []) ∧
    ((mGrid gridDealt).mayPlace gridDealt = true ∧ (mGrid gridDealt).dieLive 1 = true ∧ (mGrid gridDealt).stealFrom gridDealt 1 = some (0, 2)) ∧
    ((mGrid gridOver).grid? 2 = some gridOver ∧ (mGrid gridOver).gridDone gridOver = true ∧ gridOver.cmd = none) ∧
    ([cmd0].find? fun c => c.q == 0 && c.seq == 0) = some cmd0 := by decide

/-- The machine with chosen block, warps and context, whose local and save areas are mapped: the 32 MiB at 0x2000000. -/
def ctxBig : Ctx := { installCtx with locbase := 0x2000000, csabase := 0x3000000 }
def memBig : Memory := m0.mem.setCells (cellsFrom 0x102008 (leBytes 8 0x20000003F))
def machBig (b : Block) : Mach := { m0 with blocks := [b], ctxs := [ctxBig], mem := memBig }
def watch (t : Nat) (x : Bool) : Warp := warpOf rs0 fun w => { w with lanes := w.lanes.map fun l => { l with run := .watching t [8] x } }
def pathOld : Warp := warpOf rs0 fun w => { w with paths := w.paths.map fun p => { p with age := 256 } }
def waiting (n : Nat) : Mach := machOf (blockOf (warpOf rs0 fun w => { w with waitCnt := n }) id)

/-- SchedulerEvents: a warp that has waited 512 cycles, and one that has waited 511; a path of age 256; a watch woken, and one whose time is up; -/
theorem witness_SchedulerEvents_warps : (waiting 512).exchangeWarp 0 = some (0, 0) ∧ (waiting 511).exchangeWarp 0 = none ∧
    (∃ p ∈ pathOld.paths, 256 ≤ p.age ∧ p.aged = false) ∧ ((watch 5 true).lane 3).run = .watching 5 [8] true ∧
    ((watch 2 false).pathOf 3).getLsbD 3 = true ∧ 3 < (watch 2 false).lanes.length ∧ 2 ≤ m0.clock := by decide

/-- a core whose active bank is empty beside a ready Anteroom, and one whose swap is over; -/
def blockBack : Block := blockOf (warpOf rs0 id) fun b => { b with sides := b.sides.map fun s => { s with bank := 1, slot := 32 } }
def machSwap (t : Option Nat) : Mach := { machOf blockBack with cores := modAt m0.cores 0 fun k => { k with swapEnd := t } }

theorem witness_SchedulerEvents_swap : (machSwap none).swapDue unitGate 0 = true ∧ ((machSwap (some 2)).core 0).swapEnd = some 2 := by decide

/-- a core that ends a swap during which a block of a higher priority came into its Anteroom; -/
def blockHigh : Block := { blockBack with id := 1, grid := 2, ctx := 1 }
def machAgain : Mach :=
  { m0 with blocks := [blockOf (warpOf rs0 id) id, blockHigh], grids := [installGrid, { installGrid with num := 2, desc := { installDesc with priority := 1 } }],
            cores := modAt m0.cores 0 fun k => { k with swapEnd := some 2, again := true } }

theorem witness_SchedulerEvents_again : (machAgain.core 0).again = true ∧ machAgain.inBank 0 (machAgain.core 0).active ≠ [] ∧
    machAgain.bankPriority 0 (machAgain.core 0).active < machAgain.bankPriority 0 (1 - (machAgain.core 0).active) := by decide

/-- a block being saved while an array word of it runs, and one whose header and record are mapped; and a saved block that fits again. -/
def blockGoing : Block := blockOf (warpOf rs0 id) fun b => { b with stopped := true }
def blockSaved : Block := blockOf (warpOf rs0 id) fun b => { b with place := .saved }
def busy : Mach := { machMx { run0 with iter := none, seq := none } with blocks := [blockGoing] }

theorem witness_SchedulerEvents_save : (busy.freeze 0).mxQuiet blockGoing = false ∧ ((machBig blockGoing).freeze 0).mxQuiet blockGoing = true ∧
    ((((machBig blockGoing).freeze 0).quiesce 0).block? 0).any (fun b => b.copies.isEmpty && b.place == .placed &&
      ((((machBig blockGoing).freeze 0).quiesce 0).headerOpen b.die b.ctx).2 &&
      (((((machBig blockGoing).freeze 0).quiesce 0).headerOpen b.die b.ctx).1.recordOpen b { r := false, w := true, x := false }).2) = true ∧
    (machBig blockSaved).restorable blockSaved = true ∧ (machBig blockSaved).restoreSpots blockSaved ≠ [] ∧
    (((machBig blockSaved).restoreSpots blockSaved).head?.any fun spot =>
      ((((machBig blockSaved).reserve blockSaved spot).block? 0).any fun x =>
        (((machBig blockSaved).reserve blockSaved spot).recordOpen x { r := true, w := false, x := false }).2)) = true := by decide

def ent0 : Entry :=
  { seq := 0, word := 0x1D884080, pfx := 0, pc := ⟨0, 0⟩, exec := 1, live := 0xFFFF, dests := [.reg 2 0 0xFFFFFFFF], pend := .value, acq := false, waits := [],
    done := false, vals := [.u 1], fail := 0, polls := [], fault := none, held := false }
def pends : List Pend :=
  [.value, .tfirst 3, .sample 0x020, .load 0 false false [{ lane := 0, va := 0x18000, loc := .glob 0x18000, size := 1, ops := [] }] [],
    .atom 0 [{ lane := 0, va := 0x18000, loc := .glob 0x18000, size := 4, ops := [1] }]]
def warpEnt (p : Pend) : Warp := warpOf rs0 fun w => { w with rb := [{ ent0 with pend := p }], nextSeq := 1 }
def copy0 : Copy := { tag := 3, kind := 0, side := 0, dst := 0, src := [(0x18000, 0x18000, 16)], into := [], pos := 0, bad := [] }
def blockCopy : Block := blockOf (warpOf rs0 id) fun b => { b with ready := 7, copies := [copy0] }
def freed : SbEnt := { entry0 with released := true }

/-- WarpEvents: an entry of each kind that is still to be filled, a released entry of the buffer with nothing before it, and a copy whose source nothing is on its way to; -/
theorem witness_WarpEvents_results : (∀ p ∈ pends, ((warpEnt p).rb.find? fun e => e.seq == 0 && !e.done) = some { ent0 with pend := p }) ∧
    ((blockSb 16 [freed]).sb.find? fun e => e.seq == 0) = some freed ∧ (machOf (blockSb 16 [freed])).onDie (blockSb 16 [freed]) 0x18000 = true ∧
    (blockSb 16 [freed]).rels = [] ∧ copy0 ∈ blockCopy.copies ∧ (machOf blockCopy).copyReady blockCopy 3 = true := by decide

/-- a frame that is no lane's, in a bank whose Cellar conditions have held for 64 cycles and whose head request does not fit; that frame being spilled, and being filled for the lanes that wait for it; -/
def warpTwo (back : Bool) : Warp := warpOf rs0 fun w =>
  { w with frames := w.frames ++ [{ leafFrame with members := 0xFFFF, resident := !back }]
           lanes := if back then w.lanes.map (fun l => { l with fid := 1, run := .fill }) else w.lanes }
def blockTwo (back : Bool) : Block := blockOf (warpTwo back) id
def machTwo (back : Bool) (f : Bank → Bank) : Mach :=
  { machBig (blockTwo back) with clock := 66, cores := modAt m0.cores 0 fun k => { k with banks := modAt k.banks 0 f } }
def req0 : AllocReq := { kind := 1, blk := 0, warp := 0, lanes := 1, fid := 0, lines := 6145, age := 0 }
def fill0 : AllocReq := { req0 with kind := 0, fid := 1, lines := 8 }

theorem witness_WarpEvents_cellar :
    (let m := machTwo false fun k => { k with since := some 2, queue := [req0] }
     ((m.core 0).bank (m.core 0).active).cellar = false ∧ m.freeLines 0 0 < req0.lines ∧ m.spillChoice 0 = some (0, 0, 1)) ∧
    ((machTwo false fun k => { k with spill := some (0, 0, 1) }).slotsOpen (blockTwo false) (warpTwo false) { leafFrame with members := 0xFFFF }
      { r := false, w := true, x := false }).2.isSome = true ∧
    ((machTwo true fun k => { k with fills := [fill0] }).slotsOpen (blockTwo true) (warpTwo true) { leafFrame with members := 0xFFFF }
      { r := true, w := false, x := false }).2.isSome = true ∧
    ((warpTwo true).frame? 1).map (fun f => f.clob) = some 0 ∧
    (let m := machTwo false fun k => { k with claims := [(2, req0)] }
     ((m.core 0).bank (m.core 0).active).claims = [(2, req0)] ∧ 2 ≤ m.clock) ∧
    (warpTwo true).spillable { leafFrame with members := 0xFFFF, resident := false } = false ∧
    (warpTwo false).spillable { leafFrame with members := 0xFFFF } = true ∧
    (let m := machTwo false fun k => { k with spill := some (0, 0, 1) }
     m.slotBusy (blockTwo false) (m.slotKeys (blockTwo false) (warpTwo false) { leafFrame with members := 0xFFFF }) = false) := by decide

/-- and a parked lane whose record was answered, and one whose record was refused. -/
def fault0 (a : Option Bool) : FaultRec :=
  { die := 0, seq := 0, va := 0x20000, ctx := 0, access := 1, place := 0, waiters := 1, mapver := 1, time := 0, answer := a }
def wait3 : PageWait := { lane := 3, die := 0, seq := 0, va := 0x20000 }
def parked : Warp := warpOf rs0 fun w => { w with lanes := w.lanes.map fun l => { l with run := .parked .replay [wait3] } }
def machFault (a : Bool) : Mach := { machOf (blockOf parked id) with faults := [fault0 (some a)] }

theorem witness_WarpEvents_replay : (parked.lane 3).run = .parked .replay [wait3] ∧ wait3.lane = 3 ∧ (parked.pathOf 3).getLsbD 3 = true ∧
    (machFault false).answerOf 0 0 = some false ∧ (machFault true).answerOf 0 0 = some true := by decide

/-- ErrorEvents: the first and last byte of a die's memory; a block in checked mode, one with nothing sealed and no rollback, and a sealed one; a range that is backed, and an address that is not. -/
theorem witness_ErrorEvents : (∀ pa ∈ [0, 2 ^ 36 - 1], pa < 2 ^ 39 ∧ pa % 2 ^ 36 < installDie.capacity ∧ m0.rmap.dies[pa / 2 ^ 36]? = some installDie) ∧
    (b0.place = .placed ∧ b0.sealed = false ∧ b0.rolls < 3) ∧ m0.backed 0 = true ∧ m0.backed (0 + 8 - 1) = true ∧ m0.poison = [] ∧ m0.mem.wf = true ∧
    m0.backed (2 ^ 36) = false ∧ 2 ^ 36 < hostBase := by decide

/-- The TCTL of one row of four f32, and a machine whose array runs a MITER NS on tile 0, whose first element is x, at step n of its iteration, with a cap. -/
def tcRow : Word := 0x80000C01
def tileWith (x : Nat) : Block :=
  blockOf (warpOf rs0 id) fun b =>
    { b with sides := (b.sides.map fun s =>
               { s with eng := { s.eng with mitstat := 0x80005000, owner := some (0, ⟨0, 0⟩) }, tctl := [tcRow], tiles := modAt s.tiles 0 fun t => { t with bytes := Memory.setCells [] (cellsFrom 0 (leBytes 4 x)) } }) }
def runAt (n cap : Nat) : MxRun := { run0 with iter := some { iter0 with step := n, cap := cap, tctl := tcRow } }
def machIter (x n cap : Nat) (g : Nat) : Mach :=
  { machOf (tileWith x) with cores := modAt m0.cores 0 fun k => { k with mx := some (runAt n cap), grains := g } }
def nsOf (x : Nat) : List (List Nat) × Bool × FV :=
  let b := (tileWith x).atStart 0 { iter0 with tctl := tcRow }
  let y := miterStep 0 f32 (mmaG 1) 4 0 (b.mat 0 0 false tcRow 0) (b.mat 0 0 false tcRow 0) []
  (y.1.bits f32, y.1.finite, f64.value (residual y.1 (b.mat 0 0 false tcRow 0)).1)

set_option exponentiation.threshold 5000 in
/-- ArrayEvents: a word over with an entry and without; a MITER with a step to charge, with the grains for it and without; an iteration whose result is not finite (from a NaN), one that converges at tolerance 0 (from zeros), and one that does not (from 2), at its cap and below it; with that result an exponent of 127 in MITDIV makes it diverge, and a count of 1 is reached by its first rise above 0. -/
theorem witness_ArrayEvents : (run0.endAt ≤ m0.clock ∧ run0.follower = false ∧ (runAt 0 1).iter.isSome = true ∧ (tileWith 0).place = .placed ∧
      ({ run0 with iter := none } : MxRun).charged (tileWith 0) = true ∧ ({ run0 with iter := none } : MxRun).miter = false ∧ (runAt 5 1).charged (tileWith 0) = true) ∧
    (((runAt 0 1).iter.map fun i => ((i.op.steps ((tileWith 0).atStart 0 i) 0).length, (i.op.chargeAt ((tileWith 0).atStart 0 i) 0 0 0).1)).any fun p =>
      p.1 == 5 && decide (0 < p.2) && decide (p.2 ≤ ((machIter 0 0 1 4096).core 0).grains) && decide (((machIter 0 0 1 0).core 0).grains < p.2)) = true ∧
    (nsOf 0x7FC00000).2.1 = false ∧ (nsOf 0).2.1 = true ∧ above (nsOf 0).2.2 (f32.value 0) = false ∧
    (nsOf 0x40000000).2.1 = true ∧ above (nsOf 0x40000000).2.2 (f32.value 0) = true ∧ iter0.div = 0x0000FF00 ∧ iter0.cap ≤ 0 + 1 ∧
    (above (nsOf 0x40000000).2.2 (.fin false 1 (((0x00007F00 : Word).toNat / 256 % 256 : Nat) - 127 : Int)) = true ∧ (0x00007F00 : Word).toNat / 256 % 256 ≠ 255) ∧
    (above (nsOf 0x40000000).2.2 (f64.value ((tileWith 0).side 0).eng.mitres.toNat) = true ∧ (0x0000FF01 : Word).toNat % 256 ≤ 0 + 1) := by decide

/-- Two dies with every link, plane and port live but die 1's link to plane 1; a store on channel 1 of the block to die 1, and its packet, stream context and acknowledgement. -/
def mTwo : Mach := { m0 with rmap := { rmap1 with dies := [installDie, installDie], links := modAt rmap1.links 9 fun (e : LinkEnt) => { e with state := 0 } } }
def chEnt0 : ChEnt :=
  { ord := 0, first := 1, last := 1, dpkg := 0, ddie := 1, op := .store (2 ^ 36 / 128) 0x18000 [(2 ^ 36, 7)], hold := some 2, waits := [], src := none }
def blockSend : Block := blockOf (warpOf rs0 id) fun b => { b with chans := modAt b.chans 1 fun c => { c with queue := [chEnt0], issued := 1 } }
def strm0 : Strm := { die := 0, core := 0, slot := 0, ch := 1, dpkg := 0, ddie := 1 }
def pkt0 (n : Nat) (start : Bool) : Packet :=
  { id := 7, blk := 0, strm := strm0, seq := n, mark := 0, epoch := 0, start := start, first := 1, op := chEnt0.op, tags := [], route := [(0, true), (1, false)],
    port := none, sentAt := 0 }
def esc0 (n : Nat) : EscCtx := { strm := strm0, blk := 0, epoch := 0, mark := 0, next := n, began := true, waiting := [], idleAt := 5 }
def dest0 (next ack : Nat) (retry : Option Nat) : DestEnt :=
  { valid := true, start := false, pkg := 0, die := 1, next := next, ack := ack, lastUse := 1, mark := 0, retryAt := retry }
def blockDest (next ack : Nat) (retry : Option Nat) : Block :=
  blockOf (warpOf rs0 id) fun b => { b with chans := modAt b.chans 1 fun c => { c with dests := c.dests.set 0 (dest0 next ack retry), issued := 1 } }

/-- ChannelEvents: an entry that goes out to a live die; a packet one place behind its stream, 256 places behind across the wrap, and the next one; a stream acknowledgement that moves its channel on, with a packet it covers and one it does not; a retained START whose entry's retry is due; a stream context idle for 65,536 cycles; and a packet unacknowledged for 100,000. -/
theorem witness_ChannelEvents :
    ((match ({ mTwo with blocks := [blockSend] } : Mach).sendStep blockSend 1 with | .packet x d _ _ _ _ _ => x == chEnt0 && d == (0, 1) | _ => false) = true ∧
      mTwo.reachable 0 0 1 = true) ∧
    ((1 ≤ (5 + 65536 - (pkt0 4 false).seq) % 65536 ∧ (5 + 65536 - (pkt0 4 false).seq) % 65536 ≤ 256) ∧
      (5 + 65536 - (pkt0 65285 false).seq) % 65536 = 256 ∧ (pkt0 5 false).seq = (esc0 5).next ∧ (esc0 5).strm = (pkt0 5 false).strm ∧ (esc0 5).epoch = (pkt0 5 false).epoch ∧ (pkt0 5 false).tags = [] ∧
      ({ mTwo with net := [pkt0 5 false] } : Mach).netAt 7 = some (pkt0 5 false)) ∧
    (({ mTwo with blocks := [blockDest 6 4 none] } : Mach).ackMove 0 strm0 0 5 = some (0, 4, 5) ∧ seqBelow 4 5 4 = true ∧ seqBelow 4 5 5 = false ∧
      (pkt0 4 false).isAtom = false ∧ (blockDest 6 4 none).place = .placed ∧ (blockDest 6 4 none).stopped = false ∧ ({ mTwo with acks := [.upto 0 strm0 0 5 none] } : Mach).ackReady 0 = true) ∧
    (dest0 1 0 (some 2) ∈ ((blockDest 1 0 (some 2)).chan 1).dests ∧ (pkt0 0 true).start = true ∧ 2 ≤ mTwo.clock ∧ (mTwo.routeFor 9 0 0 1).isSome = true) ∧
    ((esc0 5).idleAt + 65536 ≤ 65541 ∧ 65540 < (esc0 5).idleAt + 65536) ∧ (pkt0 4 false).sentAt + 100000 ≤ 100000 := by decide

/-- Fabric: a live link, and one with a data flit that has failed once and seven times; a suspect line and a line to ask again at their time; a lost link; a pair in each state with streams, of which the first is awaited. -/
def dir0 : DirEnt := { line := 3, peer := some 1, suspect := some 2, ackAt := 10000, reissue := some 2 }
def failing (j : Nat) : LinkRun := { LinkRun.empty with dirB := { LinkDir.empty with fails := [(.data 1024, j)] } }
def pair0 (st : Nat) : Pair := { src := 0, dst := 1, st := st, since := 0, got := [] }
def strm1 : Strm := { strm0 with ch := 0 }
def mPair (st : Nat) : Mach := { mTwo with pairs := [pair0 st], retain := [pkt0 5 false, { pkt0 0 true with strm := strm1 }], esc := [esc0 5] }
def mOne : Mach := { mTwo with pairs := [pair0 2], retain := [pkt0 5 false], esc := [esc0 5] }
def con0 : Contrib :=
  { id := 3, blk := 0, ch := 1, first := 1, die := 0, op := 0, desc := 0x00070001_02000005, v := 9, warp := 0, seq := 0, lane := 0, sentAt := 0 }
def slotOpen : RSlot :=
  { state := 1, op := 0, gen := 7, count := 2, opened := 0, deadline := 1, got := [(0, con0)], result := 0, status := 0, freeAt := 0 }
def slotDone : RSlot := { slotOpen with state := 2, freeAt := 2 }
def mSlot (k : RSlot) : Mach := { mTwo with slots := [modAt (mTwo.slots.getD 0 []) 255 (fun _ => k), mTwo.slots.getD 1 []] }

theorem witness_FabricEvents :
    (mTwo.rmap.linkState 25 ≠ 0 ∧ (mTwo.rmap.links[25]?).isSome = true ∧ (mTwo.links[25]?).isSome = true ∧
      (∀ j ∈ [1, 7], (modAt mTwo.links 25 fun _ => failing j)[25]? = some (failing j) ∧ ((failing j).dir true).failing (.data 1024) = j + 1)) ∧
    (dir0.suspect = some 2 ∧ 2 ≤ mTwo.clock) ∧ (0 < [1, 0, 0, 0, 0, 0, 0, 3].sum ∧ [1, 0, 0, 0, 0, 0, 0, 3].length = 8) ∧
    ((List.replicate 8 65536).sum ≤ 524288 ∧ (List.replicate 8 65536).length = 8) ∧ (4, 1, 0) ∈ ({ mTwo with mgmt := [(4, 1, 0)] } : Mach).mgmt ∧ ((mTwo.feRoute 7).isSome = true ∧ mTwo.linkUp 23 = true) ∧
    ((mPair 2).pairStreams 0 1 = [(strm0, 0, 0), (strm1, 0, 0)] ∧ strm1 ≠ strm0 ∧ (mPair 2).reachable 0 (1 / 16) (1 % 16) = true ∧
      (pair0 2).since + 100000 ≤ 100000 ∧ (esc0 5).began = true) ∧
    (mOne.pairStreams 0 1 = [(strm0, 0, 0)] ∧ strm0.ddie < 16 ∧ mOne.reachable 0 (1 / 16) (1 % 16) = true ∧ ((pkt0 5 false).seq + 65535 - 4) % 65536 < 32768) ∧
    (con0.desc.toNat / 2 ^ 8 % 2 = 0 ∧ con0.desc.toNat % 2 ^ 8 = 5 ∧ 1 < con0.desc.toNat / 2 ^ 24 % 128 ∧ mTwo.planeRoute 0 0 = true ∧ (mTwo.slot 0 5).state = 0 ∧
      mTwo.slots.length = 2 ∧ (∀ l ∈ mTwo.slots, l.length = 256) ∧ ({ mTwo with contribs := [con0] } : Mach).conReady 0 = true) ∧
    (((mSlot slotOpen).slot 0 255).state = 1 ∧ ((mSlot slotOpen).slot 0 255).deadline < 2 ∧ (((mSlot slotOpen).slots.getD 0 [])).length = 256) ∧
    (((mSlot slotDone).slot 0 255).state = 2 ∧ ((mSlot slotDone).slot 0 255).freeAt ≤ 2) := by decide

/-- A queue of 64 commands at each end of its range, and rings, timelines and logs as HostWindow takes them. -/
def q0 : Queue :=
  { Queue.empty with logs := 6, enable := true, ver := 16, cmdbase := 0x1000, cplbase := 0x2000, lastacc := 4294967295, lastcomp := 4294967295 }
def mQueue (q : Queue) : Mach := { m0 with queues := m0.queues.set 0 q }

/-- HostWindow: a doorbell one, 64 and 65 commands ahead; queues that may be enabled, of the smallest and largest size and the administrative context, and one too small; a held completion with room; a ring with nothing held; an odd register write; a finished number; a drained log. -/
theorem witness_HostWindow : ((mQueue q0).queue 0).enable = true ∧ (mQueue q0).bootState = 2 ∧
    ((1 + 2 ^ 32 - q0.nextexp) % 2 ^ 32 = 1 ∧ (64 + 2 ^ 32 - q0.nextexp) % 2 ^ 32 ≤ 2 ^ q0.logs ∧ 2 ^ q0.logs < (65 + 2 ^ 32 - q0.nextexp) % 2 ^ 32) ∧
    (∀ k ∈ [{ q0 with enable := false }, { q0 with enable := false, logs := 16, ctx := 63 }, { q0 with enable := false, ctx := 0xFF }],
      k.enable = false ∧ k.lastcomp = k.lastacc ∧ 6 ≤ k.logs ∧ k.logs ≤ 16 ∧ k.cmdbase % 4096 = 0 ∧ k.cplbase % 4096 = 0 ∧ (k.ctx < 64 ∨ k.ctx = 0xFF) ∧ 16 ≤ k.ver) ∧
    ({ q0 with logs := 5 } : Queue).logs < 6 ∧
    (((mQueue { q0 with held := [[]], cplcount := 64 }).queue 0).held = [] :: [] ∧ (64 + 2 ^ 32 - 1 % 2 ^ 32) % 2 ^ 32 < 2 ^ q0.logs) ∧
    ((m0.rings[2]?).map fun r => r.held.isEmpty && r.notes.isEmpty) = some true ∧ (3 ≠ 4 ∧ 3 ≠ 8) ∧ (0x14 % 8 ≠ 0) ∧
    (m0.ctx? 0 = some installCtx ∧ (installCtx.tls[31]?).isSome = true) ∧ (m0.logs[8]?).isSome = true ∧
    (fieldAt (List.replicate 64 0) 0x0E 1).testBit 0 = false := by decide

/-- CommandCompletion: a command of a queue with room and nothing held. -/
theorem witness_CommandCompletion : cmd0.q < (mQueue q0).queues.length ∧ cmd0.tlNum = 0 ∧ ((mQueue q0).queue cmd0.q).held = [] ∧
    ((mQueue q0).queue cmd0.q).cplcount = ((mQueue q0).queue cmd0.q).cplhead ∧ 6 ≤ ((mQueue q0).queue cmd0.q).logs := by decide

/-- A command of queue 0 with an opcode and fields of n bytes at offsets, and a machine that holds it. -/
def cmdOf (op : Nat) (fs : List (Nat × Nat × Nat)) (started : Bool) (pos : Nat) : Cmd :=
  { cmd0 with raw := fs.foldl (fun r f => r.take f.1 ++ leBytes f.2.1 f.2.2 ++ r.drop (f.1 + f.2.1)) ([BitVec.ofNat 8 op] ++ zeros 63), started := started, pos := pos }
def mCmd (ctx : Nat) (c : Cmd) : Mach := { mQueue { q0 with ctx := ctx } with cmds := [c] }
def turns (c : Cmd) (op : Nat) : Bool := ((mCmd 0 c).turnOf 0 op).head? == some c

/-- ContextCommands: each command with its context and without; LAUNCH and COPY of mapped addresses; a COPY with bytes left and one with none; a TLHOLD reached and not; a NETPOST of a queue pair that stands, and one already sent. -/
theorem witness_ContextCommands : (∀ op ∈ [1, 2, 3, 4, 5], turns (cmdOf op [] false 0) op = true) ∧ m0.cmdCtx { cmd0 with ctx := 5 } = 5 ∧ m0.ctx? 5 = none ∧
    (m0.ctx? 0).isSome = true ∧ ((cmdOf 1 [(0x10, 8, 0x18000)] false 0).f 0x10 8 = 0x18000 ∧
      (match m0.translate 0 0x18000 { r := true, w := false, x := false } with | .ok k _ _ _ => decide (keyPkg k = m0.rmap.pkg) | _ => false) = true) ∧
    (let c := cmdOf 2 [(0x10, 8, 0x10000), (0x18, 8, 0x18000), (0x20, 8, 1500)] true 1024
     turns c 2 = true ∧ c.pos < c.f 0x20 8 ∧ c.f 0x18 8 + c.pos = 0x18400 ∧ (cmdOf 2 [(0x20, 8, 1500)] true 1500).f 0x20 8 ≤ 1500 ∧
       m0.trFault false (m0.trPieces 0 (pagePieces 0x10400 476 2) { r := true, w := false, x := false }) = none ∧
       m0.trFault false (m0.trPieces 0 (pagePieces 0x18400 476 2) { r := false, w := true, x := false }) = none) ∧
    (m0.tlCount 0 31 = 0 ∧ (cmdOf 3 [(0x10, 1, 31), (0x18, 8, 1)] false 0).f 0x18 8 = 1) ∧
    (let c := cmdOf 4 [(0x10, 1, 2), (0x14, 4, 9), (0x18, 8, 0x18000), (0x20, 8, 0x5000), (0x2C, 4, 64)] false 0
     let m : Mach := { mCmd 0 c with qps := [{ ctx := 0, port := 2, qpn := 9, peer := 1, mtu := 4096, ip := [] }] }
     (∃ p ∈ m.qps, p.ctx = 0 ∧ p.port = c.f 0x10 1 ∧ p.qpn = c.f 0x14 4) ∧ c.f 0x18 8 + c.f 0x2C 4 ≤ 2 ^ 52 ∧
       m.trFault false (m.netTrs c).2 = none ∧ c.op = 0x04 ∧ c.f 0x11 1 ≠ 2) := by decide

/-- AdminCommands: each opcode at its turn, started and not; contexts that stand and do not; no enabled queue, grid or block of a context; an answered and a pending record; versions at and past the context's; a channel request; a grid that stands and none; a warp stopped at a breakpoint; keys installed and free; and slot bytes. -/
def stoppedWarp : Warp := warpOf rs0 fun w => { w with lanes := [{ (w.lane 0) with run := .stopped 4 }, w.lane 1] }
theorem witness_AdminCommands :
    (∀ op ∈ [0x20, 0x21, 0x22, 0x23, 0x24, 0x25, 0x26, 0x27, 0x28, 0x29, 0x2A, 0x2B, 0x2C, 0x2D, 0x2E, 0x2F, 0x30],
      turns (cmdOf op [] false 0) op = true ∧ turns (cmdOf op [] true 1) op = true) ∧ (cmdOf 0x20 [(0x10, 1, 63)] false 0).f 0x10 1 = 63 ∧
    (m0.ctx? 0).isSome = true ∧ m0.ctx? 63 = none ∧ (∀ k ∈ (mQueue { q0 with ctx := 1 }).queues, ¬(k.enable = true ∧ k.ctx = 0)) ∧
    (∀ g ∈ ({ m0 with grids := [{ installGrid with complete := true }] } : Mach).grids, g.ctx = 0 → g.complete = true) ∧
    (∀ b ∈ ({ m0 with blocks := [] } : Mach).blocks, b.ctx ≠ 0) ∧
    ((cmdOf 0x23 [(0x18, 1, 1)] false 0).f 0x18 1 = 1) ∧
    ([fault0 none].find? fun f => f.die == 0 && f.seq == 0 && f.answer.isNone) = some (fault0 none) ∧ (fault0 (some true)).answer ≠ none ∧
    (installCtx.mapver < (cmdOf 0x25 [(0x14, 4, 2)] false 0).f 0x14 4 ∧ (cmdOf 0x25 [(0x14, 4, 1)] false 0).f 0x14 4 = installCtx.mapver) ∧
    ((0, 5, false) ∈ ({ m0 with chanReq := [(0, 5, false)] } : Mach).chanReq ∧ (cmdOf 0x26 [(0x11, 1, 5)] false 0).f 0x11 1 = 5) ∧
    ((∃ g ∈ m0.grids, g.ctx = 0 ∧ g.num = 1 ∧ g.complete = false) ∧ (∀ g ∈ m0.grids, g.num ≠ 2)) ∧
    ((stoppedWarp.lane 0).run = .stopped 4 ∧ ∀ x ∈ stoppedWarp.lanes, x.run.stopFrameOf 4 = false) ∧
    (∀ b ∈ ({ m0 with blocks := [blockSaved] } : Mach).blocks, b.place ≠ .placed) ∧ ((m0.keyId 0).isSome = true ∧ m0.keyId 3 = none) ∧ (0 < m0.rmap.ver ∧ m0.rmap.ver < 2 ^ 32 - 1) := by decide


/-- A report of a package that answers everywhere. -/
def report : BootReport :=
  { feOk := true, imageOk := true, ident := some (3, 64),
    dies := List.replicate 11 { answers := true, kindOk := true, hwver := 1, serial := 2, cores := 0xFFFFF, slices := 0xFFFF, channels := 0xFFFFFFFF },
    links := List.replicate 26 { vers := [0x0100], trained := true, modmask := 0xFF }, ports := [], templim := 100, ratemax := 4096 }

/-- Favos n cycles on from the end of its step 0 over an accepted image (R332: which images are accepted rests on the fused hash, a free value), and after one that is refused. -/
def booting (r : BootReport) (n : Nat) : Mach :=
  (List.range n).foldl (fun m _ => m.favos) { Mach.reset with booting := some { r with imageOk := true }, bootStep := 1 }
def refusedImage : Mach := Mach.favos { Mach.reset with booting := some { report with imageOk := false } }

/-- ResetAndBoot: a package that boots, in its seventh cycle, and reports that fail at each test. -/
theorem witness_ResetAndBoot : (badIdent report.ident = false ∧ report.feOk = true) ∧
    ((booting report 5).bootState, (booting report 5).bootStep, (booting report 5).rmap.ver) = (1, 6, 0) ∧
    ((booting report 6).bootState, (booting report 6).rmap.ver) = (2, 1) ∧ badIdent (some (3, 65)) = true ∧ badIdent (some (3, 3)) = true ∧
    refusedImage.bootReason = 4 ∧ (booting { report with dies := [] } 6).bootReason = 2 := by decide

/-- The installed program with the word of NOP, or a prefix and IADD, at its start: what the machine picks is that group. -/
def mWords (ws : List Word) : Mach := Mach.balanceAll (m0.putCells (cellsFrom (m0.memKey 0x10000) (ws.flatMap wordBytes))) unitGate
def picked (ws : List Word) : Bool :=
  match (mWords ws).pick unitGate with
  | some p =>
    let pc := (p.w.lane (lowest p.first.1.lanes)).pc
    p.second.isNone && !p.w.queueFull && p.w.shadow.isNone && p.first.2 == .group (p.m.fetchGroup p.b.ctx p.b.entry pc) && pc == ⟨0, 0⟩ &&
      (match p.m.translate p.b.ctx p.b.entry { r := false, w := false, x := true } with | .ok key _ _ _ => p.m.memBytes key (4 * ws.length) == ws.flatMap wordBytes | _ => false)
  | none => false

/-- StepRunsInstruction: a word and a prefixed word that a core picks at an even clock, decode, do not chain and need not wait; a scheduled event; an event of the machine's own that is due. -/
theorem witness_StepRunsInstruction : m0.front.bind Front.under = none ∧ m0.clock % 2 = 0 ∧ m0.due = none ∧ picked [0x1C000000] = true ∧ picked [0x03F80001, 0x1CB86084] = true ∧
    (decodeWord 0x1C000000 none).toOption = some (.nop h) ∧ isPfx 0x1C000000 = false ∧ (0x1C000000 : Word).getLsbD 31 = false ∧
    isPfx 0x03F80001 = true ∧ (0x03F80001 : Word).extractLsb' 30 2 = 0 ∧ isHost (opOf 0x1CB86084) = true ∧ isPfx 0x1CB86084 = false ∧
    (decodeWord 0x1CB86084 (some (payloadOf 0x03F80001))).toOption = some (.iadd h 3 1 2 false (some 1)) ∧
    groupWaits w0 0xFFFF [{ instr := .iadd h 3 1 2 false (some 1), word := 0x1CB86084, pfx := 0x03F80001, pc := ⟨0, 1⟩ }] = false ∧
    (({ m0 with clock := 256 } : Mach).due = some (.tokenGrant 0)) := by decide +kernel

/-- RoundTrip: a well-formed word with operands at the ends of their ranges, and a prefix alone. -/
theorem witness_RoundTrip : (Instr.imad h 63 63 63 false (some 0x7F00)).wf = true ∧ (Instr.imad h 63 63 63 false (some 0x7F00)).word.isSome = true ∧
    (Instr.bra { c := true, w := false, gn := true, gp := 0 } 0x40000).wf = true := by decide

/-- GuardsAndExec: a word under a guard no lane meets. -/
theorem witness_GuardsAndExec : (cx rs0).is.exec (cx rs0).w { h with gp := 0 } = 0 ∧ (Instr.nop { h with gp := 0 }).word.isSome = true ∧
    (Instr.nop { h with gp := 0 }).word.all (fun w => hdrOf w == { h with gp := 0 } && !isPfx w) = true := by decide

/-- FormInvariant: the reset state and the demo state meet it, and a step goes on from each. -/
theorem witness_FormInvariant : FormKept State.reset ∧ FormKept { m := m0, iss := none, inputs := [] } ∧
    (match step { m := m0, iss := none, inputs := [] } with | .next t => t.iss.isNone | _ => false) = true := by
  unfold FormKept; decide

/-- R332, R334: the worked examples of FIPS 180-4 (SHA-384 of "abc") and FIPS 197 (AES-256). -/
theorem test_crypto : beNat (sha384 [0x61, 0x62, 0x63]) =
      0xcb00753f45a35e8bb5a03d699ac65007272c32ab0eded1631a8b605a43ff5bed8086072ba1e7cc2358baeca134c825a7 ∧
    beNat (aesEncrypt ((List.range 32).map (BitVec.ofNat 8)) ((List.range 16).map fun i => BitVec.ofNat 8 (17 * i))) = 0x8ea2b7ca516745bfeafc49904b496089 := by
  decide +kernel

end Sys2Proof.Tests
end

section
namespace Sys2Proof.Machine

/-! ### Memory stays in its canonical form (log entry 1)

Memory changes only in `Mach.putCells`, which keeps the form (`putCells_wf`), and in a return to a machine that a group under way
holds: the one its words read (R103), or the one a wait leaves (R101). The invariant therefore speaks of those machines too. One
lemma for each function of the model says that what it answers is in the form when what it is given is; a step's is `Keeps.cycle`. -/

variable {m : Mach} {c : Cx} {s : State}

/-- Memory is in its canonical form (log entry 1). -/
def Mach.Formed (m : Mach) : Prop := m.mem.wf = true

/-- Every machine a group under way holds is in its form: the one its words read (R103), and the one a wait leaves (R101). -/
structure Issue.Formed (i : Issue) : Prop where
  base : i.base.Formed
  wait : ∀ m, i.wait = some m → m.Formed

/-- The package is in its form, and so is what a group under way holds. -/
structure State.Formed (s : State) : Prop where
  m : s.m.Formed
  iss : ∀ i, s.iss = some i → i.Formed

/-- The state an encoded word works on, and the group it is of, are in their form. -/
structure Cx.Formed (c : Cx) : Prop where
  s : c.s.Formed
  is : c.is.Formed

/-- What a path that begins leaves, or the group it hands over to run, is in its form. -/
def Start.Formed : Start → Prop
  | .done m => m.Formed
  | .run m i _ => m.Formed ∧ i.Formed

/-- A machine that is offered, if any, is in its form. -/
def Offers (o : Option Mach) : Prop := ∀ m, o = some m → m.Formed

/-- A state that follows, if any, is in its form. -/
def Yields (o : Host.Outcome State Fault Refusal) : Prop := ∀ t, o = .next t → t.Formed

/-- A state that ends a step, if any, has its memory in its form and no group under way. -/
def Keeps (o : Host.Outcome State Fault Refusal) : Prop := ∀ t, o = .next t → FormKept t

/-! #### Folds and branches keep the form -/

theorem Mach.Formed.foldl {α : Type} {f : Mach → α → Mach} {l : List α} (step : ∀ m a, m.Formed → (f m a).Formed) (h : m.Formed) :
    (l.foldl f m).Formed := by
  induction l generalizing m with
  | nil => exact h
  | cons a l ih => exact ih (step m a h)

/-- A fold that carries a result beside the machine. -/
theorem Mach.Formed.foldl_fst {α β : Type} {f : Mach × β → α → Mach × β} {p : Mach × β} {l : List α}
    (step : ∀ p a, p.1.Formed → (f p a).1.Formed) (h : p.1.Formed) : (l.foldl f p).1.Formed := by
  induction l generalizing p with
  | nil => exact h
  | cons a l ih => exact ih (step p a h)

theorem Cx.Formed.foldl {α : Type} {f : Cx → α → Cx} {l : List α} (step : ∀ c a, c.Formed → (f c a).Formed) (h : c.Formed) :
    (l.foldl f c).Formed := by
  induction l generalizing c with
  | nil => exact h
  | cons a l ih => exact ih (step c a h)

theorem Mach.Formed.ite {p : Prop} [Decidable p] {m1 m2 : Mach} (h1 : m1.Formed) (h2 : m2.Formed) : (if p then m1 else m2).Formed := by
  split
  · exact h1
  · exact h2

theorem Mach.Formed.ite_fst {p : Prop} [Decidable p] {β : Type} {q1 q2 : Mach × β} (h1 : q1.1.Formed) (h2 : q2.1.Formed) :
    (if p then q1 else q2).1.Formed := by
  split
  · exact h1
  · exact h2

theorem State.Formed.ite {p : Prop} [Decidable p] {s1 s2 : State} (h1 : s1.Formed) (h2 : s2.Formed) : (if p then s1 else s2).Formed := by
  split
  · exact h1
  · exact h2

theorem Cx.Formed.ite {p : Prop} [Decidable p] {c1 c2 : Cx} (h1 : c1.Formed) (h2 : c2.Formed) : (if p then c1 else c2).Formed := by
  split
  · exact h1
  · exact h2

theorem Offers.ite {p : Prop} [Decidable p] {o1 o2 : Option Mach} (h1 : Offers o1) (h2 : Offers o2) : Offers (if p then o1 else o2) := by
  split
  · exact h1
  · exact h2

theorem Start.Formed.ite {p : Prop} [Decidable p] {a b : Start} (h1 : a.Formed) (h2 : b.Formed) : (if p then a else b).Formed := by
  split
  · exact h1
  · exact h2

theorem Yields.ite {p : Prop} [Decidable p] {o1 o2 : Host.Outcome State Fault Refusal} (h1 : Yields o1) (h2 : Yields o2) :
    Yields (if p then o1 else o2) := by
  split
  · exact h1
  · exact h2

/-! #### A change that leaves memory alone -/

theorem Mach.Formed.setL1Bad {l} (h : m.Formed) : Mach.Formed { m with l1Bad := l } := h

theorem Mach.Formed.setAcks {l} (h : m.Formed) : Mach.Formed { m with acks := l } := h

theorem Mach.Formed.setHeldCon {l} (h : m.Formed) : Mach.Formed { m with heldCon := l } := h

theorem Mach.Formed.setNextBlk {n} (h : m.Formed) : Mach.Formed { m with nextBlk := n } := h

theorem Mach.Formed.ofState (h : s.Formed) : s.m.Formed := h.m

theorem State.Formed.ofCx (h : c.Formed) : c.s.Formed := h.s

/-- A state with no group under way. -/
theorem State.Formed.idle {inputs} (h : m.Formed) : State.Formed { m := m, iss := none, inputs := inputs } :=
  ⟨h, by rintro _ ⟨⟩⟩

theorem Offers.none : Offers none := by rintro _ ⟨⟩

theorem Offers.some (h : m.Formed) : Offers (some m) := by
  rintro _ ⟨⟩; exact h

theorem Yields.next (h : s.Formed) : Yields (.next s) := by
  rintro _ ⟨⟩; exact h

theorem Yields.fault {r} : Yields (.fault r) := by rintro _ ⟨⟩

theorem Keeps.next (h : FormKept s) : Keeps (.next s) := by
  rintro _ ⟨⟩; exact h

theorem Keeps.ite {p : Prop} [Decidable p] {o1 o2 : Host.Outcome State Fault Refusal} (h1 : Keeps o1) (h2 : Keeps o2) :
    Keeps (if p then o1 else o2) := by
  split
  · exact h1
  · exact h2

/-- R101: the machine a further wait of the group starts from. -/
theorem Issue.Formed.left {i : Issue} (h : i.Formed) : (i.wait.getD i.base).Formed := by
  cases e : i.wait with
  | none => exact h.base
  | some m => exact h.wait m e

/-- A change of the group under way that keeps its form. -/
theorem issueMap_formed {f : Issue → Issue} {o : Option Issue} (h : ∀ i, o = some i → i.Formed) (hf : ∀ i, i.Formed → (f i).Formed) :
    ∀ j, o.map f = some j → j.Formed := by
  intro j e
  obtain ⟨i, hi, rfl⟩ := Option.map_eq_some_iff.mp e
  exact hf i (h i hi)

/-! #### Updates of the package's parts, and writes of memory -/

theorem Mach.Formed.updBlock {id f} (h : m.Formed) : (m.updBlock id f).Formed := h

theorem Mach.Formed.updWarp {id w f} (h : m.Formed) : (m.updWarp id w f).Formed := .updBlock h

theorem Mach.Formed.updCore {c f} (h : m.Formed) : (m.updCore c f).Formed := h

theorem Mach.Formed.updBank {c i f} (h : m.Formed) : (m.updBank c i f).Formed := .updCore h

theorem Mach.Formed.updGrid {n f} (h : m.Formed) : (m.updGrid n f).Formed := h

theorem Mach.Formed.updCtx {n f} (h : m.Formed) : (m.updCtx n f).Formed := h

theorem Mach.Formed.updLanes {id w mask f} (h : m.Formed) : (m.updLanes id w mask f).Formed := .updWarp h

theorem Mach.Formed.drew {ctx n} (h : m.Formed) : (m.drew ctx n).Formed := .updCtx h

theorem Mach.Formed.putCells {cs} (h : m.Formed) : (m.putCells cs).Formed := putCells_wf m cs h

theorem Mach.Formed.hostWrite {a bs} (h : m.Formed) : (m.hostWrite a bs).Formed := .putCells h

theorem Mach.Formed.ringFlush {i n} (h : m.Formed) : (m.ringFlush i n).Formed := by
  induction n generalizing m with
  | zero => exact h
  | succ n ih =>
    unfold Mach.ringFlush
    dsimp only
    split
    · exact h
    · exact .ite (ih (.hostWrite h)) h

theorem Mach.Formed.ringPush {i x} (h : m.Formed) : (m.ringPush i x).Formed := .ringFlush h

theorem Mach.Formed.notice {kind ctx arg0 arg1} (h : m.Formed) : (m.notice kind ctx arg0 arg1).Formed := .ringPush h

theorem Mach.Formed.ringNotes {i} (h : m.Formed) : (m.ringNotes i).Formed := .foldl (fun _ _ h1 => .notice h1) h

theorem Mach.Formed.log {i cont} (h : m.Formed) : (m.log i cont).Formed := by
  obtain ⟨ls, e⟩ := log_eq m i cont
  rw [e]
  exact h

theorem Mach.Formed.addFault {die ctx va access place more} (h : m.Formed) : (m.addFault die ctx va access place more).1.Formed := by
  unfold Mach.addFault
  dsimp only
  split
  · exact h
  · exact .ringPush h

theorem Mach.Formed.cacheWalk {ctx va} (h : m.Formed) : (m.cacheWalk ctx va).Formed := by
  unfold Mach.cacheWalk
  split <;> exact h

theorem Mach.Formed.tlbDrop {ctx va n} (h : m.Formed) : (m.tlbDrop ctx va n).Formed := h

theorem Mach.Formed.touch {pte write} (h : m.Formed) : (m.touch pte write).Formed := .putCells (.cacheWalk h)

theorem Mach.Formed.touchAll {as write} (h : m.Formed) : (m.touchAll as write).Formed := .foldl (fun _ _ h1 => .touch h1) h

theorem Mach.Formed.touchPcs {ctx entry pcs} (h : m.Formed) : (m.touchPcs ctx entry pcs).Formed :=
  .foldl (fun _ _ h1 => by
      split
      · exact .touch h1
      · exact h1) h

theorem Mach.Formed.observeIf {p} (h : m.Formed) : (m.observeIf p).Formed := h

theorem Mach.Formed.observe {s} (h : m.Formed) : (m.observe s).Formed := .observeIf h

theorem Mach.Formed.observeOn {b s} (h : m.Formed) : (m.observeOn b s).Formed := h

theorem Mach.Formed.dropUndoIf {p} (h : m.Formed) : (m.dropUndoIf p).Formed := h

theorem Mach.Formed.dropUndo {s} (h : m.Formed) : (m.dropUndo s).Formed := .dropUndoIf h

theorem Mach.Formed.clobber {cs} (h : m.Formed) : (m.clobber cs).Formed := h

theorem Mach.Formed.land {s cs} (h : m.Formed) : (m.land s cs).1.Formed :=
  .ite_fst h (.observe (.clobber (.dropUndo (.putCells h))))

theorem Mach.Formed.addPoison {s} (h : m.Formed) : (m.addPoison s).Formed :=
  .ite h h

theorem Mach.Formed.landFor {b s va cs} (h : m.Formed) : (m.landFor b s va cs).Formed := by
  unfold Mach.landFor
  refine .ite (.log (.land h)) ?_
  split
  · exact .land h
  · exact .updBlock (.land h)

/-! #### The store buffer -/

theorem Mach.Formed.makeVisible {id seq} (h : m.Formed) : (m.makeVisible id seq).Formed := by
  unfold Mach.makeVisible
  split
  · exact h
  dsimp only
  split
  · exact h
  · exact .landFor (.updBlock h)

theorem Mach.Formed.runRels {id} (h : m.Formed) : (m.runRels id).Formed := by
  unfold Mach.runRels
  split
  · exact h
  · exact .updBlock <| .foldl (fun _ _ h1 => by
          split
          · exact h1
          · exact .landFor h1) h

theorem Mach.Formed.settleDie {id n} (h : m.Formed) : (m.settleDie id n).Formed := by
  induction n generalizing m with
  | zero => exact h
  | succ n ih =>
    unfold Mach.settleDie
    split
    · exact h
    · exact ih <| .runRels <| .foldl (fun _ _ h1 => .makeVisible h1) h

theorem Mach.Formed.allVisible {id} (h : m.Formed) : (m.allVisible id).Formed := .settleDie h

theorem Mach.Formed.makeRoom {id} (h : m.Formed) : (m.makeRoom id).Formed := by
  unfold Mach.makeRoom
  split
  · exact h
  · exact .ite h (.allVisible (.updBlock h))

theorem Mach.Formed.markClob {b va n} (h : m.Formed) : (m.markClob b va n).Formed := by
  unfold Mach.markClob
  split
  · exact h
  · exact .ite h <| .ite h (.updWarp h)

theorem Mach.Formed.bufferStore {id va key bs} (h : m.Formed) : (m.bufferStore id va key bs).Formed := by
  unfold Mach.bufferStore
  dsimp only
  split
  · exact h
  · exact .markClob (.observeOn (.updBlock <| .ite h (.makeRoom h)))

/-! #### Results that arrive, and the words that wait for them -/

theorem Mach.Formed.fillWith {id w seq f} (h : m.Formed) : (m.fillWith id w seq f).Formed := .updWarp h

theorem Mach.Formed.fillLoad {b w e ext uni poll accs} (h : m.Formed) : (m.fillLoad b w e ext uni poll accs).Formed := .fillWith h

theorem Mach.Formed.atomStep {op size key ops old m1} (h : m.Formed) (e : m.atomStep op size key ops = some (old, m1)) : m1.Formed := by
  unfold Mach.atomStep at e
  split at e
  · cases e
  dsimp only at e
  split at e
  · cases e
    exact h
  · cases e
    exact .land h

theorem Mach.Formed.atomLanes {op as rs failed bad} (h : m.Formed) : (Mach.atomLanes op as m rs failed bad).1.Formed := by
  induction as generalizing m rs failed bad with
  | nil => exact h
  | cons a as ih =>
    unfold Mach.atomLanes
    split
    · exact ih h
    split
    · exact ih h
    · rename_i heq
      exact ih (.atomStep h heq)

theorem Mach.Formed.fillAtom {b w e op accs} (h : m.Formed) : (m.fillAtom b w e op accs).Formed :=
  .fillWith <| .updBlock <| .atomLanes <| .runRels <| .foldl (fun _ _ h1 => .makeVisible h1) h

theorem Mach.Formed.fillTfirst {b w e mask} (h : m.Formed) : (m.fillTfirst b w e mask).Formed := .fillWith (.updBlock h)

theorem Mach.Formed.performOne {id w e} (h : m.Formed) : (m.performOne id w e).Formed := by
  unfold Mach.performOne
  split
  · exact h
  split
  · exact .fillLoad h
  · exact .fillAtom h
  · exact .fillTfirst h
  · exact h

theorem Mach.Formed.performSeq {id w seq} (h : m.Formed) : (m.performSeq id w seq).Formed := by
  unfold Mach.performSeq
  split
  · split
    · exact h
    · exact .ite (.foldl (fun _ _ h1 => .performOne h1) h) h
  · exact h

theorem Mach.Formed.settle {id w start lanes as} (h : m.Formed) : (m.settle id w start lanes as).1.Formed := by
  unfold Mach.settle
  split
  · exact h
  · exact .foldl (fun _ _ h1 => .performSeq h1) h

theorem Mach.Formed.settleAll {id w lanes} (h : m.Formed) : (m.settleAll id w lanes).1.Formed := by
  unfold Mach.settleAll
  split
  · exact h
  · exact .foldl (fun _ _ h1 => .performSeq h1) h

theorem Mach.Formed.arrive {id w seq} (h : m.Formed) : (m.arrive id w seq).Formed := by
  unfold Mach.arrive
  split
  · split
    · exact h
    split
    · exact .fillWith h
    · exact .performSeq h
    · exact .performSeq h
    · exact .ite h (.fillWith h)
    · exact .performSeq h
    · exact h
    · exact h
  · exact h

/-! #### Cellar lines -/

theorem Mach.Formed.grantPass {c i n} (h : m.Formed) : (m.grantPass c i n).Formed := by
  induction n generalizing m with
  | zero => exact h
  | succ n ih =>
    unfold Mach.grantPass
    split
    · exact h
    · exact .ite (ih <| .ite (.updBank h) (.updLanes (.updBank h))) h

theorem Mach.Formed.grants {c i} (h : m.Formed) : (m.grants c i).Formed := .grantPass h

theorem Mach.Formed.grantsFor {b w} (h : m.Formed) : (m.grantsFor b w).Formed := .grants h

theorem Mach.Formed.awaitFill {b w mask} (h : m.Formed) : (m.awaitFill b w mask).Formed := by
  unfold Mach.awaitFill
  split
  · exact h
  extract_lets s out fs m1
  have h1 : m1.Formed := .foldl (fun _ _ h0 =>
    .ite (.updWarp (.updLanes h0)) <| .ite (.updBank (.updWarp (.updLanes h0))) (.updBank (.updWarp (.updLanes h0)))) h
  exact .ite h1 (.grants h1)

/-! #### The end of blocks, grids and copies -/

theorem Mach.Formed.leaveCores {b} (h : m.Formed) : (m.leaveCores b).Formed := .foldl (fun _ _ h1 => .updCore h1) h

theorem Mach.Formed.vacate {id place} (h : m.Formed) : (m.vacate id place).Formed := by
  unfold Mach.vacate
  split
  · exact h
  · exact .foldl (fun _ _ h1 => .grants h1) (.updBlock (.leaveCores h))

theorem Mach.Formed.blockExit {id} (h : m.Formed) : (m.blockExit id).Formed := by
  unfold Mach.blockExit
  split
  · exact h
  · exact .ite (.updGrid (.vacate (.updBlock h))) h

theorem Mach.Formed.exitLanes {id w mask} (h : m.Formed) : (m.exitLanes id w mask).Formed := by
  unfold Mach.exitLanes
  split
  · exact .blockExit (.grants <| .ite (.updCore (.updBlock (.updWarp h))) (.updBlock (.updWarp h)))
  · exact h

theorem Mach.Formed.dropFaults {b ring} (h : m.Formed) : (m.dropFaults b ring).Formed := h

theorem Mach.Formed.killBlock {id} (h : m.Formed) : (m.killBlock id).Formed := by
  unfold Mach.killBlock
  split
  · exact h
  refine .ite h ?_
  extract_lets m1 m2 m3
  have h1 : m1.Formed := .foldl (fun _ _ h1 => .putCells h1) (.dropFaults h)
  have h3 : m3.Formed := .foldl (fun _ _ h1 => .updCore h1) (.updBlock h1)
  exact .ite (.vacate h3) (.updBlock h3)

theorem Mach.Formed.killGrid {n rec_ cont} (h : m.Formed) : (m.killGrid n rec_ cont).Formed := by
  unfold Mach.killGrid
  split
  · exact h
  · exact .ite h <| .log <| .foldl (fun _ _ h1 => .killBlock h1) (.updGrid h)

theorem Mach.Formed.tlFinish {ctx tl n} (h : m.Formed) : (m.tlFinish ctx tl n).Formed :=
  .ite h (.updCtx h)

theorem Mach.Formed.copyDone {id ch tl n} (h : m.Formed) : (m.copyDone id ch tl n).Formed := by
  unfold Mach.copyDone
  split
  · exact h
  · exact .ite h (.tlFinish h)

theorem Mach.Formed.dropUnsent {id} (h : m.Formed) : (m.dropUnsent id).Formed := by
  unfold Mach.dropUnsent
  split
  · exact h
  · exact .foldl (fun _ _ h1 => .copyDone h1) (.updBlock h)

theorem Mach.Formed.escalate {b r} (h : m.Formed) : (m.escalate b r).Formed := .notice (.killGrid (.dropUnsent h))

theorem Mach.Formed.rollback {b r} (h : m.Formed) : (m.rollback b r).Formed :=
  .log <| .foldl (fun _ _ h1 => .updCore h1) (.updBlock (.vacate (.dropUnsent (.updBlock (.dropFaults h)))))

theorem Mach.Formed.consume {id warp cause sub va pa pc detail} (h : m.Formed) : (m.consume id warp cause sub va pa pc detail).Formed := by
  unfold Mach.consume
  split
  · exact h
  · exact .ite h <| .ite (.escalate h) <| .ite (.escalate h) (.rollback h)

theorem Mach.Formed.settleBlock {g lin die lslot rolls spot} (h : m.Formed) : (m.settleBlock g lin die lslot rolls spot).Formed :=
  .foldl (fun _ _ h1 => .updBank h1) h

/-! #### Misses, trap frames and traps -/

theorem Mach.Formed.missAll {b waited misses access place} (h : m.Formed) : (m.missAll b waited misses access place).1.Formed :=
  .foldl_fst (fun _ _ h1 => .addFault h1) h

theorem Mach.Formed.framesFit {id bytes as done} (h : m.Formed) : (Mach.framesFit id bytes as m done).1.Formed := by
  induction as generalizing m done with
  | nil => exact h
  | cons a as ih =>
    unfold Mach.framesFit
    split
    · exact ih h
    · rename_i k heq
      have hroom : (if m.roomFor id (sectorOf k) then m else m.makeRoom id).Formed := .ite h (.makeRoom h)
      dsimp only
      generalize (if m.roomFor id (sectorOf k) then m else m.makeRoom id) = m1 at hroom ⊢
      split
      · exact ih (.bufferStore (.touch hroom))
      · exact ih hroom

theorem Mach.Formed.deliver {id w lanes t stop} (h : m.Formed) : (m.deliver id w lanes t stop).Formed := by
  unfold Mach.deliver
  split
  · dsimp only
    split
    · exact .killGrid h
    split
    · exact .updLanes (.updLanes (.missAll (.framesFit h)))
    · exact .updWarp (.updLanes (.missAll (.framesFit h)))
  · exact h

theorem Mach.Formed.stopAt {b x lanes t} (h : m.Formed) : (m.stopAt b x lanes t).Formed := .deliver (.log (.updCtx h))

theorem Mach.Formed.takeTrap {id w lanes t} (h : m.Formed) : (m.takeTrap id w lanes t).Formed := by
  unfold Mach.takeTrap
  split
  · refine .ite (.killGrid (.updWarp h)) ?_
    refine .ite (.ite (.stopAt (.updWarp h)) (.killGrid (.updWarp h))) ?_
    split
    · exact .killGrid (.updWarp h)
    · exact .deliver (.updWarp h)
  · exact h

theorem Mach.Formed.commitFault {id w e part marker second} (h : m.Formed) : (m.commitFault id w e part marker second).Formed := by
  unfold Mach.commitFault
  split
  · exact .ite (.consume h) (.takeTrap (.updWarp h))
  · exact h

theorem Mach.Formed.trapEntry {id w lanes t} (h : m.Formed) : (m.trapEntry id w lanes t).Formed := by
  unfold Mach.trapEntry
  split
  · refine .ite (.updWarp h) ?_
    dsimp only
    split
    · exact .takeTrap (.updWarp h)
    · exact .commitFault (.updLanes (.updWarp h))
  · exact h

/-! #### What an encoded word's pieces do -/

theorem Cx.Formed.upd {f} (hc : c.Formed) (hf : ∀ m, m.Formed → (f m).Formed) : (c.upd f).Formed :=
  ⟨⟨hf _ hc.s.m, hc.s.iss⟩, hc.is⟩

theorem Cx.Formed.updW {f} (h : c.Formed) : (c.updW f).Formed := .upd h fun _ h1 => .updWarp h1

theorem Cx.Formed.updB {f} (h : c.Formed) : (c.updB f).Formed := .upd h fun _ h1 => .updBlock h1

theorem Mach.Formed.markIssued {lanes} (h : m.Formed) : (m.markIssued lanes).Formed := h

theorem Mach.Formed.markYield (h : m.Formed) : m.markYield.Formed := h

theorem State.Formed.undo {f} (hc : c.Formed) (hf : ∀ m, m.Formed → (f m).Formed) : (c.undo f).Formed := .idle (hf _ hc.is.base)

theorem State.Formed.raise {t} (h : c.Formed) : (c.raise t).Formed :=
  .undo h fun _ h1 => .grantsFor (.trapEntry (.markIssued <| .ite h1 (.touchPcs h1)))

theorem State.Formed.trap {cause sub addr detail} (h : c.Formed) : (c.trap cause sub addr detail).Formed := .raise h

theorem State.Formed.stall (h : c.Formed) : c.stall.Formed := .undo h fun _ h1 => .updLanes h1

/-- R101: what a wait leaves is made of the machine the group began in. -/
theorem State.Formed.waitAs {f} (hc : c.Formed) (hf : ∀ m, m.Formed → (f m).Formed) : (c.waitAs f).Formed := by
  refine ⟨hc.s.m, fun j e => ?_⟩
  obtain ⟨i, hi, rfl⟩ := Option.map_eq_some_iff.mp e
  have hi := hc.s.iss i hi
  refine ⟨hi.base, ?_⟩
  rintro _ ⟨⟩
  exact hf _ hi.left

theorem State.Formed.waitIn {f r} (hc : c.Formed) (hf : ∀ m, m.Formed → (f m).Formed) : (c.waitIn f r).Formed :=
  .waitAs hc fun _ h1 => .updLanes (hf _ h1)

theorem State.Formed.stallWith {f} (hc : c.Formed) (hf : ∀ m, m.Formed → (f m).Formed) : (c.stallWith f).Formed :=
  .waitAs hc fun _ h1 => .updLanes (hf _ h1)

theorem State.Formed.consume {cause sub pa} (h : c.Formed) : (c.consume cause sub pa).Formed := .undo h fun _ h1 => .consume h1

theorem Cx.Formed.short {r v} (h : c.Formed) : (c.short r v).Formed := .updW h

theorem Cx.Formed.shortPred {p v} (h : c.Formed) : (c.shortPred p v).Formed := .updW h

theorem Cx.Formed.flags {f} (h : c.Formed) : (c.flags f).Formed := .updW h

theorem Cx.Formed.enter {dests pend vals acq waits} (h : c.Formed) : (c.enter dests pend vals acq waits).Formed := .updW h

theorem Cx.Formed.long {d vs} (h : c.Formed) : (c.long d vs).Formed := .enter h

theorem Cx.Formed.park {misses access place} (h : c.Formed) : (c.park misses access place).Formed := by
  unfold Cx.park
  split
  · exact h
  · exact ⟨⟨.updLanes (.missAll h.s.m), issueMap_formed h.s.iss fun _ hi => ⟨hi.base, hi.wait⟩⟩, h.is⟩

theorem Cx.Formed.parkMore {misses access place} (h : c.Formed) : (c.parkMore misses access place).Formed :=
  .ite h <| .upd h fun _ h1 => .updLanes (.missAll h1)

theorem State.Formed.protTrap {sub va pa mask} (h : c.Formed) : (c.protTrap sub va pa mask).Formed :=
  .trap ⟨h.s, ⟨.log h.is.base, h.is.wait⟩⟩

theorem State.Formed.badTrap {cause sub va pa mask} (h : c.Formed) : (c.badTrap cause sub va pa mask).Formed :=
  .ite (.protTrap h) (.trap h)

theorem State.Formed.checked {rs access place k} (hc : c.Formed) (hk : ∀ c x, c.Formed → (k c x).Formed) : (c.checked rs access place k).Formed := by
  unfold Cx.checked
  split
  · exact .badTrap hc
  · exact .ite (.ofCx (.park hc)) (hk _ _ (.park hc))

theorem State.Formed.checkedAll {rs access place k} (hc : c.Formed) (hk : ∀ c x, c.Formed → (k c x).Formed) : (c.checkedAll rs access place k).Formed := by
  unfold Cx.checkedAll
  split
  · exact .badTrap hc
  · exact hk _ _ (.park hc)

theorem Yields.word {h regs k} (hs : s.Formed) (hk : ∀ c, c.Formed → (k c).Formed) : Yields (s.word h regs k) := by
  unfold State.word
  split
  · exact .next hs
  · rename_i i hi
    split
    · exact .ite (.next hs) (.ite (.next (.trap ⟨hs, hs.iss i hi⟩)) (.next (hk _ ⟨hs, hs.iss i hi⟩)))
    · exact .fault

theorem Yields.event {f} (hs : s.Formed) (hf : ∀ m, m.Formed → (f m).Formed) : Yields (s.event f) := .next ⟨hf _ hs.m, hs.iss⟩

theorem Cx.Formed.map2 {d x y f} (h : c.Formed) : (c.map2 d x y f).Formed := .short h

theorem Cx.Formed.map1 {d x f} (h : c.Formed) : (c.map1 d x f).Formed := .short h

theorem Cx.Formed.short64 {d srcs f} (h : c.Formed) : (c.short64 d srcs f).Formed := by
  unfold Cx.short64
  split
  · exact .short (.short h)
  · exact h

theorem Mach.Formed.storeAll {id items} (h : m.Formed) : (Mach.storeAll id items m).1.Formed := by
  induction items generalizing m with
  | nil => exact h
  | cons x items ih =>
    unfold Mach.storeAll
    dsimp only
    split
    · split
      · exact ih (.bufferStore h)
      · exact .bufferStore h
    · exact .bufferStore h

theorem State.Formed.waitRoom (h : c.Formed) : c.waitRoom.Formed := .stallWith h fun _ h1 => .makeRoom h1

theorem State.Formed.stores {items k} (hc : c.Formed) (hk : ∀ c, c.Formed → (k c).Formed) : (c.stores items k).Formed :=
  .ite (hk _ <| .upd hc fun _ _ => .storeAll hc.s.m) (.waitRoom hc)

theorem State.Formed.stackChecked {rs k} (hc : c.Formed) (hk : ∀ c x, c.Formed → (k c x).Formed) : (c.stackChecked rs k).Formed := by
  unfold Cx.stackChecked
  split
  · exact .trap hc
  · exact .ite (.ofCx (.park hc)) (hk _ _ (.park hc))

theorem Cx.Formed.touched {accs write} (h : c.Formed) : (c.touched accs write).Formed := .upd h fun _ h1 => .touchAll h1

theorem Cx.Formed.loadEntry {dests ext uni poll acq direct accs} (h : c.Formed) : (c.loadEntry dests ext uni poll acq direct accs).Formed := by
  unfold Cx.loadEntry
  split
  · exact h
  · exact .enter (.updB h)

theorem State.Formed.settled {accs k} (hc : c.Formed) (hk : ∀ c, c.Formed → (k c).Formed) : (c.settled accs k).Formed :=
  .ite (hk _ <| .upd hc fun _ _ => .settle hc.s.m) (.stall hc)

theorem Cx.Formed.afterFence (h : c.Formed) : c.afterFence.Formed :=
  .ite (.upd h fun _ h1 => .allVisible h1) h

theorem State.Formed.settledIf {accs k} (hc : c.Formed) (hk : ∀ c, c.Formed → (k c).Formed) : (c.settledIf accs k).Formed :=
  .ite (hk _ hc) (.settled hc hk)

theorem State.Formed.arrived {accs k} (hc : c.Formed) (hk : ∀ c, c.Formed → (k c).Formed) : (c.arrived accs k).Formed :=
  .ite (.stall hc) (hk _ hc)

theorem State.Formed.settledAll {k} (hc : c.Formed) (hk : ∀ c, c.Formed → (k c).Formed) : (c.settledAll k).Formed :=
  .ite (hk _ <| .upd hc fun _ _ => .settleAll hc.s.m) (.stall hc)

theorem Cx.Formed.standing {f} (hc : c.Formed) (hf : ∀ m, m.Formed → (f m).Formed) : (c.standing f).Formed :=
  .upd ⟨hc.s, ⟨hf _ hc.is.base, hc.is.wait⟩⟩ hf

theorem Mach.Formed.released {id} (h : m.Formed) : (m.released id).Formed := .updBlock h

theorem Cx.Formed.release (h : c.Formed) : c.release.Formed := .upd h fun _ h1 => .released h1

theorem Mach.Formed.ch0First {id ch} (h : m.Formed) : (m.ch0First id ch).Formed :=
  .ite (.updBlock h) h

theorem State.Formed.farReady {read accs k} (hc : c.Formed) (hk : ∀ c, c.Formed → (k c).Formed) : (c.farReady read accs k).Formed :=
  .ite (hk _ hc) <| .ite (.stall hc) <| hk _ <| .upd hc fun _ h1 => .ch0First h1

theorem Mach.Formed.tagWake {id} (h : m.Formed) : (m.tagWake id).Formed := by
  unfold Mach.tagWake
  split
  · exact h
  dsimp only
  split
  · exact .updBlock h
  · exact .consume (.updBlock h)

theorem Mach.Formed.tlWake {ctx} (h : m.Formed) : (m.tlWake ctx).Formed := h

theorem State.Formed.globalLoad {d a z o pf poll acq} (h : c.Formed) : (c.globalLoad d a z o pf poll acq).Formed := by
  unfold Cx.globalLoad
  exact .checked h fun _ _ h1 => .ofCx (.loadEntry (.touched h1))

/-! #### Loads, stores and atomics -/

theorem Yields.execLd {h d a z o pf} (hs : s.Formed) : Yields (execLd h d a z o pf s) := .word hs fun _ h1 => .globalLoad h1

theorem Yields.execLdAcq {h d a z o pf} (hs : s.Formed) : Yields (execLdAcq h d a z o pf s) := .word hs fun _ h1 => .globalLoad h1

theorem Yields.execLdPoll {h d a z o pf} (hs : s.Formed) : Yields (execLdPoll h d a z o pf s) :=
  .word hs fun _ h1 => .globalLoad h1

theorem Yields.execLdU {h d a z o pf} (hs : s.Formed) : Yields (execLdU h d a z o pf s) :=
  .word hs fun _ h1 => .ite (.trap h1) <| .checked h1 fun _ _ h2 => .ofCx (.loadEntry (.touched h2))

theorem Yields.execLds {h d a z o pf} (hs : s.Formed) : Yields (execLds h d a z o pf s) :=
  .word hs fun _ h1 => .checked h1 fun _ _ h2 => .ofCx (.loadEntry (.touched h2))

theorem Yields.execLdt {h d a z o pf} (hs : s.Formed) : Yields (execLdt h d a z o pf s) :=
  .word hs fun _ h1 => .checked h1 fun _ _ h2 => .ofCx (.loadEntry (.touched h2))

theorem Cx.Formed.sharedStores {items} (h : c.Formed) : (c.sharedStores items).Formed :=
  .ite h (.updB h)

theorem State.Formed.store {rs s z} (h : c.Formed) : (c.store rs s z).Formed :=
  .checked h fun _ _ h1 => .settled h1 fun _ h2 => .stores (.sharedStores (.touched h2)) fun _ h3 => h3.s

theorem Yields.execSt {h r a z o pf} (hs : s.Formed) : Yields (execSt h r a z o pf s) := .word hs fun _ h1 => .store h1

theorem Yields.execSts {h r a z o pf} (hs : s.Formed) : Yields (execSts h r a z o pf s) := .word hs fun _ h1 => .store h1

theorem Yields.execStt {h r a z o pf} (hs : s.Formed) : Yields (execStt h r a z o pf s) := .word hs fun _ h1 => .store h1

theorem State.Formed.relStores {s z accs} (h : c.Formed) : (c.relStores s z accs).Formed :=
  .ofCx <| .upd (.updB h) fun _ h1 => .runRels (.ch0First h1)

theorem Yields.execStRel {h r a z o pf} (hs : s.Formed) : Yields (execStRel h r a z o pf s) :=
  .word hs fun _ h1 =>
    .checkedAll h1 fun _ _ h2 => .settledAll h2 fun _ h3 => .farReady h3 fun _ h4 => .relStores (.touched (.release h4))

theorem Yields.execStashmap {h d a b} (hs : s.Formed) : Yields (execStashmap h d a b s) :=
  .word hs fun _ h1 => .ite (.trap h1) <| .ite (.trap h1) <| .ite (.trap h1) <| .ite (.trap h1) (.ofCx (.updB h1))

theorem Yields.execStashmapUn {h d} (hs : s.Formed) : Yields (execStashmapUn h d s) :=
  .word hs fun _ h1 => .ite (.trap h1) (.ofCx (.updB h1))

theorem Yields.execStashpin {h a} (hs : s.Formed) : Yields (execStashpin h a s) :=
  .word hs fun _ h1 => .checked h1 fun _ _ h2 => .ite (.trap h1) (.ofCx (.updB h2))

theorem Yields.execStashpinUn {h a} (hs : s.Formed) : Yields (execStashpinUn h a s) :=
  .word hs fun _ h1 => .checked h1 fun _ _ h2 => .ofCx (.updB h2)

theorem Mach.Formed.farAtoms {id op warp seq waits accs} (h : m.Formed) : (m.farAtoms id op warp seq waits accs).Formed :=
  .updBlock h

theorem Cx.Formed.releaseSectors {secs} (h : c.Formed) : (c.releaseSectors secs).Formed := .upd h fun _ h1 => .updBlock h1

theorem State.Formed.mixedAtom {op dests acq rel accs} (h : c.Formed) : (c.mixedAtom op dests acq rel accs).Formed :=
  .ofCx <| .updW <| .enter <| .upd h fun _ _ => .farAtoms (.updBlock (.atomLanes <| .ite h.s.m (.allVisible h.s.m)))

theorem State.Formed.atom {op d b a ord} (h : c.Formed) : (c.atom op d b a ord).Formed := by
  unfold Cx.atom
  refine .checked h fun c1 oks h1 => ?_
  extract_lets accs acq rel dests act
  have hact : ∀ c, c.Formed → (act c).Formed := fun c hc => by
    refine .farReady hc fun c2 h2 => ?_
    extract_lets c3 c4
    have h4 : c4.Formed := .touched (.ite (.release h2) (.releaseSectors h2))
    exact .ite (.ofCx (.enter h4)) (.mixedAtom h4)
  exact .ite (.settledAll h1 hact) <| .ite (hact _ h1) (.settled h1 hact)

theorem Yields.execAtomArith {h d a b u pf} (hs : s.Formed) : Yields (execAtomArith h d a b u pf s) :=
  .word hs fun _ h1 => .atom h1

theorem Yields.execAtomMinmax {h d a b u pf} (hs : s.Formed) : Yields (execAtomMinmax h d a b u pf s) :=
  .word hs fun _ h1 => .atom h1

theorem Yields.execAtomBit {h d a b u pf} (hs : s.Formed) : Yields (execAtomBit h d a b u pf s) := .word hs fun _ h1 => .atom h1

theorem Yields.execAtomCas {h d a b u pf} (hs : s.Formed) : Yields (execAtomCas h d a b u pf s) := .word hs fun _ h1 => .atom h1

/-! #### A group begins, and its shadow -/

theorem Mach.Formed.fetchTrap {b w p cause sub addr word pfx pc group second} (h : m.Formed) : (m.fetchTrap b w p cause sub addr word pfx pc group second).Formed :=
  .grantsFor (.trapEntry h)

theorem Mach.Formed.start {b w p o second} (h : m.Formed) : (m.start b w p o second).Formed := by
  unfold Mach.start
  split
  · exact Mach.Formed.trapEntry h
  · exact Mach.Formed.fetchTrap (.ite h (.touchPcs h))
  · exact Mach.Formed.fetchTrap (.log h)
  · exact Mach.Formed.updLanes (.missAll h)
  · rename_i ws next
    dsimp only
    generalize (if groupWaits w p.lanes ws then w.commitLanes b.width m.clock p.lanes else (w, none)) = r
    split
    · exact Mach.Formed.commitFault (.updWarp h)
    · exact .ite (Mach.Formed.updWarp h) ⟨.touchPcs (.markIssued (.updWarp (.updWarp h))), ⟨.updWarp h, by rintro _ ⟨⟩⟩⟩

theorem State.Formed.atWord {g} (h : s.Formed) : (s.atWord g).Formed :=
  ⟨h.m, issueMap_formed h.iss fun _ hi => ⟨hi.base, hi.wait⟩⟩

theorem Mach.Formed.grantsOf {id w} (h : m.Formed) : (m.grantsOf id w).Formed := by
  unfold Mach.grantsOf
  split
  · exact .grantsFor h
  · exact h

theorem FormKept.finish {id w} (h : s.m.Formed) : FormKept (s.finish id w) := ⟨Mach.Formed.grantsOf (.updWarp h), rfl⟩

theorem Mach.Formed.shadowView {id w} (h : m.Formed) : (m.shadowView id w).Formed := .updWarp h

theorem State.Formed.mismatch {i g lw t u} (h : i.Formed) : (s.mismatch i g lw t u).Formed := .idle (.consume h.base)

theorem Yields.shadowed {ex g o} (hs : s.Formed) (ho : Yields o) : Yields (shadowed ex g s o) := by
  unfold Machine.shadowed
  split
  · rename_i t i hi
    have ht : t.Formed := ho t rfl
    split
    · exact ho
    split
    · exact ho
    split
    · exact .next ⟨.updWarp ht.m, ht.iss⟩
    split
    · refine .ite (.next (.mismatch (hs.iss i hi))) (.ite ho ?_)
      split
      · exact .next ⟨.updWarp ht.m, ht.iss⟩
      · exact ho
    · exact ho
  · exact ho

theorem State.Formed.recorded {i ws} (h : s.Formed) : (s.recorded i ws).Formed := by
  unfold State.recorded
  split
  · exact h
  · exact ⟨.updWarp h.m, h.iss⟩

theorem Mach.Formed.numberTl {ctx tl} (h : m.Formed) : (m.numberTl ctx tl).2.Formed := by
  unfold Mach.numberTl
  split
  · exact h
  split
  · exact h
  · exact .updCtx h

theorem Mach.Formed.acceptLaunch {ctx raw device cmd conds} (h : m.Formed) : (m.acceptLaunch ctx raw device cmd conds).1.Formed :=
  .ite_fst (.log h) (.numberTl h)

theorem Mach.Formed.ackMap {ctx v} (h : m.Formed) : (m.ackMap ctx v).Formed := .updCtx h

theorem Mach.Formed.balance {gate c} (h : m.Formed) : (m.balance gate c).Formed := h

theorem Mach.Formed.balanceAll {gate} (h : m.Formed) : (m.balanceAll gate).Formed := .foldl (fun _ _ h1 => .balance h1) h

theorem Mach.Formed.pickOn {gate n p} (h : m.Formed) (e : m.pickOn gate n = some p) : p.m.Formed := by
  unfold Mach.pickOn at e
  split at e
  · cases e
  split at e
  · cases e
  dsimp only at e
  split at e
  · cases e
  · cases e
    exact .updCore (.updWarp h)

/-- A search for an issue: the machine it leaves, and the one it picks in. -/
theorem Mach.Formed.pickFrom {gate cs} (h : m.Formed) :
    (Mach.pickFrom gate cs m).1.Formed ∧ ∀ p, (Mach.pickFrom gate cs m).2 = some p → p.m.Formed := by
  induction cs generalizing m with
  | nil => exact ⟨h, by rintro _ ⟨⟩⟩
  | cons k cs ih =>
    unfold Mach.pickFrom
    split
    · rename_i p hp
      refine ⟨h, ?_⟩
      rintro _ ⟨⟩
      exact Mach.Formed.pickOn (p := p) h hp
    · exact ih (.updCore h)

theorem Mach.Formed.pick {gate p} (h : m.Formed) (e : m.pick gate = some p) : p.m.Formed := (Mach.Formed.pickFrom h).2 p e

theorem Mach.Formed.unpicked {gate} (h : m.Formed) : (m.unpicked gate).Formed := (Mach.Formed.pickFrom h).1

theorem Mach.Formed.yieldPlace {gate c blk w} (h : m.Formed) : (m.yieldPlace gate c blk w).Formed := by
  unfold Mach.yieldPlace
  dsimp only
  split
  · exact h
  · exact .updCore h

theorem Mach.Formed.giveAway {gate} (h : m.Formed) : (m.giveAway gate).Formed := by
  unfold Mach.giveAway
  split
  · exact h
  split
  · exact .yieldPlace h
  · exact h

theorem Mach.Formed.endFront (h : m.Formed) : m.endFront.Formed := by
  unfold Mach.endFront
  split
  · exact h
  · exact .ite h (.updWarp h)

theorem Mach.Formed.regroup (h : m.Formed) : m.regroup.Formed := h

/-! #### The matrix unit -/

theorem Mach.Formed.startMx {b pair r ch} (h : m.Formed) : (m.startMx b pair r ch).Formed :=
  .ite (.updCore (.updCore h)) (.updCore h)

theorem State.Formed.miterAtCap {k rise flags} (h : c.Formed) : (c.miterAtCap k rise flags).Formed :=
  .ite (.ofCx (.updW (.enter (.updB h)))) (.ofCx (.flags (.updW (.enter (.updB h)))))

theorem State.Formed.miter {o} (h : c.Formed) : (c.miter o).Formed :=
  .ite (.miterAtCap h) <| .ofCx <| .updW <| .upd (.enter (.updB h)) fun _ h1 => .startMx h1

theorem State.Formed.mxRun {o} (h : c.Formed) : (c.mxRun o).Formed := by
  unfold Cx.mxRun
  extract_lets side count sigma out mirror n r c1
  have h1 : c1.Formed := .upd (.ite h (.flags h)) fun _ h1 => .startMx h1
  exact .ite (.ofCx (.enter h1)) (.ofCx h1)

theorem State.Formed.mx {o} (h : c.Formed) : (c.mx o).Formed := by
  unfold Cx.mx
  refine .ite (.trap h) ?_
  split
  · exact .trap h
  · exact .ite (.consume h) <| .ite (.miter h) (.mxRun h)

theorem Yields.mxWord {h i} (hs : s.Formed) : Yields (s.mxWord h i) := by
  unfold State.mxWord
  split
  · exact .word hs fun _ h1 => .mx h1
  · exact .next hs

theorem Yields.execTzero {h t v} (hs : s.Formed) : Yields (execTzero h t v s) := .mxWord hs

theorem Yields.execTmov {h t a v} (hs : s.Formed) : Yields (execTmov h t a v s) := .mxWord hs

theorem Yields.execMtrn {h t a v} (hs : s.Formed) : Yields (execMtrn h t a v s) := .mxWord hs

theorem Yields.execMma {h t a b f p v} (hs : s.Formed) : Yields (execMma h t a b f p v s) := .mxWord hs

theorem Yields.execMmab {h t a b f v} (hs : s.Formed) : Yields (execMmab h t a b f v s) := .mxWord hs

theorem Yields.execMscale {h t a r} (hs : s.Formed) : Yields (execMscale h t a r s) := .mxWord hs

theorem Yields.execMpoly {h t a n p} (hs : s.Formed) : Yields (execMpoly h t a n p s) := .mxWord hs

theorem Yields.execMiterNs {h t p} (hs : s.Formed) : Yields (execMiterNs h t p s) := .mxWord hs

theorem Yields.execMiterNinv {h t a p} (hs : s.Formed) : Yields (execMiterNinv h t a p s) := .mxWord hs

theorem Yields.execMiterPoly {h t n p} (hs : s.Formed) : Yields (execMiterPoly h t n p s) := .mxWord hs

theorem Yields.execTqnt {h t a r} (hs : s.Formed) : Yields (execTqnt h t a r s) := .mxWord hs

theorem Yields.execTdq {h t a r} (hs : s.Formed) : Yields (execTdq h t a r s) := .mxWord hs

theorem State.Formed.slice {tile b col i pf k} (hc : c.Formed) (hk : ∀ x, (k x).Formed) : (c.slice tile b col i pf k).Formed := by
  unfold Cx.slice
  refine .ite (.trap hc) ?_
  split
  · exact .trap hc
  · exact .ite (.trap hc) <| .ite (.trap hc) (hk _)

theorem Yields.execTget {h d t b r i pf} (hs : s.Formed) : Yields (execTget h d t b r i pf s) :=
  .word hs fun _ h1 => .slice h1 fun _ => .ofCx (.updW (.long h1))

theorem Yields.execTset {h d t b r i pf} (hs : s.Formed) : Yields (execTset h d t b r i pf s) :=
  .word hs fun _ h1 => .slice h1 fun _ => .ofCx (.updB h1)

theorem State.Formed.pieces {ps need access k} (hc : c.Formed) (hk : ∀ c x, c.Formed → (k c x).Formed) : (c.pieces ps need access k).Formed := by
  unfold Cx.pieces
  dsimp only
  split
  · exact .badTrap hc
  · exact .ite (.ofCx (.park hc)) <| hk _ _ <| .upd hc fun _ h1 => .foldl (fun _ _ h2 => .touch h2) h1

theorem State.Formed.tileRows {t a b pair store vc k} (hc : c.Formed) (hk : ∀ x x1, (k x x1).Formed) : (c.tileRows t a b pair store vc k).Formed := by
  unfold Cx.tileRows
  dsimp only
  split
  · exact .trap hc
  · exact .ite (.trap hc) <| .ite (.trap hc) <| .ite (.trap hc) <| .ite (.trap hc) <| .ite (.trap hc) (hk _ _)

theorem Cx.Formed.moveRun {pair writes} (h : c.Formed) : (c.moveRun pair writes).Formed :=
  .ite (.enter <| .upd h fun _ h1 => .startMx h1) <| .upd h fun _ h1 => .startMx h1

theorem Yields.execTld {h t a b p v} (hs : s.Formed) : Yields (execTld h t a b p v s) :=
  .word hs fun _ h1 =>
    .tileRows (.afterFence h1) fun _ _ =>
      .pieces (.afterFence h1) fun _ _ h2 =>
        .settled h2 fun _ h3 => by
          split
          · exact h3.s
          · exact .ite (.stallWith h3 fun _ h4 => .updBlock h4) <| .ite (.stall h3) (.ofCx (.moveRun h3))

theorem Mach.Formed.tstSector {id q} (h : m.Formed) : (Mach.tstSector id m q).Formed := by
  unfold Mach.tstSector
  split
  · exact .ite (.landFor h) (.updBlock h)
  · exact h

theorem Mach.Formed.sectorsVisible {id secs} (h : m.Formed) : (m.sectorsVisible id secs).Formed := by
  unfold Mach.sectorsVisible
  split
  · exact h
  · exact .ite (.allVisible h) <| .runRels <| .foldl (fun _ _ h1 => .makeVisible h1) h

theorem Yields.execTst {h t a b v} (hs : s.Formed) : Yields (execTst h t a b v s) :=
  .word hs fun _ h1 =>
    .tileRows (.afterFence h1) fun _ _ =>
      .pieces (.afterFence h1) fun _ _ h2 =>
        .ite (.consume h2) <|
        .settled h2 fun _ h3 =>
          .ofCx <|
          .moveRun <|
          .updB <|
          .upd (.upd (.releaseSectors h3) fun _ h4 => .sectorsVisible h4) fun _ h4 => .foldl (fun _ _ h5 => .tstSector h5) h4

theorem Mach.Formed.freeMx {r} (h : m.Formed) : (m.freeMx r).Formed := h

theorem Mach.Formed.mxFlags {r f} (h : m.Formed) : (m.mxFlags r f).Formed := .updWarp h

theorem Mach.Formed.mxEnd {core} (h : m.Formed) : (m.mxEnd core).Formed := by
  unfold Mach.mxEnd
  split
  · exact h
  refine .ite h ?_
  split
  · exact .freeMx h
  refine .ite (.freeMx h) ?_
  refine .ite h ?_
  dsimp only
  split
  · exact .mxFlags (.fillWith (.freeMx (.updBlock h)))
  · exact .freeMx (.updBlock h)

theorem Mach.Formed.updIter {core endAt f} (h : m.Formed) : (m.updIter core endAt f).Formed := .updCore h

theorem Mach.Formed.phaseStart {core} (h : m.Formed) : (m.phaseStart core).Formed := by
  unfold Mach.phaseStart
  split
  · exact h
  split
  · refine .ite h (.ite h ?_)
    extract_lets m1 m2 m3 ph
    have h3 : m3.Formed := .updIter <| .ite (.updCore (.updCore h)) (.updCore h)
    exact .ite h3 (.updBlock h3)
  · exact h

theorem Mach.Formed.miterOver {r stat rho flags fault} (h : m.Formed) : (m.miterOver r stat rho flags fault).Formed :=
  .freeMx (.updWarp (.mxFlags (.fillWith (.updBlock h))))

theorem Mach.Formed.miterAccept {core r i y rho rise flags} (h : m.Formed) : (m.miterAccept core r i y rho rise flags).Formed :=
  .updIter (.updBlock h)

theorem Mach.Formed.iterationEnd {core} (h : m.Formed) : (m.iterationEnd core).Formed := by
  unfold Mach.iterationEnd
  split
  · exact h
  split
  · refine .ite h ?_
    refine .ite (.miterOver h) ?_
    refine .ite (.miterOver h) ?_
    refine .ite (.miterOver h) ?_
    exact .ite (.miterOver (.miterAccept h)) <| .ite (.miterOver (.miterAccept h)) (.miterAccept h)
  · exact h

theorem Mach.Formed.abandonMiter {core} (h : m.Formed) : (m.abandonMiter core).Formed := by
  unfold Mach.abandonMiter
  split
  · exact h
  · exact .ite h (.freeMx (.updWarp (.updBlock h)))

theorem Mach.Formed.mirrorFail {core} (h : m.Formed) : (m.mirrorFail core).Formed := by
  unfold Mach.mirrorFail
  split
  · exact h
  dsimp only
  split
  · exact h
  refine .ite h ?_
  refine .ite (.ite h (.miterOver h)) ?_
  split
  · exact h
  · exact .freeMx (.mxFlags (.fillWith h))

theorem Yields.execMxWordEnd {core} (h : s.Formed) : Yields (execMxWordEnd core s) := .event h fun _ h1 => .mxEnd h1

theorem Yields.execMiterPhaseStart {core} (h : s.Formed) : Yields (execMiterPhaseStart core s) :=
  .event h fun _ h1 => .phaseStart h1

theorem Yields.execMiterIterationEnd {core} (h : s.Formed) : Yields (execMiterIterationEnd core s) :=
  .event h fun _ h1 => .iterationEnd h1

/-! #### The map, package reset and lost parts -/

theorem Mach.Formed.unreserve {b} (h : m.Formed) : (m.unreserve b).Formed :=
  .ite h <| .foldl (fun _ _ h1 => .grants h1) (.updBlock (.leaveCores h))

theorem Mach.Formed.freeze {id} (h : m.Formed) : (m.freeze id).Formed := by
  unfold Mach.freeze
  split
  · exact h
  refine .ite (.unreserve h) ?_
  exact .foldl (fun _ _ h1 => by
        split
        · exact .ite (.abandonMiter h1) h1
        · exact h1) <|
    .updBlock h

theorem Mach.Formed.freezeCtx {ctx} (h : m.Formed) : (m.freezeCtx ctx).Formed := .foldl (fun _ _ h1 => .freeze h1) h

theorem Mach.Formed.exhausted (h : m.Formed) : m.exhausted.Formed :=
  .ite h <| .log <| .foldl (fun _ _ h1 => .freezeCtx h1) h

theorem Mach.Formed.orderCycle (h : m.Formed) : m.orderCycle.Formed := h

theorem Mach.Formed.postEvent {kind obj idx f} (h : m.Formed) : (m.postEvent kind obj idx f).Formed :=
  .ite h <| .ite (.exhausted h) (.notice <| .ite (.orderCycle h) h)

theorem Mach.Formed.newCap (h : m.Formed) : m.newCap.Formed :=
  .ite h (.postEvent h)

theorem Mach.Formed.afterReset (h : m.Formed) : m.afterReset.Formed := h

theorem Mach.Formed.boot {r} (h : m.Formed) : (m.boot r).Formed := .afterReset h

theorem Mach.Formed.favos (h : m.Formed) : m.favos.Formed := by
  unfold Mach.favos
  split
  · exact h
  dsimp only
  split <;> exact .ite h h

theorem Mach.Formed.publish (h : m.Formed) : m.publish.Formed := h

theorem Yields.execPackageReset {r} (h : s.Formed) : Yields (execPackageReset r s) := .next (.idle (.boot h.m))

theorem Mach.Formed.retireBlocks {c} (h : m.Formed) : (m.retireBlocks c).Formed :=
  .foldl (fun _ _ h1 => .ite (.unreserve h1) (.consume h1)) h

theorem Mach.Formed.failGrid {n sub} (h : m.Formed) : (m.failGrid n sub).Formed := by
  unfold Mach.failGrid
  split
  · exact h
  · exact .ite h <| .log <| .updGrid <| .foldl (fun _ _ h1 => .updBlock h1) (.updGrid h)

theorem Mach.Formed.loseWaiting {id} (h : m.Formed) : (m.loseWaiting id).Formed := by
  unfold Mach.loseWaiting
  split
  · exact .ite (.updGrid (.updBlock h)) h
  · exact h

theorem Mach.Formed.handOver {d g} (h : m.Formed) : (m.handOver d g).Formed := by
  unfold Mach.handOver
  dsimp only
  split
  · split
    · exact .escalate h
    · exact h
  refine .ite h ?_
  split
  · exact .foldl (fun _ _ h1 => .loseWaiting h1) (.failGrid h)
  · exact .foldl (fun _ _ h1 => .updBlock h1) (.updGrid h)

theorem Mach.Formed.dieLost {d} (h : m.Formed) : (m.dieLost d).Formed :=
  .foldl (fun _ _ h1 => by
      split
      · exact .handOver h1
      · exact h1) h

theorem Mach.Formed.retireCore {d core} (h : m.Formed) : (m.retireCore d core).Formed := by
  unfold Mach.retireCore
  split
  · exact h
  refine .ite h ?_
  extract_lets m1 m2
  have h2 : m2.Formed := .retireBlocks (.updCore (.postEvent h))
  exact .ite h2 (.dieLost h2)

theorem Yields.execCoreRetired {die core} (h : s.Formed) : Yields (execCoreRetired die core s) :=
  .event h fun _ h1 => .retireCore h1

theorem Mach.Formed.poisonAll {die sub pas} (h : m.Formed) : (m.poisonAll die sub pas).Formed :=
  .foldl (fun _ _ h1 => .log (.observe (.addPoison h1))) h

theorem Mach.Formed.dropSlice {e die slice} (h : m.Formed) : (m.dropSlice e die slice).Formed := .observeIf (.dropUndoIf h)

theorem Yields.execL2SliceRetired {die slice unread} (h : s.Formed) : Yields (execL2SliceRetired die slice unread s) :=
  .event h fun _ h1 => by
    split
    · exact h1
    · exact .ite h1 (.poisonAll (.dropSlice (.postEvent h1)))

theorem Yields.execHbmChannelFailing {die chan} (h : s.Formed) : Yields (execHbmChannelFailing die chan s) :=
  .event h fun _ h1 => by
    split
    · exact h1
    · exact .ite h1 (.notice h1)

theorem Yields.execBoardCapChange {watts} (h : s.Formed) : Yields (execBoardCapChange watts s) := .event h fun _ h1 => .newCap h1

theorem Mach.Formed.grantTokens {t} (h : m.Formed) : (m.grantTokens t).Formed :=
  .ite h h

theorem Yields.execTokenGrant {temp} (h : s.Formed) : Yields (execTokenGrant temp s) := .event h fun _ h1 => .grantTokens h1

/-! #### Copies and queues -/

theorem Mach.Formed.crossed {c flits hops} (h : m.Formed) : (m.crossed c flits hops).Formed := .foldl (fun _ _ h1 => h1) h

theorem Mach.Formed.ackCrossed {a hops} (h : m.Formed) : (m.ackCrossed a hops).Formed := by
  unfold Mach.ackCrossed
  refine .ite (.crossed h) ?_
  refine .ite h ?_
  dsimp only
  split
  · exact h
  · exact .crossed h

theorem Cx.Formed.startCopy {tag kind q c1} (h : c1.Formed) : (c.startCopy tag kind q c1).Formed := .updB h

theorem State.Formed.cpy {tag kind a b} (h : c.Formed) : (c.cpy tag kind a b).Formed := by
  unfold Cx.cpy
  refine .ite (.trap h) ?_
  dsimp only
  split
  · exact .badTrap h
  · exact .settled h fun _ h1 =>
        .ofCx <| .foldl (fun _ _ h2 => .startCopy h2) <| .updB <| .upd (.park h1) fun _ h2 => .touchAll (.touchAll h2)

theorem Yields.execCpySh {h t a b} (hs : s.Formed) : Yields (execCpySh h t a b s) := .word hs fun _ h1 => .cpy h1

theorem Yields.execCpySt {h t a b} (hs : s.Formed) : Yields (execCpySt h t a b s) := .word hs fun _ h1 => .cpy h1

theorem Yields.execCpyTile {h t a b} (hs : s.Formed) : Yields (execCpyTile h t a b s) := .word hs fun _ h1 => .cpy h1

theorem Mach.Formed.copyPoison {id tag s} (h : m.Formed) : (m.copyPoison id tag s).Formed := by
  unfold Mach.copyPoison
  split
  · exact h
  · exact .updBlock (.log h)

theorem Mach.Formed.copyWrite {id q data bad} (h : m.Formed) : (m.copyWrite id q data bad).Formed :=
  .ite (.updBlock h) (.updBlock h)

theorem Mach.Formed.copyStash {id tag bad chunks prev n} (h : m.Formed) : (Mach.copyStash id tag bad chunks prev n m).1.Formed := by
  induction chunks generalizing m prev n with
  | nil => exact h
  | cons x chunks ih =>
    obtain ⟨src, va, key⟩ := x
    have hroom : (if m.roomFor id (sectorOf key) then m else m.makeRoom id).Formed := .ite h (.makeRoom h)
    unfold Mach.copyStash
    dsimp only
    split
    · refine ih ?_
      split
      · exact h
      · exact .copyPoison h
    generalize (if m.roomFor id (sectorOf key) then m else m.makeRoom id) = m1 at hroom ⊢
    split
    · exact ih (.bufferStore hroom)
    · exact hroom

theorem Mach.Formed.copyOne {id q} (h : m.Formed) : (m.copyOne id q).1.Formed := by
  unfold Mach.copyOne
  split
  · exact h
  · exact .ite_fst (.copyStash h) <| .foldl (fun _ _ h1 => .copyPoison h1) (.copyWrite h)

theorem Mach.Formed.recordCopy {id q} (h : m.Formed) : (m.recordCopy id q).Formed := by
  unfold Mach.recordCopy
  split
  · exact h
  · exact .updWarp h

theorem Mach.Formed.copyMany {id qs} (h : m.Formed) : (Mach.copyMany id qs m).1.Formed := by
  induction qs generalizing m with
  | nil => exact h
  | cons q qs ih => exact ih (.copyOne (.recordCopy h))

theorem Mach.Formed.copyEnd {id tag} (h : m.Formed) : (m.copyEnd id tag).Formed := by
  unfold Mach.copyEnd
  split
  · exact h
  refine .ite h ?_
  exact .ite (.blockExit (.tagWake (.updBlock (.copyMany (.allVisible h))))) (.updBlock (.copyMany (.allVisible h)))

theorem Yields.execCopyComplete {blk tag} (h : s.Formed) : Yields (execCopyComplete blk tag s) := .event h fun _ h1 => .copyEnd h1

theorem Mach.Formed.updQueue {q f} (h : m.Formed) : (m.updQueue q f).Formed := h

theorem Mach.Formed.cplFlush {q n} (h : m.Formed) : (m.cplFlush q n).Formed := by
  induction n generalizing m with
  | zero => exact h
  | succ n ih =>
    unfold Mach.cplFlush
    dsimp only
    split
    · exact h
    · exact .ite (ih (.updQueue (.hostWrite h))) h

theorem Mach.Formed.postCpl {q seq opcode sub status tag result tlv} (h : m.Formed) : (m.postCpl q seq opcode sub status tag result tlv).Formed :=
  .cplFlush (.updQueue h)

theorem Yields.execTimelineAdvance {ctx tl} (h : s.Formed) : Yields (execTimelineAdvance ctx tl s) :=
  .event h fun _ h1 => .tlWake (.updCtx h1)

theorem Mach.Formed.finishCmd {c sub status result tlv} (h : m.Formed) : (m.finishCmd c sub status result tlv).Formed :=
  .ite (.postCpl h) (.tlFinish (.postCpl h))

theorem Mach.Formed.acceptCmd {q seq raw} (h : m.Formed) : (m.acceptCmd q seq raw).Formed :=
  .ite (.finishCmd h) <| .ite h <| .ite (.finishCmd (.log h)) (.numberTl (.updQueue h))

theorem Mach.Formed.fetchCmds {q n} (h : m.Formed) : (m.fetchCmds q n).Formed := by
  induction n generalizing m with
  | zero => exact h
  | succ n ih =>
    unfold Mach.fetchCmds
    exact .ite h <| .ite (ih (.acceptCmd h)) (.updQueue (.postCpl h))

theorem Mach.Formed.doorbell {q v} (h : m.Formed) : (m.doorbell q v).Formed :=
  .ite h <| .ite (.fetchCmds (.updQueue h)) (.updQueue (.postCpl h))

theorem Yields.execDoorbell {q v} (h : s.Formed) : Yields (execDoorbell q v s) := .event h fun _ h1 => .doorbell h1

theorem Mach.Formed.enableQueue {q} (h : m.Formed) : (m.enableQueue q).Formed :=
  .ite (.updQueue h) h

theorem Yields.execQueueEnable {q} (h : s.Formed) : Yields (execQueueEnable q s) := .event h fun _ h1 => .enableQueue h1

theorem Mach.Formed.disableQueue {q} (h : m.Formed) : (m.disableQueue q).Formed := .updQueue h

theorem Yields.execQueueDisable {q} (h : s.Formed) : Yields (execQueueDisable q s) := .event h fun _ h1 => .disableQueue h1

theorem Mach.Formed.ringHead {i v} (h : m.Formed) : (m.ringHead i v).Formed := .ringNotes (.ringFlush h)

theorem Yields.execRingHeadWrite {ring v} (h : s.Formed) : Yields (execRingHeadWrite ring v s) :=
  .event h fun _ h1 => .ringHead h1

theorem Mach.Formed.cplHead {q v} (h : m.Formed) : (m.cplHead q v).Formed := .cplFlush (.updQueue h)

theorem Yields.execCplheadWrite {q v} (h : s.Formed) : Yields (execCplheadWrite q v s) := .event h fun _ h1 => .cplHead h1

theorem Mach.Formed.ringWrite {i off bs} (h : m.Formed) : (m.ringWrite i off bs).Formed := .ringHead h

theorem Mach.Formed.queueWrite {q off bs} (h : m.Formed) : (m.queueWrite q off bs).Formed := by
  unfold Mach.queueWrite
  extract_lets k new hits ver m1 m2 m3
  have h1 : m1.Formed := .ite h (.updQueue h)
  have h2 : m2.Formed := .ite (.ite (.enableQueue h1) (.disableQueue h1)) h1
  have h3 : m3.Formed := .ite (.doorbell h2) h2
  exact .ite (.cplHead h3) h3

theorem Mach.Formed.regWrite {off size v} (h : m.Formed) : (m.regWrite off size v).Formed :=
  .ite h <| .ite (.ringWrite h) <| .ite (.queueWrite h) h

theorem Yields.execHostRegisterWrite {off size v} (h : s.Formed) : Yields (execHostRegisterWrite off size v s) :=
  .event h fun _ h1 => .regWrite h1

/-! #### Packets, acknowledgements and retries -/

theorem Mach.Formed.logPacket {die p cause sub va pa} (h : m.Formed) : (m.logPacket die p cause sub va pa).Formed := .log h

theorem Mach.Formed.latchErr {id ch e} (h : m.Formed) : (m.latchErr id ch e).Formed := by
  unfold Mach.latchErr
  split
  · exact h
  · exact .ite (.updGrid h) (.updBlock h)

theorem Mach.Formed.chanSettle {id} (h : m.Formed) : (m.chanSettle id).Formed := .updBlock h

theorem Mach.Formed.sendPacket {id ch x dest i op len ptes latch} (h : m.Formed) : (m.sendPacket id ch x dest i op len ptes latch).Formed := by
  unfold Mach.sendPacket
  split
  · exact h
  extract_lets c u s tl way p m1 m2 ok m3 m4 m5
  have h3 : m3.Formed := Mach.Formed.foldl (fun _ _ h1 => .touch h1) h
  have h4 : m4.Formed := .ite h3 (.logPacket h3)
  refine Mach.Formed.chanSettle (m := m5) ?_
  unfold m5
  split
  · exact .log (.latchErr h4)
  · exact h4

theorem Mach.Formed.logSlot {c sub stat} (h : m.Formed) : (m.logSlot c sub stat).Formed := .log h

theorem Mach.Formed.sendContrib {id ch x} (h : m.Formed) : (m.sendContrib id ch x).Formed := by
  unfold Mach.sendContrib
  split
  · exact .chanSettle <| .ite h (.logSlot h)
  · exact h

theorem Mach.Formed.stopCopy {id ch sub va pa} (h : m.Formed) : (m.stopCopy id ch sub va pa).Formed := by
  unfold Mach.stopCopy
  split
  · exact h
  split
  · split
    · exact .copyDone (.chanSettle (.log (.latchErr (.updBlock h))))
    · exact h
  · exact h

theorem Mach.Formed.readyHead {id ch} (h : m.Formed) : (m.readyHead id ch).Formed := by
  unfold Mach.readyHead
  split
  · split
    · exact .allVisible h
    · exact h
  · exact h

theorem Mach.Formed.drewSegment {ctx op} (h : m.Formed) : (m.drewSegment ctx op).Formed := by
  unfold Mach.drewSegment
  split
  · exact .drew h
  · exact h

theorem Mach.Formed.sendHead {id ch} (h : m.Formed) : (m.sendHead id ch).Formed := by
  unfold Mach.sendHead
  dsimp only
  split
  · exact .readyHead h
  split
  · exact .readyHead h
  · exact .sendContrib (.readyHead h)
  · exact .sendPacket (.drewSegment (.readyHead h))
  · exact .ite (.stopCopy (.readyHead h)) (.addFault (.readyHead h))
  · exact .stopCopy (.readyHead h)

theorem Yields.execPacketSend {blk ch} (h : s.Formed) : Yields (execPacketSend blk ch s) := .event h fun _ h1 => .sendHead h1

theorem Mach.Formed.holdExpiry {id ch} (h : m.Formed) : (m.holdExpiry id ch).Formed := .updBlock h

theorem Yields.execMergeHoldExpiry {blk ch} (h : s.Formed) : Yields (execMergeHoldExpiry blk ch s) :=
  .event h fun _ h1 => .holdExpiry h1

theorem Mach.Formed.ch0Room {id} (h : m.Formed) : (m.ch0Room id).Formed := .updBlock h

theorem Yields.execCh0RoomEnqueue {blk} (h : s.Formed) : Yields (execCh0RoomEnqueue blk s) := .event h fun _ h1 => .ch0Room h1

theorem Yields.execEntryVisibleAtDieScope {blk seq} (h : s.Formed) : Yields (execEntryVisibleAtDieScope blk seq s) :=
  .event h fun _ h1 => .runRels (.makeVisible h1)

theorem Mach.Formed.mmioStore {cs} (h : m.Formed) : (m.mmioStore cs).Formed :=
  .foldl (fun _ _ h1 => .ite (.ite (.regWrite h1) h1) <| .ite (.regWrite <| .ite (.regWrite h1) h1) <| .ite (.regWrite h1) h1) h

theorem Mach.Formed.homeStore {s cs} (h : m.Formed) : (m.homeStore s cs).1.Formed :=
  .ite_fst (.mmioStore h) (.land h)

theorem Mach.Formed.landSegment {cs bad} (h : m.Formed) : (m.landSegment cs bad).1.Formed :=
  .foldl_fst (fun _ _ h1 => .ite_fst h1 (.homeStore h1)) <| .foldl (fun _ _ h1 => .observe (.addPoison h1)) h

theorem Mach.Formed.applyPacket {p n} (h : m.Formed) : (m.applyPacket p n).1.Formed := by
  unfold Mach.applyPacket
  dsimp only
  split
  · exact .ite_fst (.logPacket (.homeStore h)) (.homeStore h)
  · split
    · exact .logPacket (.landSegment h)
    · exact .landSegment h
  · refine .ite_fst (.logPacket h) ?_
    split
    · exact .logPacket h
    · rename_i heq
      exact .atomStep h heq
  · exact h

theorem Mach.Formed.updEsc {k f} (h : m.Formed) : (m.updEsc k f).Formed := h

theorem Mach.Formed.escRun {n} (h : m.Formed) : (m.escRun n).Formed := by
  induction n generalizing m with
  | zero => exact h
  | succ n ih =>
    unfold Mach.escRun
    split
    · exact h
    · exact ih (.applyPacket (.updEsc h))

theorem Mach.Formed.ackAgain {e p} (h : m.Formed) : (m.ackAgain e p).Formed := by
  unfold Mach.ackAgain
  dsimp only
  split <;> exact h

theorem Mach.Formed.takePacket {p} (h : m.Formed) : (m.takePacket p).Formed := by
  unfold Mach.takePacket
  dsimp only
  split
  · exact .ite (.ite (.ackAgain h) (.updEsc h)) <| .ite (.updEsc h) (.updEsc h)
  · exact .ite h <| .ite h <| .ite h h

theorem Mach.Formed.packetArrives {id} (h : m.Formed) : (m.packetArrives id).Formed := by
  unfold Mach.packetArrives
  split
  · exact h
  · exact .escRun (.takePacket (.crossed h))

theorem Yields.execEscapementPacketArrival {pkt} (h : s.Formed) : Yields (execEscapementPacketArrival pkt s) :=
  .event h fun _ h1 => .packetArrives h1

theorem Mach.Formed.recordWrite {id off bs} (h : m.Formed) : (m.recordWrite id off bs).1.Formed := by
  unfold Mach.recordWrite
  split
  · exact h
  dsimp only
  split
  · exact .foldl (fun _ _ h1 => .touch h1) (.putCells h)
  · exact .addFault h
  · exact .killGrid h

theorem Mach.Formed.packetsDone {blk s mine} (h : m.Formed) : (m.packetsDone blk s mine).Formed :=
  .foldl (fun _ _ h1 => .copyDone h1) (.updBlock h)

theorem Mach.Formed.ackStream {blk s mark n own} (h : m.Formed) : (m.ackStream blk s mark n own).Formed := by
  unfold Mach.ackStream
  extract_lets m1 m2
  have h1 : m1.Formed := by
    unfold m1
    split
    · exact .packetsDone h
    · exact h
  refine Mach.Formed.chanSettle (m := m2) ?_
  unfold m2
  split
  · exact h1
  · exact .updBlock (.packetsDone h1)

theorem Mach.Formed.fillLane {blk w seq lane vals fail bad} (h : m.Formed) : (m.fillLane blk w seq lane vals fail bad).Formed :=
  .updWarp h

theorem Mach.Formed.recordAck {blk s n err} (h : m.Formed) : (m.recordAck blk s n err).1.Formed := by
  unfold Mach.recordAck
  split
  · exact h
  refine .ite_fst h ?_
  extract_lets base i r
  have hr : r.1.Formed := by
    unfold r
    split
    · exact .recordWrite h
    · exact h
  split
  · exact .ite_fst (.recordWrite (.recordWrite (.recordWrite hr))) hr
  · exact hr

theorem Mach.Formed.takeAck {a} (h : m.Formed) : (m.takeAck a).1.Formed := by
  unfold Mach.takeAck
  split
  · refine .ite_fst (.recordAck h) (.ackStream ?_)
    split
    · exact .latchErr (.recordAck h)
    · exact .recordAck h
  · exact .updBlock h
  · refine .ite_fst (.recordAck h) (.ackStream (.fillLane (.ite ?_ (.recordAck h))))
    split
    · exact .updGrid (.recordAck h)
    · exact .recordAck h
  · refine .chanSettle (.setHeldCon (.updBlock (.fillLane (.ite ?_ h))))
    split
    · exact .ite (.updGrid h) h
    · exact h

theorem Mach.Formed.reroute {a} (h : m.Formed) : (m.reroute a).1.Formed := by
  unfold Mach.reroute
  split
  · refine .ite_fst h ?_
    split
    · exact .logSlot h
    · exact h
  · exact h

theorem Mach.Formed.ackArrives {i} (h : m.Formed) : (m.ackArrives i).Formed := by
  unfold Mach.ackArrives
  split
  · exact h
  refine .ite h ?_
  refine .ite (.ite_fst (.reroute h) (.takeAck (.ackCrossed (.reroute h)))) ?_
  exact .ite_fst (.reroute h) (.takeAck (.ackCrossed (.reroute h)))

theorem Yields.execStreamAck {ack} (h : s.Formed) : Yields (execStreamAck ack s) := .event h fun _ h1 => .ackArrives h1

theorem Mach.Formed.failPacket {p} (h : m.Formed) : (m.failPacket p).Formed := .logPacket h

theorem Mach.Formed.sendAgain {p} (h : m.Formed) : (m.sendAgain p).Formed := by
  unfold Mach.sendAgain
  split
  · exact h
  · exact .failPacket h

theorem Mach.Formed.startRetry {id ch} (h : m.Formed) : (m.startRetry id ch).Formed := by
  unfold Mach.startRetry
  split
  · exact h
  · exact .foldl (fun _ _ h1 => .sendAgain h1) (.updBlock h)

theorem Yields.execStartRetry {blk ch} (h : s.Formed) : Yields (execStartRetry blk ch s) := .event h fun _ h1 => .startRetry h1

theorem Mach.Formed.escFree {i} (h : m.Formed) : (m.escFree i).Formed := by
  unfold Mach.escFree
  split
  · exact h
  · exact .ite h h

theorem Yields.execEscapementContextFree {esc} (h : s.Formed) : Yields (execEscapementContextFree esc s) :=
  .event h fun _ h1 => .escFree h1

theorem Mach.Formed.resendCopy {id} (h : m.Formed) : (m.resendCopy id).Formed := h

theorem Mach.Formed.resend {id} (h : m.Formed) : (m.resend id).Formed := by
  unfold Mach.resend
  split
  · exact .sendAgain h
  split
  · exact h
  · exact .resendCopy h

theorem Yields.execRetentionResend {pkt} (h : s.Formed) : Yields (execRetentionResend pkt s) := .event h fun _ h1 => .resend h1

theorem Mach.Formed.sendAll {id ch n} (h : m.Formed) : (m.sendAll id ch n).Formed := by
  induction n generalizing m with
  | zero => exact h
  | succ n ih =>
    unfold Mach.sendAll
    split
    · exact h
    split
    · exact h
    · exact .sendHead h
    · exact ih (.sendHead h)

/-! #### Predicates and lanes -/

theorem Yields.execPlop {h p f q r n} (hs : s.Formed) : Yields (execPlop h p f q r n s) :=
  .word hs fun _ h1 => .ofCx (.shortPred h1)

theorem Yields.execP2v {h d} (hs : s.Formed) : Yields (execP2v h d s) := .word hs fun _ h1 => .ofCx (.short h1)

theorem Yields.execV2p {h a} (hs : s.Formed) : Yields (execV2p h a s) :=
  .word hs fun _ h1 => .ofCx <| .foldl (fun _ _ h2 => .shortPred h2) h1

theorem Yields.execShape {h d a} (hs : s.Formed) : Yields (execShape h d a s) := .word hs fun _ h1 => .ofCx (.long h1)

theorem Yields.execUnif {h d a} (hs : s.Formed) : Yields (execUnif h d a s) := .word hs fun _ h1 => .ofCx (.long h1)

theorem State.Formed.shuffle {d a b pf src} (h : c.Formed) : (c.shuffle d a b pf src).Formed := .ofCx (.long h)

theorem Yields.execShflLane {h d a b pf} (hs : s.Formed) : Yields (execShflLane h d a b pf s) := .word hs fun _ h1 => .shuffle h1

theorem Yields.execShflSwap {h d a b pf} (hs : s.Formed) : Yields (execShflSwap h d a b pf s) := .word hs fun _ h1 => .shuffle h1

theorem Yields.execShflBelow {h d a b pf} (hs : s.Formed) : Yields (execShflBelow h d a b pf s) :=
  .word hs fun _ h1 => .shuffle h1

theorem Yields.execShflAbove {h d a b pf} (hs : s.Formed) : Yields (execShflAbove h d a b pf s) :=
  .word hs fun _ h1 => .shuffle h1

theorem State.Formed.votePred {p v} (h : c.Formed) : (c.votePred p v).Formed := .ofCx (.enter h)

theorem Yields.execVoteAll {h q p} (hs : s.Formed) : Yields (execVoteAll h q p s) := .word hs fun _ h1 => .votePred h1

theorem Yields.execVoteAny {h q p} (hs : s.Formed) : Yields (execVoteAny h q p s) := .word hs fun _ h1 => .votePred h1

theorem Yields.execVoteEq {h q p} (hs : s.Formed) : Yields (execVoteEq h q p s) := .word hs fun _ h1 => .votePred h1

theorem Yields.execVoteBallotLo {h d q} (hs : s.Formed) : Yields (execVoteBallotLo h d q s) :=
  .word hs fun _ h1 => .ofCx (.long h1)

theorem Yields.execVoteBallotHi {h d q} (hs : s.Formed) : Yields (execVoteBallotHi h d q s) :=
  .word hs fun _ h1 => .ofCx (.long h1)

theorem Yields.execMatchW {h d a} (hs : s.Formed) : Yields (execMatchW h d a s) := .word hs fun _ h1 => .ofCx (.long h1)

theorem Yields.execRedw {h d a b} (hs : s.Formed) : Yields (execRedw h d a b s) := .word hs fun _ h1 => .ofCx (.flags (.long h1))

/-! #### Links, planes and ports -/

theorem Mach.Formed.updDir {line f} (h : m.Formed) : (m.updDir line f).Formed := h

theorem Mach.Formed.suspectLine {line} (h : m.Formed) : (m.suspectLine line).Formed := .updDir (.observeIf (.dropUndoIf h))

theorem Mach.Formed.remap {old lost acks} (h : m.Formed) : (m.remap old lost acks).Formed :=
  .foldl (fun _ _ h1 => .suspectLine h1) <| .foldl (fun _ _ h1 => .poisonAll h1) h

theorem Mach.Formed.loseAck {a} (h : m.Formed) : (m.loseAck a).Formed := by
  unfold Mach.loseAck
  split <;> exact h

theorem Mach.Formed.dropOn {old dead} (h : m.Formed) : (m.dropOn old dead).Formed := .foldl (fun _ _ h1 => .loseAck h1) h

theorem Mach.Formed.announceLoss {i} (h : m.Formed) : (m.announceLoss i).Formed := h

theorem Mach.Formed.loseLink {i lost acks} (h : m.Formed) : (m.loseLink i lost acks).Formed :=
  .ite h (.announceLoss (.remap (.dropOn (.postEvent h))))

theorem Yields.execLinkLost {l} (h : s.Formed) : Yields (execLinkLost l s) := .event h fun _ h1 => .loseLink h1

theorem Mach.Formed.dropLink {i} (h : m.Formed) : (m.dropLink i).Formed := .loseLink h

theorem Yields.execLinkSilenceTimeout {link} (h : s.Formed) : Yields (execLinkSilenceTimeout link s) :=
  .event h fun _ h1 => .ite (.dropLink h1) h1

theorem Mach.Formed.halveLink {i} (h : m.Formed) : (m.halveLink i).Formed :=
  .ite h <| .ite (.postEvent h) (.dropLink h)

theorem Yields.execLinkHalving {link} (h : s.Formed) : Yields (execLinkHalving link s) := .event h fun _ h1 => .halveLink h1

theorem Mach.Formed.updSlot {plane slot f} (h : m.Formed) : (m.updSlot plane slot f).Formed := h

theorem Mach.Formed.refuseContrib {c} (h : m.Formed) : (m.refuseContrib c).Formed := .logSlot h

theorem Mach.Formed.slotGone {plane slot} (h : m.Formed) : (m.slotGone plane slot).Formed :=
  .ite (.foldl (fun _ _ h1 => .refuseContrib h1) (.updSlot h)) h

theorem Mach.Formed.losePlane {p lost acks} (h : m.Formed) : (m.losePlane p lost acks).Formed :=
  .ite h <| .announceLoss <| .foldl (fun _ _ h1 => .slotGone h1) (.remap (.dropOn (.postEvent h)))

theorem Yields.execPlaneLost {l} (h : s.Formed) : Yields (execPlaneLost l s) := .event h fun _ h1 => .losePlane h1

theorem Mach.Formed.losePort {port} (h : m.Formed) : (m.losePort port).Formed := by
  unfold Mach.losePort
  split
  · exact h
  · exact .ite h <| .foldl (fun _ _ h1 => .failPacket h1) (.postEvent h)

theorem Yields.execPortLost {port} (h : s.Formed) : Yields (execPortLost port s) := .event h fun _ h1 => .losePort h1

theorem Mach.Formed.logFlit {k pa} (h : m.Formed) : (m.logFlit k pa).Formed :=
  .ite h (.log h)

theorem Mach.Formed.copyLost {blk tag s} (h : m.Formed) : (m.copyLost blk tag s).Formed := .updBlock h

theorem Mach.Formed.askLost {on blk tag pa} (h : m.Formed) : (m.askLost on blk tag pa).Formed := by
  unfold Mach.askLost
  dsimp only
  split
  · exact h
  · exact .ite h h

theorem Mach.Formed.flitLost {k l} (h : m.Formed) : (m.flitLost k l).Formed := by
  unfold Mach.flitLost
  dsimp only
  split
  · exact h
  · exact .poisonAll h
  · exact .logFlit h
  · exact .copyLost (.logFlit h)
  · exact .askLost (.logFlit h)
  · exact .ite (.updDir (.suspectLine (.logFlit h))) (.logFlit h)
  · exact .ite (.updDir (.logFlit h)) (.logFlit h)
  · exact .logFlit h
  · exact .logFlit h
  · split
    · exact .ite (.loseAck (.logFlit h)) (.logFlit h)
    · exact .logFlit h
  · split <;> exact .logFlit h

theorem Mach.Formed.flitReplay {k l} (h : m.Formed) : (m.flitReplay k l).Formed :=
  .ite h <| .ite (.flitLost h) h

theorem Yields.execFlitReplayRequest {at_ loss} (h : s.Formed) : Yields (execFlitReplayRequest at_ loss s) :=
  .event h fun _ h1 => .flitReplay h1

theorem Mach.Formed.suspectTimeout {line} (h : m.Formed) : (m.suspectTimeout line).Formed :=
  .ite (.poisonAll (.updDir h)) h

theorem Yields.execSuspectAckTimeout {line} (h : s.Formed) : Yields (execSuspectAckTimeout line s) :=
  .event h fun _ h1 => .suspectTimeout h1

theorem Mach.Formed.reissue {line} (h : m.Formed) : (m.reissue line).Formed :=
  .ite (.updDir h) h

theorem Yields.execCoherenceReissueTimeout {line} (h : s.Formed) : Yields (execCoherenceReissueTimeout line s) :=
  .event h fun _ h1 => .reissue h1

theorem Mach.Formed.mgmtResend {link} (h : m.Formed) : (m.mgmtResend link).Formed := h

theorem Yields.execManagementResendTimeout {link} (h : s.Formed) : Yields (execManagementResendTimeout link s) :=
  .event h fun _ h1 => .mgmtResend h1

theorem Yields.execBufferLimitRecompute {link toB} (h : s.Formed) : Yields (execBufferLimitRecompute link toB s) :=
  .event h fun _ h1 => h1

theorem Yields.execBufferLimitAnnounce {link toB} (h : s.Formed) : Yields (execBufferLimitAnnounce link toB s) :=
  .event h fun _ h1 => h1

theorem Mach.Formed.fabricTick (h : m.Formed) : m.fabricTick.Formed :=
  .ite h h

theorem Mach.Formed.linkLostArrives {link} (h : m.Formed) : (m.linkLostArrives link).Formed := h

theorem Yields.execLinklost {link} (h : s.Formed) : Yields (execLinklost link s) := .event h fun _ h1 => .linkLostArrives h1

/-! #### Exchanges and reduction slots -/

theorem Mach.Formed.updPair {src dst f} (h : m.Formed) : (m.updPair src dst f).Formed := h

theorem Mach.Formed.replayPair {src dst got} (h : m.Formed) : (m.replayPair src dst got).Formed :=
  .foldl (fun _ _ h1 => by
      dsimp only
      split
      · exact .foldl (fun _ _ h2 => .sendAgain h2) h1
      split
      · exact h1
      · exact .foldl (fun _ _ h2 => .sendAgain h2) h1) h

theorem Mach.Formed.exchangeCheck {src dst} (h : m.Formed) : (m.exchangeCheck src dst).Formed := by
  unfold Mach.exchangeCheck
  split
  · exact .ite (.updPair (.replayPair h)) h
  · exact h

theorem Mach.Formed.routesReady {src dst} (h : m.Formed) : (m.routesReady src dst).Formed := by
  unfold Mach.routesReady
  split
  · exact .ite (.exchangeCheck (.updPair h)) h
  · exact h

theorem Yields.execRoutesRecomputed {src dst} (h : s.Formed) : Yields (execRoutesRecomputed src dst s) :=
  .event h fun _ h1 => .routesReady h1

theorem Mach.Formed.delivered {src dst i} (h : m.Formed) : (m.delivered src dst i).Formed := by
  unfold Mach.delivered
  split
  · exact h
  refine .ite h ?_
  split
  · exact .ite (.exchangeCheck h) (.exchangeCheck (.updPair h))
  · exact .exchangeCheck h

theorem Yields.execDelivered {src dst strm} (h : s.Formed) : Yields (execDelivered src dst strm s) :=
  .event h fun _ h1 => .delivered h1

theorem Mach.Formed.exchangeExpired {src dst} (h : m.Formed) : (m.exchangeExpired src dst).Formed := by
  unfold Mach.exchangeExpired
  split
  · exact h
  · exact .ite h <| .foldl (fun _ _ h1 => .failPacket h1) h

theorem Yields.execExchangeTimeout {src dst} (h : s.Formed) : Yields (execExchangeTimeout src dst s) :=
  .event h fun _ h1 => .exchangeExpired h1

theorem Mach.Formed.syncDone {src dst} (h : m.Formed) : (m.syncDone src dst).Formed := h

theorem Yields.execSyncdone {src dst} (h : s.Formed) : Yields (execSyncdone src dst s) := .event h fun _ h1 => .syncDone h1

theorem Mach.Formed.completeSlot {plane slot at_} (h : m.Formed) : (m.completeSlot plane slot at_).Formed := h

theorem Mach.Formed.slotDeadline {plane slot} (h : m.Formed) : (m.slotDeadline plane slot).Formed :=
  .ite (.completeSlot h) h

theorem Yields.execSlotDeadline {plane slot} (h : s.Formed) : Yields (execSlotDeadline plane slot s) :=
  .event h fun _ h1 => .slotDeadline h1

theorem Mach.Formed.slotFree {plane slot} (h : m.Formed) : (m.slotFree plane slot).Formed :=
  .ite (.updSlot h) h

theorem Yields.execSlotFree {plane slot} (h : s.Formed) : Yields (execSlotFree plane slot s) := .event h fun _ h1 => .slotFree h1

theorem Mach.Formed.countContrib {plane slot i c} (h : m.Formed) : (m.countContrib plane slot i c).Formed :=
  .ite (.completeSlot (.updSlot h)) (.updSlot h)

theorem Mach.Formed.contribute {c} (h : m.Formed) : (m.contribute c).Formed := by
  have h1 {plane slot} : ((m.slotDeadline plane slot).slotFree plane slot).Formed := .slotFree (.slotDeadline h)
  unfold Mach.contribute
  refine .ite (.refuseContrib h) ?_
  refine .ite (.ite (.setAcks h1) h1) ?_
  refine .ite (.countContrib (.updSlot h1)) ?_
  refine .ite (.logSlot (.setAcks h1)) ?_
  exact .ite (.refuseContrib h1) (.countContrib h1)

theorem Mach.Formed.contribArrives {id} (h : m.Formed) : (m.contribArrives id).Formed := by
  unfold Mach.contribArrives
  split
  · exact h
  · exact .contribute (.crossed h)

theorem Yields.execSlotContribution {rr} (h : s.Formed) : Yields (execSlotContribution rr s) :=
  .event h fun _ h1 => .contribArrives h1

theorem Yields.execLongResultArrival {blk warp seq} (h : s.Formed) : Yields (execLongResultArrival blk warp seq s) :=
  .event h fun _ h1 => .arrive h1

/-! #### The Cellar's transfers -/

theorem Mach.Formed.coreTrapPath {c i q cause sub lanes} (h : m.Formed) : (m.coreTrapPath c i q cause sub lanes).Formed := by
  unfold Mach.coreTrapPath
  split
  · exact .trapEntry (.updLanes h)
  · exact h

theorem Mach.Formed.coreTrap {c i q cause sub} (h : m.Formed) : (m.coreTrap c i q cause sub).Formed := by
  unfold Mach.coreTrap
  split
  · exact h
  · exact .foldl (fun _ _ h1 => .ite h1 (.coreTrapPath h1)) h

theorem Mach.Formed.claimNext {c i} (h : m.Formed) : (m.claimNext c i).Formed := by
  unfold Mach.claimNext
  split
  · exact h
  · exact .ite h <| .ite (.grants (.coreTrap (.updBank h))) (.coreTrap (.updBank h))

theorem Mach.Formed.cellarStuck {c i} (h : m.Formed) : (m.cellarStuck c i).Formed := by
  unfold Mach.cellarStuck
  dsimp only
  split
  · exact .claimNext (.updBank h)
  · exact .grants (.coreTrap (.updBank h))
  · exact .grants (.updBank h)

theorem Mach.Formed.cellarNext {c i} (h : m.Formed) : (m.cellarNext c i).Formed := by
  unfold Mach.cellarNext
  refine .ite h ?_
  split
  · exact .updBank h
  refine .ite (.grants h) ?_
  split
  · exact .updBank h
  · exact .cellarStuck (.updBank h)

theorem Mach.Formed.cellarStart {c} (h : m.Formed) : (m.cellarStart c).Formed :=
  .ite h <| .ite (.cellarNext (.updBank h)) (.claimNext h)

theorem Yields.execCellarStart {core} (h : s.Formed) : Yields (execCellarStart core s) := .event h fun _ h1 => .cellarStart h1

theorem Mach.Formed.slotsOpen {b w f n} (h : m.Formed) : (m.slotsOpen b w f n).1.Formed := by
  unfold Mach.slotsOpen
  dsimp only
  split
  · exact .killGrid h
  · exact h
  · exact .addFault h
  · exact .killGrid h

theorem Mach.Formed.slotsWritten {ctx slots} (h : m.Formed) : (m.slotsWritten ctx slots).Formed :=
  .drew <| .foldl (fun _ _ h1 => .putCells h1) h

theorem Mach.Formed.spillDone {c} (h : m.Formed) : (m.spillDone c).Formed := by
  unfold Mach.spillDone
  dsimp only
  split
  · exact h
  split
  · refine .ite (.cellarNext (.updBank h)) ?_
    refine .ite h ?_
    split
    · exact .slotsOpen h
    · exact .cellarNext <|
        .grants <| .updBank <| .updWarp <| .slotsWritten <| .updBlock <| .foldl (fun _ _ h1 => .touch h1) (.slotsOpen h)
  · exact .cellarNext (.updBank h)

theorem Yields.execCellarSpillComplete {core} (h : s.Formed) : Yields (execCellarSpillComplete core s) :=
  .event h fun _ h1 => .spillDone h1

theorem Mach.Formed.fillDone {c} (h : m.Formed) : (m.fillDone c).Formed := by
  unfold Mach.fillDone
  dsimp only
  split
  · exact h
  split
  · split
    · exact .slotsOpen h
    · exact .drew <| .updBank <| .updWarp <| .foldl (fun _ _ h1 => .touch h1) (.slotsOpen h)
  · exact .updBank h

theorem Yields.execCellarFillComplete {core} (h : s.Formed) : Yields (execCellarFillComplete core s) :=
  .event h fun _ h1 => .fillDone h1

/-! #### Replays, soft errors and host accesses -/

theorem Mach.Formed.forgetFaults (h : m.Formed) : m.forgetFaults.Formed := h

theorem Mach.Formed.replayWord {b w path recs} (h : m.Formed) : (m.replayWord b w path recs).Formed :=
  .ite (.updLanes h) (.trapEntry (.updWarp (.log (.updLanes h))))

theorem Mach.Formed.replayFrame {b w path t stop recs} (h : m.Formed) : (m.replayFrame b w path t stop recs).Formed := by
  unfold Mach.replayFrame
  split
  · exact .killGrid h
  · exact .deliver h

theorem Mach.Formed.subwarpReplay {blk warp lane} (h : m.Formed) : (m.subwarpReplay blk warp lane).Formed := by
  unfold Mach.subwarpReplay
  split
  · refine .ite h ?_
    exact .forgetFaults <| by
        split
        · exact .replayWord h
        · exact .replayFrame h
        · exact .replayFrame h
        · exact h
  · exact h

theorem Yields.execSubwarpReplay {blk warp lane} (h : s.Formed) : Yields (execSubwarpReplay blk warp lane s) :=
  .event h fun _ h1 => .subwarpReplay h1

theorem Mach.Formed.softError {blk warp sub lanes} (h : m.Formed) : (m.softError blk warp sub lanes).Formed := by
  unfold Mach.softError
  split
  · exact h
  refine .ite h ?_
  refine .ite (.consume h) ?_
  refine .ite ?_ ?_
  · exact .foldl (fun _ _ h1 => by
          split
          · exact .ite (.mirrorFail h1) h1
          · exact h1) h
  · exact .ite (.consume h) h

theorem Yields.execSoftErrorDetected {blk warp sub lanes} (h : s.Formed) : Yields (execSoftErrorDetected blk warp sub lanes s) :=
  .event h fun _ h1 => .softError h1

theorem Yields.execMemoryEccError {pa} (h : s.Formed) : Yields (execMemoryEccError pa s) :=
  .event h fun _ h1 => .ite (.poisonAll h1) h1

theorem Mach.Formed.snoopInFlight {line} (h : m.Formed) : (m.snoopInFlight line).Formed :=
  .setL1Bad (.foldl (fun _ _ h1 => .observe h1) (.dropUndo h))

theorem Yields.execSnoopWritebackInFlight {line} (h : s.Formed) : Yields (execSnoopWritebackInFlight line s) :=
  .event h fun _ h1 => .snoopInFlight h1

theorem Mach.Formed.spoilRecords {cs} (h : m.Formed) : (m.spoilRecords cs).Formed := h

theorem Mach.Formed.hostStore {pa bs} (h : m.Formed) : (m.hostStore pa bs).Formed :=
  .spoilRecords <| .foldl (fun _ _ h1 => .land h1) h

theorem Mach.Formed.hostAccess {write pa len bs} (h : m.Formed) : (m.hostAccess write pa len bs).Formed :=
  .ite h <| .ite (.log h) <| .ite (.hostStore h) h

theorem Yields.execHostMemAccess {write pa len bytes} (h : s.Formed) : Yields (execHostMemAccess write pa len bytes s) :=
  .event h fun _ h1 => .hostAccess h1

/-! #### A step of the machine -/

theorem Mach.Formed.watchCore {c} (h : m.Formed) : (m.watchCore c).Formed := .updCore h

theorem Mach.Formed.watch (h : m.Formed) : m.watch.Formed := .foldl (fun _ _ h1 => .watchCore h1) h

theorem Yields.runWords {ex ws} (hex : ∀ i s, s.Formed → Yields (ex i s)) (hs : s.Formed) : Yields (runWords ex ws s) := by
  induction ws generalizing s with
  | nil => exact .next hs
  | cons g ws ih =>
    have hg : Yields (Machine.shadowed ex g (s.atWord g) (ex g.instr (s.atWord g))) := .shadowed (.atWord hs) (hex _ _ (.atWord hs))
    unfold Machine.runWords
    split
    · rename_i t heq
      split
      · exact ih (hg t heq)
      · exact .next (hg t heq)
    · exact hg

/-- A path's issue ends its group: what it leaves is its word's machine, or the one a wait leaves (R101). -/
theorem Keeps.issue {ex b w p o second} (hex : ∀ i s, s.Formed → Yields (ex i s)) (h : FormKept s) :
    Keeps (State.issue ex s b w p o second) := by
  have hstart : (s.m.start b w p o second).Formed := Mach.Formed.start h.1
  unfold State.issue
  split
  · rename_i m1 heq
    rw [heq] at hstart
    exact .next (.finish hstart)
  · rename_i m1 i ws heq
    rw [heq] at hstart
    have hrun : Yields (runWords ex ws { s with m := m1, iss := some i }) :=
      .runWords hex ⟨hstart.1, fun _ e => Option.some.inj e ▸ hstart.2⟩
    split
    · rename_i t ht
      have ht := hrun t ht
      refine .next ?_
      split
      · rename_i m2 hw
        obtain ⟨k, hk, hwait⟩ := Option.bind_eq_some_iff.mp hw
        exact .finish ((ht.iss k hk).wait m2 hwait)
      · exact .finish (State.Formed.recorded ht).m
    · rename_i hno
      exact fun t e => absurd e (hno t)

theorem Yields.keeps_onNext {o f} (ho : Yields o) (hf : ∀ s, s.Formed → FormKept (f s)) : Keeps (onNext o f) := by
  unfold Machine.onNext
  split
  · exact .next (hf _ (ho _ rfl))
  · rename_i hno
    exact fun t e => absurd e (hno t)

theorem Keeps.onNext {o f} (ho : Keeps o) (hf : ∀ s, FormKept s → FormKept (f s)) : Keeps (onNext o f) := by
  unfold Machine.onNext
  split
  · exact .next (hf _ (ho _ rfl))
  · exact ho

theorem FormKept.tick {gate} (h : FormKept s) : FormKept (s.tick gate) :=
  ⟨Mach.Formed.watch (.fabricTick (.favos (.publish (.balanceAll (.endFront (.giveAway h.1)))))), h.2⟩

theorem Mach.Formed.unstall (h : m.Formed) : m.unstall.Formed := h

theorem Keeps.happen {ex e} (hex : ∀ i s, s.Formed → Yields (ex i s)) (h : FormKept s) : Keeps (State.happen ex s e) :=
  (hex e _ (.idle h.1)).keeps_onNext fun _ h1 => ⟨Mach.Formed.regroup (.unstall h1.m), rfl⟩

theorem Keeps.issueSecond {ex gate id w lanes} (hex : ∀ i s, s.Formed → Yields (ex i s)) (h : FormKept s) :
    Keeps (State.issueSecond ex gate s id w lanes) := by
  have h1 : FormKept { s with m := { s.m with front := s.m.front.map fun f => { f with second := none } } } := h
  unfold State.issueSecond
  split
  · split
    · exact .onNext (.issue hex h1) fun _ h2 => h2.tick
    · exact .next h1.tick
  · exact .next h1.tick

theorem Keeps.issuePick {ex gate p} (hex : ∀ i s, s.Formed → Yields (ex i s)) (hp : p.m.Formed) (h : FormKept s) :
    Keeps (State.issuePick ex gate s p) := by
  have h1 : Keeps (State.issue ex { s with m := { p.m with front := some p.front } } p.b p.w p.first.1 p.first.2 false) :=
    .issue hex ⟨hp, h.2⟩
  unfold State.issuePick
  split
  · exact .onNext h1 fun _ h2 => h2.tick
  · exact h1

theorem Keeps.internal {ex gate e rest} (hex : ∀ i s, s.Formed → Yields (ex i s)) (h : FormKept s) (hrest : Keeps rest) :
    Keeps (State.internal ex gate s e rest) := by
  unfold State.internal
  split
  · exact .onNext (.happen hex h) fun _ h1 => h1.tick
  · exact hrest

theorem Keeps.choose {ex gate own} (hex : ∀ i s, s.Formed → Yields (ex i s)) (h : FormKept s) : Keeps (State.choose ex gate own s) := by
  have h1 : FormKept { s with m := s.m.unpicked gate } := ⟨Mach.Formed.unpicked h.1, h.2⟩
  unfold State.choose
  refine .ite ?_ (.internal hex h ?_)
  · split
    · rename_i p hp
      exact .issuePick hex (Mach.Formed.pick h.1 hp) h
    · exact .internal hex h1 (.next h1.tick)
  · split
    · rename_i p hp
      exact .issuePick hex (Mach.Formed.pick h.1 hp) h
    · exact .next h1.tick

theorem Keeps.cycle {ex gate due own} (hex : ∀ i s, s.Formed → Yields (ex i s)) (h : FormKept s) : Keeps (State.cycle ex gate due own s) := by
  unfold State.cycle
  split
  · exact .issueSecond hex h
  split
  · exact .happen hex (s := { s with inputs := _ }) h
  split
  · exact .happen hex h
  · exact .choose hex h

/-! #### Integer words -/

theorem State.Formed.addSub {d a b m sub pf} (h : c.Formed) : (c.addSub d a b m sub pf).Formed :=
  .ofCx <| .ite (.map2 h) (.short h)

theorem Yields.execIadd {h d a b m pf} (hs : s.Formed) : Yields (execIadd h d a b m pf s) := .word hs fun _ h1 => .addSub h1

theorem Yields.execIsub {h d a b m pf} (hs : s.Formed) : Yields (execIsub h d a b m pf s) := .word hs fun _ h1 => .addSub h1

theorem Yields.execIaddi {h d a i pf} (hs : s.Formed) : Yields (execIaddi h d a i pf s) := .word hs fun _ h1 => .ofCx (.short h1)

theorem Yields.execImul {h d a b m} (hs : s.Formed) : Yields (execImul h d a b m s) := .word hs fun _ h1 => .ofCx (.short h1)

theorem Yields.execImulh {h d a b m pf} (hs : s.Formed) : Yields (execImulh h d a b m pf s) :=
  .word hs fun _ h1 => .ofCx (.map2 h1)

theorem Yields.execImad {h d a b m pf} (hs : s.Formed) : Yields (execImad h d a b m pf s) :=
  .word hs fun _ h1 => .ofCx (.short h1)

theorem Yields.execImin {h d a b m pf} (hs : s.Formed) : Yields (execImin h d a b m pf s) := .word hs fun _ h1 => .ofCx (.map2 h1)

theorem Yields.execImax {h d a b m pf} (hs : s.Formed) : Yields (execImax h d a b m pf s) := .word hs fun _ h1 => .ofCx (.map2 h1)

theorem Yields.execIaddw {h d a b m} (hs : s.Formed) : Yields (execIaddw h d a b m s) := .word hs fun _ h1 => .ofCx (.short64 h1)

theorem Yields.execIsubw {h d a b m} (hs : s.Formed) : Yields (execIsubw h d a b m s) := .word hs fun _ h1 => .ofCx (.short64 h1)

theorem Yields.execShlw {h d a b m} (hs : s.Formed) : Yields (execShlw h d a b m s) := .word hs fun _ h1 => .ofCx (.short64 h1)

theorem Yields.execIsetp {h p k a b m pf} (hs : s.Formed) : Yields (execIsetp h p k a b m pf s) :=
  .word hs fun _ h1 => .ofCx (.shortPred h1)

theorem Yields.execIsetpw {h p k a b m pf} (hs : s.Formed) : Yields (execIsetpw h p k a b m pf s) :=
  .word hs fun _ h1 => .ofCx (.shortPred h1)

theorem Yields.execAnd {h d a b m} (hs : s.Formed) : Yields (execAnd h d a b m s) := .word hs fun _ h1 => .ofCx (.map2 h1)

theorem Yields.execOr {h d a b m} (hs : s.Formed) : Yields (execOr h d a b m s) := .word hs fun _ h1 => .ofCx (.map2 h1)

theorem Yields.execXor {h d a b m} (hs : s.Formed) : Yields (execXor h d a b m s) := .word hs fun _ h1 => .ofCx (.map2 h1)

theorem Yields.execLop3 {h d a b m pf} (hs : s.Formed) : Yields (execLop3 h d a b m pf s) :=
  .word hs fun _ h1 => .ofCx (.short h1)

theorem Yields.execShl {h d a b m} (hs : s.Formed) : Yields (execShl h d a b m s) := .word hs fun _ h1 => .ofCx (.short h1)

theorem Yields.execShr {h d a b m} (hs : s.Formed) : Yields (execShr h d a b m s) := .word hs fun _ h1 => .ofCx (.map2 h1)

theorem Yields.execSar {h d a b m} (hs : s.Formed) : Yields (execSar h d a b m s) := .word hs fun _ h1 => .ofCx (.map2 h1)

theorem Yields.execRot {h d a b m} (hs : s.Formed) : Yields (execRot h d a b m s) := .word hs fun _ h1 => .ofCx (.map2 h1)

theorem Yields.execPopc {h d a} (hs : s.Formed) : Yields (execPopc h d a s) := .word hs fun _ h1 => .ofCx (.map1 h1)

theorem Yields.execClz {h d a} (hs : s.Formed) : Yields (execClz h d a s) := .word hs fun _ h1 => .ofCx (.map1 h1)

theorem Yields.execBrev {h d a} (hs : s.Formed) : Yields (execBrev h d a s) := .word hs fun _ h1 => .ofCx (.map1 h1)

theorem Yields.execBfx {h d a b m} (hs : s.Formed) : Yields (execBfx h d a b m s) := .word hs fun _ h1 => .ofCx (.map2 h1)

theorem Yields.execBfi {h d a b pf} (hs : s.Formed) : Yields (execBfi h d a b pf s) := .word hs fun _ h1 => .ofCx (.short h1)

theorem Yields.execMov {h d a} (hs : s.Formed) : Yields (execMov h d a s) := .word hs fun _ h1 => .ofCx (.short h1)

theorem Yields.execMovi {h d i pf} (hs : s.Formed) : Yields (execMovi h d i pf s) := .word hs fun _ h1 => .ofCx (.short h1)

theorem Yields.execNop {h} (hs : s.Formed) : Yields (execNop h s) := .word hs fun _ h1 => h1.s

/-! #### Escapement words -/

theorem State.Formed.withChan {ch k} (hc : c.Formed) (hk : k.Formed) : (c.withChan ch k).Formed :=
  .ite (.trap hc) hk

theorem Yields.execRld {h a r x} (hs : s.Formed) : Yields (execRld h a r x s) :=
  .word hs fun _ h1 => .checked h1 fun _ _ h2 => .ofCx (.loadEntry (.touched h2))

theorem Yields.execRst {h ch a r x} (hs : s.Formed) : Yields (execRst h ch a r x s) :=
  .word hs fun _ h1 =>
    .withChan h1 <|
    .checked h1 fun _ _ h2 =>
      .settled h2 fun _ h3 => .ite (.ofCx <| .updB <| .touched <| .upd h3 fun _ h4 => .ch0First h4) (.stall h3)

theorem Yields.execRatom {h ch a r x} (hs : s.Formed) : Yields (execRatom h ch a r x s) :=
  .word hs fun _ h1 =>
    .withChan h1 <|
    .checked h1 fun _ _ h2 =>
      .settled h2 fun _ h3 => .ite (.stall h3) <| .ofCx <| .enter <| .updB <| .touched <| .upd h3 fun _ h4 => .ch0First h4

theorem Yields.execRred {h ch a r x} (hs : s.Formed) : Yields (execRred h ch a r x s) :=
  .word hs fun _ h1 =>
    .withChan h1 <| by
      split
      · exact .trap h1
      · exact .ite (.stall h1) <| .ofCx <| .enter <| .updB <| .upd h1 fun _ h2 => .ch0First h2

theorem Yields.execCpyr {h t a b} (hs : s.Formed) : Yields (execCpyr h t a b s) := by
  unfold Machine.execCpyr
  exact .word hs fun _ h1 =>
      .ite (.trap h1) <|
      .withChan h1 <| .ite (.trap h1) <|
      .ite (.trap h1) <|
      .ite (.trap h1) <|
      .ite (.trap h1) <|
      .ite (.ofCx <| .ite (.park h1) (.parkMore (.park h1))) <|
      .checked h1 fun _ _ h2 => by
        split
        · exact h2.s
        refine .ite (.protTrap h2) ?_
        refine .ite (.ofCx <| .upd h2 fun _ h3 => .log h3) ?_
        exact .settled h2 fun _ h3 =>
            .ite (.stall h3) <|
            .ofCx <|
            .updB <|
            .upd (.upd h3 fun _ h4 => .ch0First h4) fun _ _ => .numberTl <| .ofState <| .ofCx <| .upd h3 fun _ h5 => .ch0First h5

theorem Yields.execChjoin {h ch k} (hs : s.Formed) : Yields (execChjoin h ch k s) :=
  .word hs fun _ h1 => .withChan h1 <| .ite (.stall h1) <| .ofCx <| .updB <| .upd h1 fun _ h2 => .updBlock (.ch0First h2)

theorem Yields.execChdrain {h ch} (hs : s.Formed) : Yields (execChdrain h ch s) :=
  .word hs fun _ h1 =>
    .withChan h1 <| by
      split
      · exact h1.s
      refine .ite (.waitIn h1 fun _ h2 => .updBlock h2) ?_
      split
      · exact h1.s
      · exact .trap <| .standing h1 fun _ h2 => .updBlock h2

theorem Yields.execChstat {h ch d} (hs : s.Formed) : Yields (execChstat h ch d s) :=
  .word hs fun _ h1 => .withChan h1 (.ofCx (.enter h1))

/-! #### Save, restore and suspension -/

theorem Mach.Formed.killCtx {ctx r} (h : m.Formed) : (m.killCtx ctx r).Formed := .foldl (fun _ _ h1 => .killGrid h1) h

theorem Mach.Formed.headerOpen {die ctx} (h : m.Formed) : (m.headerOpen die ctx).1.Formed := by
  unfold Mach.headerOpen
  split
  · exact h
  split
  · exact h
  · exact .addFault h
  · exact .killCtx h

theorem Mach.Formed.writeHeader {ctx} (h : m.Formed) : (m.writeHeader ctx).Formed := by
  unfold Mach.writeHeader
  dsimp only
  split
  · exact h
  refine .ite (.updCtx (.headerOpen h)) ?_
  split
  · exact .updCtx (.putCells (.touch (.headerOpen h)))
  · exact .headerOpen h

theorem Mach.Formed.sendRounds {id nchan n} (h : m.Formed) : (m.sendRounds id nchan n).Formed := by
  induction n generalizing m with
  | zero => exact h
  | succ n ih =>
    unfold Mach.sendRounds
    extract_lets queued m1
    have h1 : m1.Formed := .foldl (fun _ _ h1 => .sendAll h1) h
    exact .ite h1 (ih h1)

theorem Mach.Formed.quiesce {id} (h : m.Formed) : (m.quiesce id).Formed := by
  unfold Mach.quiesce
  split
  · exact h
  · exact .sendRounds <|
      .foldl (fun _ _ h1 => .updBlock h1) <|
      .runRels <| .foldl (fun _ _ h1 => .makeVisible h1) <| .foldl (fun _ _ h1 => .copyEnd h1) h

theorem Mach.Formed.recordOpen {b n} (h : m.Formed) : (m.recordOpen b n).1.Formed := by
  unfold Mach.recordOpen
  dsimp only
  split
  · exact h
  · exact .addFault h
  · exact .killGrid h

theorem Mach.Formed.writeRecord {id} (h : m.Formed) : (m.writeRecord id).Formed := by
  unfold Mach.writeRecord
  split
  · exact h
  · exact .recordWrite <|
      .foldl (fun _ _ h1 => .recordWrite h1) <| .drew <| .recordWrite <| .foldl (fun _ _ h1 => .recordWrite h1) h

theorem Mach.Formed.stow {id} (h : m.Formed) : (m.stow id).Formed := by
  unfold Mach.stow
  split
  · exact h
  · exact .foldl (fun _ _ h1 => .grants h1) (.updBlock (.leaveCores (.writeHeader (.writeRecord h))))

theorem Mach.Formed.saveBlock {id} (h : m.Formed) : (m.saveBlock id).1.Formed := by
  unfold Mach.saveBlock
  split
  · exact h
  refine .ite_fst (.unreserve h) (.ite_fst h ?_)
  extract_lets m1 m2
  have h1 : m1.Formed := .freeze h
  have h2 : m2.Formed := .quiesce h1
  refine .ite_fst h1 ?_
  split
  · exact h2
  refine .ite_fst h2 (.ite_fst h2 ?_)
  extract_lets hd r
  have hr : r.1.Formed := .ite_fst (.recordOpen (.headerOpen h2)) (.headerOpen h2)
  refine .ite_fst (.stow hr) ?_
  split
  · exact .recordWrite hr
  · exact hr

theorem Mach.Formed.contextSave {id} (h : m.Formed) : (m.contextSave id).Formed := by
  unfold Mach.contextSave
  split
  · exact h
  · exact .ite (.saveBlock h) h

theorem Yields.execContextSave {blk} (h : s.Formed) : Yields (execContextSave blk s) := .event h fun _ h1 => .contextSave h1

theorem Mach.Formed.reserve {b spot} (h : m.Formed) : (m.reserve b spot).Formed :=
  .foldl (fun _ _ h1 => .updBank h1) (.updBlock h)

theorem Mach.Formed.unstow {b} (h : m.Formed) : (m.unstow b).Formed :=
  .recordWrite (.foldl (fun _ _ h1 => .grants h1) (.foldl (fun _ _ h1 => .updBank h1)
    (.setNextBlk (.updBlock (.updBlock (.ite h (.drew (.updBlock h))))))))

theorem Mach.Formed.readRecord {id} (h : m.Formed) : (m.readRecord id).1.Formed := by
  unfold Mach.readRecord
  split
  · exact h
  refine .ite_fst h ?_
  refine .ite_fst (.unstow (.recordOpen h)) ?_
  split
  · exact .recordWrite (.recordOpen h)
  · exact .recordOpen h

theorem Mach.Formed.restoreBlock {id} (h : m.Formed) : (m.restoreBlock id).1.Formed := by
  unfold Mach.restoreBlock
  split
  · exact h
  refine .ite_fst (.readRecord h) ?_
  refine .ite_fst h ?_
  split
  · exact h
  · exact .readRecord (.reserve h)

theorem Mach.Formed.abandonBank {c i} (h : m.Formed) : (m.abandonBank c i).Formed := .updBank h

theorem Mach.Formed.swap {c} (h : m.Formed) : (m.swap c).Formed := .grants (.updCore (.abandonBank (.abandonMiter h)))

theorem Mach.Formed.swapOver {c} (h : m.Formed) : (m.swapOver c).Formed := by
  unfold Mach.swapOver
  split
  · exact .ite (.ite (.swap (.updCore h)) (.updCore h)) h
  · exact h

theorem Yields.execSwapComplete {core} (h : s.Formed) : Yields (execSwapComplete core s) := .event h fun _ h1 => .swapOver h1

theorem Mach.Formed.suspendMap {ctx} (h : m.Formed) : (m.suspendMap ctx).Formed := by
  unfold Mach.suspendMap
  split
  · exact h
  · exact .ite h (.notice (.log (.writeHeader (.freezeCtx (.updCtx h)))))

theorem Yields.execContextSuspend {ctx} (h : s.Formed) : Yields (execContextSuspend ctx s) := .event h fun _ h1 => .suspendMap h1

/-! #### Commands -/

theorem Mach.Formed.command {q op act} (hm : m.Formed) (hact : ∀ m x, m.Formed → Offers (act m x)) : (m.command q op act).Formed := by
  unfold Mach.command
  cases e : (m.turnOf q op).findSome? (act m) with
  | none => exact hm
  | some m1 =>
    obtain ⟨x, _, hx⟩ := List.exists_of_findSome?_eq_some e
    exact hact m x hm m1 hx

theorem Mach.Formed.updCmd {c f} (h : m.Formed) : (m.updCmd c f).Formed := h

theorem Mach.Formed.okCmd {c result} (h : m.Formed) : (m.okCmd c result).Formed := .finishCmd h

theorem Mach.Formed.failCmd {c status} (h : m.Formed) : (m.failCmd c status).Formed := .finishCmd h

theorem Mach.Formed.cmdMiss {c va access} (h : m.Formed) : (m.cmdMiss c va access).Formed := .updCmd (.addFault h)

theorem Mach.Formed.cmdFault {c sub va} (h : m.Formed) : (m.cmdFault c sub va).Formed := .finishCmd h

theorem Mach.Formed.cmdRefused {c} (h : m.Formed) : (m.cmdRefused c).Formed := .cmdFault (.forgetFaults (.updCmd h))

theorem Offers.cmdGo {c go} (hm : m.Formed) (hgo : ∀ m x, m.Formed → Offers (go m x)) : Offers (m.cmdGo c go) := by
  unfold Mach.cmdGo
  split
  · exact .none
  · exact .some (.cmdRefused hm)
  · exact hgo _ _ hm
  · exact hgo _ _ (.forgetFaults (.updCmd hm))

theorem Offers.hostLaunch {c} (h : m.Formed) : Offers (m.hostLaunch c) := by
  unfold Mach.hostLaunch
  refine .ite .none ?_
  refine .ite (.some (.failCmd h)) ?_
  exact .cmdGo h fun _ _ h1 => by
      split
      · exact .some (.cmdMiss h1)
      · exact .some (.cmdFault h1)
      split
      · refine .ite (.some (.cmdFault h1)) ?_
        exact .some <| .ite (.finishCmd (.acceptLaunch (.updCmd (.touch h1)))) (.acceptLaunch (.updCmd (.touch h1)))
      · exact .none

theorem Yields.execHostLaunch {q} (h : s.Formed) : Yields (execHostLaunch q s) :=
  .event h fun _ h1 => .command h1 fun _ _ h2 => .hostLaunch h2

theorem Mach.Formed.feStore {cells bad} (h : m.Formed) : (m.feStore cells bad).Formed :=
  .foldl (fun _ _ h1 => .ite h1 (.land h1)) <| .foldl (fun _ _ h1 => .observe (.addPoison h1)) h

theorem Offers.hostCopy {c} (h : m.Formed) : Offers (m.hostCopy c) := by
  unfold Mach.hostCopy
  refine .ite (.some (.failCmd h)) ?_
  refine .ite (.some (.okCmd h)) ?_
  refine .ite (.some (.cmdFault h)) ?_
  refine .ite (.some (.cmdFault h)) ?_
  exact .cmdGo h fun _ _ h1 => by
      dsimp only
      split
      · exact .some (.cmdMiss h1)
      · exact .some (.cmdFault h1)
      · exact .some (.cmdMiss h1)
      · exact .some (.cmdFault h1)
      · exact .some <|
          .ite (.okCmd <| .updCmd <| .feStore <| .foldl (fun _ _ h2 => .touch h2) h1) <|
          .updCmd <| .feStore <| .foldl (fun _ _ h2 => .touch h2) h1

theorem Yields.execCopy {q} (h : s.Formed) : Yields (execCopy q s) := .event h fun _ h1 => .command h1 fun _ _ h2 => .hostCopy h2

theorem Offers.tlHold {c} (h : m.Formed) : Offers (m.tlHold c) :=
  .ite (.some (.failCmd h)) <| .ite (.some (.okCmd h)) .none

theorem Yields.execTlhold {q} (h : s.Formed) : Yields (execTlhold q s) :=
  .event h fun _ h1 => .command h1 fun _ _ h2 => .tlHold h2

theorem Offers.netPost {c} (h : m.Formed) : Offers (m.netPost c) := by
  unfold Mach.netPost
  refine .ite .none ?_
  refine .ite (.some (.failCmd h)) ?_
  refine .ite (.some (.cmdFault h)) ?_
  exact .cmdGo h fun _ _ h1 => by
      dsimp only
      split
      · exact .some (.cmdMiss h1)
      · exact .some (.cmdFault h1)
      · exact .some <| .foldl (fun _ _ h2 => .touch h2) (.updCmd h1)

theorem Yields.execNetpost {q} (h : s.Formed) : Yields (execNetpost q s) :=
  .event h fun _ h1 => .command h1 fun _ _ h2 => .netPost h2

theorem Mach.Formed.netAcked {q seq data} (h : m.Formed) : (m.netAcked q seq data).Formed := by
  unfold Mach.netAcked
  split
  · exact h
  refine .ite (.okCmd h) ?_
  split
  · exact .cmdFault h
  · exact .cmdFault h
  · exact .okCmd <| .feStore <| .foldl (fun _ _ h1 => .touch h1) h

theorem Yields.execNetpostAcknowledged {q seq data} (h : s.Formed) : Yields (execNetpostAcknowledged q seq data s) :=
  .event h fun _ h1 => .netAcked h1

theorem Offers.netQp {c} (h : m.Formed) : Offers (m.netQp c) :=
  .ite (.some (.failCmd h)) (.some (.okCmd h))

theorem Yields.execNetqp {q} (h : s.Formed) : Yields (execNetqp q s) := .event h fun _ h1 => .command h1 fun _ _ h2 => .netQp h2

theorem Offers.ctxCreate {c} (h : m.Formed) : Offers (m.ctxCreate c) :=
  .ite (.some (.failCmd h)) (.some (.okCmd (.writeHeader h)))

theorem Yields.execCtxcreate {q} (h : s.Formed) : Yields (execCtxcreate q s) :=
  .event h fun _ h1 => .command h1 fun _ _ h2 => .ctxCreate h2

theorem Offers.ctxDestroy {c} (h : m.Formed) : Offers (m.ctxDestroy c) := by
  unfold Mach.ctxDestroy
  refine .ite (.ite (.some (.okCmd h)) .none) ?_
  refine .ite (.some (.failCmd h)) ?_
  exact .ite (.some (.failCmd h)) <| .some <| .foldl (fun _ _ h1 => .killGrid h1) (.updCmd (.writeHeader (.updCtx h)))

theorem Yields.execCtxdestroy {q} (h : s.Formed) : Yields (execCtxdestroy q s) :=
  .event h fun _ h1 => .command h1 fun _ _ h2 => .ctxDestroy h2

theorem Mach.Formed.flushBlock {b} (h : m.Formed) : (m.flushBlock b).1.Formed :=
  .allVisible <| .foldl (fun _ _ h1 => .copyEnd h1) <| .foldl_fst (fun _ _ h1 => .settleAll h1) h

theorem Offers.tlbInv {c} (h : m.Formed) : Offers (m.tlbInv c) := by
  unfold Mach.tlbInv
  refine .ite (.some (.failCmd h)) ?_
  refine .ite (.some <| .okCmd <| .tlbDrop <| .foldl_fst (fun _ _ h1 => .updBlock (.flushBlock h1)) h) ?_
  exact .ite .none (.some (.updCmd h))

theorem Yields.execTlbinv {q} (h : s.Formed) : Yields (execTlbinv q s) :=
  .event h fun _ h1 => .command h1 fun _ _ h2 => .tlbInv h2

theorem Offers.biasFlip {c} (h : m.Formed) : Offers (m.biasFlip c) := .some (.okCmd <| .ite (.observeIf h) h)

theorem Yields.execBiasflip {q} (h : s.Formed) : Yields (execBiasflip q s) :=
  .event h fun _ h1 => .command h1 fun _ _ h2 => .biasFlip h2

theorem Mach.Formed.refuse {f} (h : m.Formed) : (m.refuse f).Formed := by
  unfold Mach.refuse
  extract_lets m1 m2
  have h2 : m2.Formed := .foldl (fun _ _ h1 => .killGrid h1) <| .foldl (fun _ _ h1 => .stopCopy h1) h
  exact .ite (.killCtx (.updCtx h2)) h2

theorem Mach.Formed.headersGo {f} (h : m.Formed) : (m.headersGo f).Formed :=
  .ite (.writeHeader h) h

theorem Offers.faultResp {c} (h : m.Formed) : Offers (m.faultResp c) := by
  unfold Mach.faultResp
  dsimp only
  split
  · exact .some (.failCmd h)
  · exact .some (.okCmd (.forgetFaults <| .ite (.ite (.refuse h) h) (.headersGo <| .ite (.refuse h) h)))

theorem Yields.execFaultresp {q} (h : s.Formed) : Yields (execFaultresp q s) :=
  .event h fun _ h1 => .command h1 fun _ _ h2 => .faultResp h2

theorem Offers.hostMapack {c} (h : m.Formed) : Offers (m.hostMapack c) := by
  unfold Mach.hostMapack
  dsimp only
  split
  · exact .some (.failCmd h)
  refine .ite (.some (.failCmd (.log h))) ?_
  exact .some (.okCmd <| .ite (.writeHeader (.updCtx (.ackMap h))) (.updCtx (.ackMap h)))

theorem Yields.execHostMapack {q} (h : s.Formed) : Yields (execHostMapack q s) :=
  .event h fun _ h1 => .command h1 fun _ _ h2 => .hostMapack h2

theorem Offers.chanConf {c} (h : m.Formed) : Offers (m.chanConf c) :=
  .ite .none <| .ite (.some (.updCmd h)) (.some (.failCmd h))

theorem Yields.execChanconf {q} (h : s.Formed) : Yields (execChanconf q s) :=
  .event h fun _ h1 => .command h1 fun _ _ h2 => .chanConf h2

theorem Mach.Formed.chanRemap {die chan unread} (h : m.Formed) : (m.chanRemap die chan unread).Formed :=
  .ite h <| .foldl (fun _ _ h1 => .okCmd h1) (.poisonAll (.postEvent h))

theorem Yields.execHbmChannelRemap {die chan unread} (h : s.Formed) : Yields (execHbmChannelRemap die chan unread s) :=
  .event h fun _ h1 => .chanRemap h1

theorem Offers.hostKillCmd {c} (h : m.Formed) : Offers (m.hostKillCmd c) := by
  unfold Mach.hostKillCmd
  refine .ite (.ite .none (.some (.okCmd h))) ?_
  refine .ite (.some (.failCmd h)) ?_
  exact .ite (.some (.updCmd (.killGrid h))) <| .ite (.some (.okCmd h)) (.some (.failCmd h))

theorem Yields.execKill {q} (h : s.Formed) : Yields (execKill q s) :=
  .event h fun _ h1 => .command h1 fun _ _ h2 => .hostKillCmd h2

theorem Offers.brkResume {c} (h : m.Formed) : Offers (m.brkResume c) := by
  unfold Mach.brkResume
  refine .ite (.some (.failCmd h)) ?_
  split
  · exact .some (.failCmd h)
  · exact .ite (.some (.okCmd (.killGrid h))) <| .ite (.ite .none (.some (.updCmd h))) (.some (.okCmd (.updBlock h)))

theorem Yields.execBrkresume {q} (h : s.Formed) : Yields (execBrkresume q s) :=
  .event h fun _ h1 => .command h1 fun _ _ h2 => .brkResume h2

theorem Offers.suspendCmd {c} (h : m.Formed) : Offers (m.suspendCmd c) := by
  unfold Mach.suspendCmd
  dsimp only
  split
  · exact .some (.failCmd h)
  · exact .ite (.ite (.some (.okCmd h)) .none) (.some (.updCmd (.writeHeader (.freezeCtx (.updCtx h)))))

theorem Yields.execSuspend {q} (h : s.Formed) : Yields (execSuspend q s) :=
  .event h fun _ h1 => .command h1 fun _ _ h2 => .suspendCmd h2

theorem Offers.resumeCmd {c} (h : m.Formed) : Offers (m.resumeCmd c) :=
  .ite (.some (.failCmd h)) (.some (.okCmd (.writeHeader (.updCtx h))))

theorem Yields.execResume {q} (h : s.Formed) : Yields (execResume q s) :=
  .event h fun _ h1 => .command h1 fun _ _ h2 => .resumeCmd h2

theorem Offers.slotRead {c} (h : m.Formed) : Offers (m.slotRead c) := .some (.okCmd (.hostWrite (.slotFree (.slotDeadline h))))

theorem Yields.execSlotread {q} (h : s.Formed) : Yields (execSlotread q s) :=
  .event h fun _ h1 => .command h1 fun _ _ h2 => .slotRead h2

theorem Mach.Formed.install {k v} (h : m.Formed) : (m.install k v).Formed := by
  unfold Mach.install
  split <;> exact h

theorem Offers.keyInstall {c} (h : m.Formed) : Offers (m.keyInstall c) := by
  unfold Mach.keyInstall
  refine .ite (.some (.failCmd h)) ?_
  split
  · exact .some (.okCmd (.install h))
  · exact .some (.failCmd h)

theorem Yields.execKeyinstall {q} (h : s.Formed) : Yields (execKeyinstall q s) :=
  .event h fun _ h1 => .command h1 fun _ _ h2 => .keyInstall h2

theorem Offers.keyRemove {c} (h : m.Formed) : Offers (m.keyRemove c) :=
  .ite (.some (.okCmd h)) (.some (.failCmd h))

theorem Yields.execKeyremove {q} (h : s.Formed) : Yields (execKeyremove q s) :=
  .event h fun _ h1 => .command h1 fun _ _ h2 => .keyRemove h2

theorem Offers.powerCap {c} (h : m.Formed) : Offers (m.powerCap c) := .some (.okCmd (.newCap h))

theorem Yields.execPowercap {q} (h : s.Formed) : Yields (execPowercap q s) :=
  .event h fun _ h1 => .command h1 fun _ _ h2 => .powerCap h2

theorem Offers.attest {c} (h : m.Formed) : Offers (m.attest c) := .some (.okCmd (.hostWrite h))

theorem Yields.execAttest {q} (h : s.Formed) : Yields (execAttest q s) :=
  .event h fun _ h1 => .command h1 fun _ _ h2 => .attest h2

theorem Offers.fwStage {c} (h : m.Formed) : Offers (m.fwStage c) :=
  .ite (.some (.okCmd h)) (.some (.failCmd h))

theorem Yields.execFwstage {q} (h : s.Formed) : Yields (execFwstage q s) :=
  .event h fun _ h1 => .command h1 fun _ _ h2 => .fwStage h2

theorem Mach.Formed.drainLog {die} (h : m.Formed) : (m.drainLog die).Formed := by
  unfold Mach.drainLog
  split
  · exact h
  split
  · exact h
  · exact .ringNotes <| .foldl (fun _ _ h1 => .ringPush h1) (.ringPush h)

theorem Yields.execErrorLogDrain {die} (h : s.Formed) : Yields (execErrorLogDrain die s) := .event h fun _ h1 => .drainLog h1

/-! #### Placement -/

theorem Mach.Formed.placeOne {g die lin r} (h : m.Formed) (e : m.placeOne g die lin = some r) : r.1.Formed := by
  unfold Mach.placeOne at e
  split at e
  · cases e
    exact .settleBlock h
  · cases e

theorem Mach.Formed.placeAll {g todo p r} (h : p.1.Formed) (e : Mach.placeAll g todo p = some r) : r.1.Formed := by
  induction todo generalizing p with
  | nil => cases e; exact h
  | cons x todo ih =>
    unfold Mach.placeAll at e
    split at e
    · rename_i m1 spot heq
      exact ih (p := (m1, _)) (Mach.Formed.placeOne h heq) e
    · cases e

theorem Mach.Formed.validate (h : m.Formed) : m.validate.Formed := by
  unfold Mach.validate
  split
  · exact h
  split
  · exact .updGrid (.failGrid h)
  · exact .updGrid h

theorem Yields.execDescriptorValidation (h : s.Formed) : Yields (execDescriptorValidation s) := .event h fun _ h1 => .validate h1

theorem Mach.Formed.swapIn {prio spot before} (h : m.Formed) : (m.swapIn prio spot before).Formed :=
  .foldl (fun _ _ h1 => .ite (.ite (.swap h1) (.updCore h1)) h1) h

theorem Offers.placeNext {g die} (h : m.Formed) : Offers (m.placeNext g die) := by
  unfold Mach.placeNext
  split
  · exact .none
  · split
    · exact .some (.swapIn (.settleBlock h))
    · exact .none
  · split
    · intro m1 e
      obtain ⟨r, hr, rfl⟩ := Option.map_eq_some_iff.mp e
      exact .foldl (fun _ _ h1 => .swapIn h1) (.updGrid (.placeAll h hr))
    · intro m1 e
      obtain ⟨r, hr, rfl⟩ := Option.map_eq_some_iff.mp e
      exact .swapIn (.updGrid (.placeOne h hr))

theorem Mach.Formed.nextPlacing {die m1} (h : m.Formed) (e : m.nextPlacing die = some (.placed m1)) : m1.Formed := by
  obtain ⟨p, _, hp⟩ := List.exists_of_findSome?_eq_some e
  split at hp
  · cases hp
  · obtain ⟨g, _, hg⟩ := List.exists_of_findSome?_eq_some hp
    split at hg
    · obtain ⟨m2, hm, e2⟩ := Option.map_eq_some_iff.mp hg
      cases e2
      exact Offers.placeNext h _ hm
    · cases hg

theorem Mach.Formed.preempt {c paired} (h : m.Formed) : (m.preempt c paired).Formed := by
  unfold Mach.preempt
  refine .ite h ?_
  extract_lets r
  have hr : r.1.Formed := .foldl_fst (fun _ _ h1 => .saveBlock h1) h
  exact .ite (.foldl (fun _ _ h1 => .swap h1) hr) hr

theorem Mach.Formed.coopRelaunch {g b} (h : m.Formed) : (m.coopRelaunch g b).Formed := by
  unfold Mach.coopRelaunch
  dsimp only
  split
  · exact .swapIn (.settleBlock h)
  · exact .failGrid h

theorem Mach.Formed.makeWay {die} (h : m.Formed) : (m.makeWay die).Formed := by
  unfold Mach.makeWay
  split
  · exact .coopRelaunch h
  split
  · exact .preempt h
  · exact h

theorem Mach.Formed.placement {die} (h : m.Formed) : (m.placement die).Formed := by
  unfold Mach.placement
  split
  · rename_i heq
    exact .nextPlacing h heq
  · exact h
  · exact .makeWay h

theorem Yields.execBlockPlacement {die} (h : s.Formed) : Yields (execBlockPlacement die s) := .event h fun _ h1 => .placement h1

theorem Mach.Formed.restore {id} (h : m.Formed) : (m.restore id).Formed := by
  unfold Mach.restore
  split
  · exact h
  refine .ite h ?_
  refine .ite ?_ ?_
  · dsimp only
    split
    · exact .preempt h
    · exact h
  · dsimp only
    split
    · exact .swapIn (.restoreBlock h)
    · exact .restoreBlock h

theorem Yields.execBlockRestore {blk} (h : s.Formed) : Yields (execBlockRestore blk s) := .event h fun _ h1 => .restore h1

theorem Mach.Formed.steal {die n} (h : m.Formed) : (m.steal die n).Formed := by
  unfold Mach.steal
  split
  · exact h
  refine .ite h ?_
  split
  · exact h
  · exact .updGrid h

theorem Yields.execSteal {die grid} (h : s.Formed) : Yields (execSteal die grid s) := .event h fun _ h1 => .steal h1

theorem Mach.Formed.completeGrid {n} (h : m.Formed) : (m.completeGrid n).Formed := by
  unfold Mach.completeGrid
  split
  · exact h
  refine .ite h ?_
  dsimp only
  split
  · exact .finishCmd (.tlFinish (.updGrid h))
  · exact .tlFinish (.updGrid h)

theorem Yields.execGridComplete {grid} (h : s.Formed) : Yields (execGridComplete grid s) := .event h fun _ h1 => .completeGrid h1

theorem Mach.Formed.exchange {c} (h : m.Formed) : (m.exchange c).Formed := by
  unfold Mach.exchange
  split
  · exact h
  · exact .updWarp (.updCore h)

theorem Yields.execWarpExchange {core} (h : s.Formed) : Yields (execWarpExchange core s) := .event h fun _ h1 => .exchange h1

theorem Yields.execPathAged {blk warp} (h : s.Formed) : Yields (execPathAged blk warp s) := .event h fun _ h1 => .updWarp h1

theorem Mach.Formed.pollReady {blk warp lane due} (h : m.Formed) : (m.pollReady blk warp lane due).Formed := .updWarp h

theorem Yields.execPollWatchWake {blk warp lane} (h : s.Formed) : Yields (execPollWatchWake blk warp lane s) :=
  .event h fun _ h1 => .pollReady h1

theorem Yields.execPollWatchExpiry {blk warp lane} (h : s.Formed) : Yields (execPollWatchExpiry blk warp lane s) :=
  .event h fun _ h1 => .pollReady h1

theorem Mach.Formed.bankSwap {c} (h : m.Formed) : (m.bankSwap c).Formed :=
  .ite (.swap h) h

theorem Yields.execBankSwap {core} (h : s.Formed) : Yields (execBankSwap core s) := .event h fun _ h1 => .bankSwap h1

/-! #### Control flow -/

theorem Cx.Formed.goTo {p} (h : c.Formed) : (c.goTo p).Formed := .updW h

theorem State.Formed.badCode {e va mask} (h : c.Formed) : (c.badCode e va mask).Formed := .trap h

theorem Yields.execBra {h t} (hs : s.Formed) : Yields (execBra h t s) :=
  .word hs fun _ h1 => by
    split
    · exact .badCode h1
    · exact .ofCx (.goTo h1)

theorem Yields.execBrx {h a} (hs : s.Formed) : Yields (execBrx h a s) :=
  .word hs fun _ h1 =>
    .ite (.trap h1) <| by
      split
      · exact .badCode h1
      · exact .ofCx (.goTo h1)

theorem State.Formed.block {kind n} (h : c.Formed) : (c.block kind n).Formed := by
  unfold Cx.block
  exact .waitAs h fun _ h1 => .updBank (.updWarp h1)

theorem State.Formed.push {k} (hc : c.Formed) (hk : ∀ c, c.Formed → (k c).Formed) : (c.push k).Formed := by
  unfold Cx.push
  exact .stackChecked hc fun _ _ h1 =>
      .settledIf h1 fun _ h2 => .stores (.upd h2 fun _ h3 => .touchAll h3) fun _ h3 => hk _ (.updW h3)

theorem State.Formed.callFrame {size target} (h : c.Formed) : (c.callFrame size target).Formed :=
  .push h fun _ h1 => .ofCx (.goTo <| .ite h1 (.updW h1))

theorem State.Formed.call {dm target} (h : c.Formed) : (c.call dm target).Formed :=
  .ite (.trap h) <| .ite (.trap h) <| .ite (.block h) (.callFrame h)

theorem Yields.execCall {h e t} (hs : s.Formed) : Yields (execCall h e t s) :=
  .word hs fun _ h1 => by
    split
    · exact .badCode h1
    · exact .call h1

theorem Yields.execCallx {h e a} (hs : s.Formed) : Yields (execCallx h e a s) :=
  .word hs fun _ h1 =>
    .ite (.trap h1) <| by
      split
      · exact .badCode h1
      · exact .call h1

theorem State.Formed.popN {n} (h : c.Formed) : (c.popN n).Formed := by
  unfold Cx.popN
  exact .stackChecked h fun _ _ h1 =>
      .settledIf h1 fun _ h2 =>
        .arrived h2 fun _ h3 =>
          .ite (.trap h3) <| by
            split
            · exact .badCode h3
            · exact .ofCx <| .upd (.updW <| .upd h3 fun _ h4 => .touchAll h4) fun _ h4 => .awaitFill (.grantsFor h4)

theorem Yields.execRet {h} (hs : s.Formed) : Yields (execRet h s) := .word hs fun _ h1 => .ite (.trap h1) (.popN h1)

theorem Yields.execUnwind {h a} (hs : s.Formed) : Yields (execUnwind h a s) :=
  .word hs fun _ h1 => .ite (.trap h1) <| .ite (.trap h1) <| .ite (.trap h1) (.popN h1)

theorem State.Formed.resize {a k} (hc : c.Formed) (hk : ∀ x x1, (k x x1).Formed) : (c.resize a k).Formed :=
  .ite (.trap hc) <| .ite (.trap hc) <| .ite (.trap hc) (hk _ _)

theorem Cx.Formed.growBy {n} (h : c.Formed) : (c.growBy n).Formed := .updW h

theorem Yields.execGrow {h a} (hs : s.Formed) : Yields (execGrow h a s) :=
  .word hs fun _ h1 => .resize h1 fun _ _ => .ite (.trap h1) <| .ite (.ofCx (.growBy h1)) (.block h1)

theorem Yields.execGrowTry {h p a} (hs : s.Formed) : Yields (execGrowTry h p a s) :=
  .word hs fun _ h1 => .resize h1 fun _ _ => .ite (.trap h1) <| .ite (.ofCx (.growBy (.shortPred h1))) (.ofCx (.shortPred h1))

theorem Yields.execShrink {h a} (hs : s.Formed) : Yields (execShrink h a s) :=
  .word hs fun _ h1 => .resize h1 fun _ _ => .ite (.trap h1) <| .ofCx <| .upd (.updW h1) fun _ h2 => .grantsFor h2

theorem Yields.execDivg {h i} (hs : s.Formed) : Yields (execDivg h i s) := .word hs fun _ h1 => .ofCx (.updW h1)

theorem Yields.execReconv {h i} (hs : s.Formed) : Yields (execReconv h i s) := .word hs fun _ h1 => .ofCx (.updW (.afterFence h1))

theorem Yields.execBar {h} (hs : s.Formed) : Yields (execBar h s) :=
  .word hs fun _ h1 => .settledAll h1 fun _ h2 => .ofCx (.updB (.updW (.afterFence h2)))

theorem Yields.execYield {h} (hs : s.Formed) : Yields (execYield h s) :=
  .word hs fun _ h1 => .ofCx <| .upd (.updW h1) fun _ h2 => .markYield h2

theorem Yields.execExit {h} (hs : s.Formed) : Yields (execExit h s) :=
  .word hs fun _ h1 => .settledAll h1 fun _ h2 => .ofCx <| .upd (.release h2) fun _ h3 => .exitLanes h3

theorem Yields.execTrap {h i} (hs : s.Formed) : Yields (execTrap h i s) := .word hs fun _ h1 => .raise h1

theorem Yields.execBrk {h i} (hs : s.Formed) : Yields (execBrk h i s) := .word hs fun _ h1 => .raise h1

theorem Yields.execTret {h} (hs : s.Formed) : Yields (execTret h s) :=
  .word hs fun _ h1 =>
    .ite (.trap h1) <|
    .checked h1 fun _ _ h2 =>
      .settled h2 fun _ h3 =>
        .arrived h3 fun _ h4 => by
          dsimp only
          split
          · exact .undo h4 fun _ h5 => .killGrid h5
          · exact .ofCx <| .upd (.updW <| .short <| .upd h4 fun _ h5 => .touchAll h5) fun _ h5 => .awaitFill h5

/-! #### Floating point -/

theorem State.Formed.f32Op {d srcs f} (h : c.Formed) : (c.f32Op d srcs f).Formed := .ofCx (.flags (.short h))

theorem State.Formed.f32Bin {d a b m op} (h : c.Formed) : (c.f32Bin d a b m op).Formed := .f32Op h

theorem Yields.execFadd {h d a b m} (hs : s.Formed) : Yields (execFadd h d a b m s) := .word hs fun _ h1 => .f32Bin h1

theorem Yields.execFsub {h d a b m} (hs : s.Formed) : Yields (execFsub h d a b m s) := .word hs fun _ h1 => .f32Bin h1

theorem Yields.execFmul {h d a b m} (hs : s.Formed) : Yields (execFmul h d a b m s) := .word hs fun _ h1 => .f32Bin h1

theorem Yields.execFmin {h d a b m} (hs : s.Formed) : Yields (execFmin h d a b m s) := .word hs fun _ h1 => .f32Bin h1

theorem Yields.execFmax {h d a b m} (hs : s.Formed) : Yields (execFmax h d a b m s) := .word hs fun _ h1 => .f32Bin h1

theorem Yields.execFfma {h d a b m pf} (hs : s.Formed) : Yields (execFfma h d a b m pf s) := .word hs fun _ h1 => .f32Op h1

theorem State.Formed.predOp {p f} (h : c.Formed) : (c.predOp p f).Formed := .ofCx (.flags (.shortPred h))

theorem Yields.execFsetp {h p k a b m} (hs : s.Formed) : Yields (execFsetp h p k a b m s) := .word hs fun _ h1 => .predOp h1

theorem Yields.execDsetp {h p k a b m} (hs : s.Formed) : Yields (execDsetp h p k a b m s) := .word hs fun _ h1 => .predOp h1

theorem State.Formed.f64Op {d srcs f} (h : c.Formed) : (c.f64Op d srcs f).Formed := .ofCx (.flags (.short64 h))

theorem State.Formed.f64Bin {d a b m op} (h : c.Formed) : (c.f64Bin d a b m op).Formed := .f64Op h

theorem Yields.execDadd {h d a b m} (hs : s.Formed) : Yields (execDadd h d a b m s) := by
  unfold Machine.execDadd
  exact .word hs fun _ h1 => .f64Bin h1

theorem Yields.execDmul {h d a b m} (hs : s.Formed) : Yields (execDmul h d a b m s) := .word hs fun _ h1 => .f64Bin h1

theorem Yields.execDmin {h d a b m} (hs : s.Formed) : Yields (execDmin h d a b m s) := .word hs fun _ h1 => .f64Bin h1

theorem Yields.execDmax {h d a b m} (hs : s.Formed) : Yields (execDmax h d a b m s) := .word hs fun _ h1 => .f64Bin h1

theorem Yields.execDfma {h d a b m pf} (hs : s.Formed) : Yields (execDfma h d a b m pf s) := by
  unfold Machine.execDfma
  exact .word hs fun _ h1 => .f64Op h1

theorem State.Formed.halfOp {d x y z srcs f} (h : c.Formed) : (c.halfOp d x y z srcs f).Formed := .ofCx (.flags (.short h))

theorem Yields.execHadd2 {h d a b m pf} (hs : s.Formed) : Yields (execHadd2 h d a b m pf s) := .word hs fun _ h1 => .halfOp h1

theorem Yields.execHmul2 {h d a b m pf} (hs : s.Formed) : Yields (execHmul2 h d a b m pf s) := .word hs fun _ h1 => .halfOp h1

theorem Yields.execHfma2 {h d a b m pf} (hs : s.Formed) : Yields (execHfma2 h d a b m pf s) := .word hs fun _ h1 => .halfOp h1

theorem State.Formed.sfuWord {fn d a} (h : c.Formed) : (c.sfuWord fn d a).Formed := .ofCx (.flags (.long h))

theorem Yields.execFrcp {h d a} (hs : s.Formed) : Yields (execFrcp h d a s) := .word hs fun _ h1 => .sfuWord h1

theorem Yields.execFrsq {h d a} (hs : s.Formed) : Yields (execFrsq h d a s) := .word hs fun _ h1 => .sfuWord h1

theorem Yields.execFsqrt {h d a} (hs : s.Formed) : Yields (execFsqrt h d a s) := .word hs fun _ h1 => .sfuWord h1

theorem Yields.execFexp2 {h d a} (hs : s.Formed) : Yields (execFexp2 h d a s) := .word hs fun _ h1 => .sfuWord h1

theorem Yields.execFlog2 {h d a} (hs : s.Formed) : Yields (execFlog2 h d a s) := .word hs fun _ h1 => .sfuWord h1

theorem Yields.execFsin {h d a} (hs : s.Formed) : Yields (execFsin h d a s) := .word hs fun _ h1 => .sfuWord h1

theorem Yields.execFcos {h d a} (hs : s.Formed) : Yields (execFcos h d a s) := .word hs fun _ h1 => .sfuWord h1

theorem Yields.execFrnd {h d a t x} (hs : s.Formed) : Yields (execFrnd h d a t x s) := by
  unfold Machine.execFrnd
  exact .ite (.word hs fun _ h1 => .ofCx (.flags (.long h1))) <| .word hs fun _ h1 => .ofCx (.flags (.long h1))

theorem Yields.execCvt {h d a x y m pf} (hs : s.Formed) : Yields (execCvt h d a x y m pf s) := by
  unfold Machine.execCvt
  exact .word hs fun _ h1 => .ite (.ofCx (.flags (.long h1))) (.ofCx (.flags (.enter h1)))

/-! #### Barriers, fences, tags and timelines -/

theorem Yields.execPbinit {h a b} (hs : s.Formed) : Yields (execPbinit h a b s) :=
  .word hs fun _ h1 => .checked h1 fun _ _ h2 => .ite (.trap h2) <| .settled h2 fun _ h3 => .ofCx (.updB h3)

theorem Yields.execPbarr {h a} (hs : s.Formed) : Yields (execPbarr h a s) :=
  .word hs fun _ h1 => .checked h1 fun _ _ h2 => .settledAll h2 fun _ h3 => .ofCx (.updB h3)

theorem Yields.execPbwait {h a b} (hs : s.Formed) : Yields (execPbwait h a b s) :=
  .word hs fun _ h1 => .checked h1 fun _ _ h2 => .settled h2 fun _ h3 => .ite h3.s <| .waitIn h3 fun _ h4 => h4

theorem Yields.execFence {h i} (hs : s.Formed) : Yields (execFence h i s) :=
  .word hs fun _ h1 =>
    .settledAll h1 fun _ h2 =>
      .ite h2.s <|
      .ite (.ofCx (.release h2)) <| .ite (.ofCx <| .upd (.release h2) fun _ h3 => .allVisible h3) (.ofCx (.updW (.release h2)))

theorem State.Formed.tagMask {a k} (hc : c.Formed) (hk : ∀ x, (k x).Formed) : (c.tagMask a k).Formed :=
  .ite (.trap hc) (hk _)

theorem State.Formed.twait {all a} (h : c.Formed) : (c.twait all a).Formed :=
  .tagMask h fun _ => by
    split
    · exact h.s
    refine .ite h.s ?_
    refine .ite ?_ ?_
    · split
      · exact h.s
      · exact .consume <| .standing h fun _ h1 => .updBlock h1
    · exact .waitIn h fun _ h1 => h1

theorem Yields.execTwaitAny {h a} (hs : s.Formed) : Yields (execTwaitAny h a s) := .word hs fun _ h1 => .twait h1

theorem Yields.execTwaitAll {h a} (hs : s.Formed) : Yields (execTwaitAll h a s) := .word hs fun _ h1 => .twait h1

theorem Yields.execTfirst {h d a} (hs : s.Formed) : Yields (execTfirst h d a s) :=
  .word hs fun _ h1 => .tagMask h1 fun _ => .ofCx (.enter h1)

theorem Yields.execTlwait {h d a} (hs : s.Formed) : Yields (execTlwait h d a s) :=
  .word hs fun _ h1 => .ite h1.s <| .waitIn h1 fun _ h2 => h2

theorem Yields.execTlread {h d a} (hs : s.Formed) : Yields (execTlread h d a s) := .word hs fun _ h1 => .ofCx (.enter h1)

/-! #### Control registers and launches -/

theorem State.Formed.crLongRead {d n} (h : c.Formed) : (c.crLongRead d n).Formed := by
  unfold Cx.crLongRead
  refine .ite (.ofCx (.updW (.long h))) ?_
  exact .ite (.ofCx (.long h)) <| .ite (.ite (.ofCx (.enter h)) (.ofCx (.long h))) (.ofCx (.enter h))

theorem Yields.execCrd {h d r} (hs : s.Formed) : Yields (execCrd h d r s) :=
  .word hs fun _ h1 => .ite (.trap h1) <| .ite (.crLongRead h1) (.ofCx (.short h1))

theorem Mach.Formed.deadFlags {blk w} (h : m.Formed) : (m.deadFlags blk w).Formed := h

theorem Cx.Formed.setCr {n v} (h : c.Formed) : (c.setCr n v).Formed := by
  unfold Cx.setCr
  refine .ite (.updW h) ?_
  refine .ite (.upd (.updW h) fun _ h1 => .deadFlags h1) ?_
  exact .ite (.updB h) <| .ite (.updB h) <| .ite (.updW h) <| .ite (.updB h) (.updB h)

theorem Yields.execCwr {h d r} (hs : s.Formed) : Yields (execCwr h d r s) :=
  .word hs fun _ h1 =>
    .ite (.trap h1) <|
    .ite (.trap h1) <| by
      split
      · exact .trap h1
      · exact .ofCx (.setCr h1)

theorem Yields.execMapack {h a} (hs : s.Formed) : Yields (execMapack h a s) :=
  .word hs fun _ h1 => .ite (.trap h1) <| .ite (.trap h1) <| .ofCx <| .upd h1 fun _ h2 => .ackMap h2

theorem State.Formed.launch {d mask raw} (h : c.Formed) : (c.launch d mask raw).Formed :=
  .ofCx <| .long <| .updB <| .upd h fun _ _ => .acceptLaunch h.s.m

theorem State.Formed.launchPoison {d a} (h : c.Formed) : (c.launchPoison d a).Formed := .ofCx (.updW (.long h))

theorem Yields.execLaunch {h d a b} (hs : s.Formed) : Yields (execLaunch h d a b s) :=
  .word hs fun _ h1 =>
    .ite (.trap h1) <|
    .ite (.trap h1) <|
    .ite (.trap h1) <|
    .ite (.trap h1) <|
    .settledAll h1 fun _ h2 =>
      .ite (.stall h2) <|
      .checked (.standing h2 fun _ h3 => .released h3) fun _ _ h3 => by
        split
        · refine .ite (.stallWith h2 fun _ h4 => .updBlock (.released h4)) ?_
          refine .ite (.stall h2) ?_
          exact .ite (.launchPoison <| .upd h3 fun _ h4 => .touchAll h4) <| .launch <| .upd h3 fun _ h4 => .touchAll h4
        · exact h3.s

/-! #### Every instruction and event -/

/-- Whatever an instruction or event does from a state in its form, it leaves one. -/
theorem Yields.exec {i} (h : s.Formed) : Yields (exec i s) := by
  cases i with
  | packageReset => exact .execPackageReset h
  | coreRetired => exact .execCoreRetired h
  | l2SliceRetired => exact .execL2SliceRetired h
  | hbmChannelFailing => exact .execHbmChannelFailing h
  | hbmChannelRemap => exact .execHbmChannelRemap h
  | linkHalving => exact .execLinkHalving h
  | linkSilenceTimeout => exact .execLinkSilenceTimeout h
  | linkLost => exact .execLinkLost h
  | planeLost => exact .execPlaneLost h
  | portLost => exact .execPortLost h
  | boardCapChange => exact .execBoardCapChange h
  | contextSuspend => exact .execContextSuspend h
  | tokenGrant => exact .execTokenGrant h
  | descriptorValidation => exact .execDescriptorValidation h
  | blockPlacement => exact .execBlockPlacement h
  | steal => exact .execSteal h
  | warpExchange => exact .execWarpExchange h
  | pathAged => exact .execPathAged h
  | pollWatchWake => exact .execPollWatchWake h
  | pollWatchExpiry => exact .execPollWatchExpiry h
  | bankSwap => exact .execBankSwap h
  | swapComplete => exact .execSwapComplete h
  | contextSave => exact .execContextSave h
  | blockRestore => exact .execBlockRestore h
  | longResultArrival => exact .execLongResultArrival h
  | cellarStart => exact .execCellarStart h
  | cellarSpillComplete => exact .execCellarSpillComplete h
  | cellarFillComplete => exact .execCellarFillComplete h
  | subwarpReplay => exact .execSubwarpReplay h
  | softErrorDetected => exact .execSoftErrorDetected h
  | memoryEccError => exact .execMemoryEccError h
  | ch0RoomEnqueue => exact .execCh0RoomEnqueue h
  | copyComplete => exact .execCopyComplete h
  | snoopWritebackInFlight => exact .execSnoopWritebackInFlight h
  | hostMemAccess => exact .execHostMemAccess h
  | mergeHoldExpiry => exact .execMergeHoldExpiry h
  | packetSend => exact .execPacketSend h
  | escapementPacketArrival => exact .execEscapementPacketArrival h
  | streamAck => exact .execStreamAck h
  | startRetry => exact .execStartRetry h
  | escapementContextFree => exact .execEscapementContextFree h
  | retentionResend => exact .execRetentionResend h
  | flitReplayRequest => exact .execFlitReplayRequest h
  | suspectAckTimeout => exact .execSuspectAckTimeout h
  | coherenceReissueTimeout => exact .execCoherenceReissueTimeout h
  | managementResendTimeout => exact .execManagementResendTimeout h
  | bufferLimitRecompute => exact .execBufferLimitRecompute h
  | bufferLimitAnnounce => exact .execBufferLimitAnnounce h
  | linklost => exact .execLinklost h
  | routesRecomputed => exact .execRoutesRecomputed h
  | delivered => exact .execDelivered h
  | exchangeTimeout => exact .execExchangeTimeout h
  | syncdone => exact .execSyncdone h
  | slotContribution => exact .execSlotContribution h
  | slotDeadline => exact .execSlotDeadline h
  | slotFree => exact .execSlotFree h
  | timelineAdvance => exact .execTimelineAdvance h
  | gridComplete => exact .execGridComplete h
  | miterPhaseStart => exact .execMiterPhaseStart h
  | miterIterationEnd => exact .execMiterIterationEnd h
  | errorLogDrain => exact .execErrorLogDrain h
  | netpostAcknowledged => exact .execNetpostAcknowledged h
  | doorbell => exact .execDoorbell h
  | queueEnable => exact .execQueueEnable h
  | queueDisable => exact .execQueueDisable h
  | ringHeadWrite => exact .execRingHeadWrite h
  | hostRegisterWrite => exact .execHostRegisterWrite h
  | hostLaunch => exact .execHostLaunch h
  | copy => exact .execCopy h
  | tlhold => exact .execTlhold h
  | netpost => exact .execNetpost h
  | netqp => exact .execNetqp h
  | ctxcreate => exact .execCtxcreate h
  | ctxdestroy => exact .execCtxdestroy h
  | tlbinv => exact .execTlbinv h
  | biasflip => exact .execBiasflip h
  | faultresp => exact .execFaultresp h
  | hostMapack => exact .execHostMapack h
  | chanconf => exact .execChanconf h
  | kill => exact .execKill h
  | brkresume => exact .execBrkresume h
  | suspend => exact .execSuspend h
  | resume => exact .execResume h
  | slotread => exact .execSlotread h
  | keyinstall => exact .execKeyinstall h
  | keyremove => exact .execKeyremove h
  | powercap => exact .execPowercap h
  | attest => exact .execAttest h
  | fwstage => exact .execFwstage h
  | pfx => exact .next h
  | nop => exact .execNop h
  | bra => exact .execBra h
  | brx => exact .execBrx h
  | call => exact .execCall h
  | callx => exact .execCallx h
  | ret => exact .execRet h
  | unwind => exact .execUnwind h
  | yield => exact .execYield h
  | exit => exact .execExit h
  | trap => exact .execTrap h
  | tret => exact .execTret h
  | brk => exact .execBrk h
  | bar => exact .execBar h
  | pbinit => exact .execPbinit h
  | pbarr => exact .execPbarr h
  | pbwait => exact .execPbwait h
  | divg => exact .execDivg h
  | reconv => exact .execReconv h
  | grow => exact .execGrow h
  | growTry => exact .execGrowTry h
  | shrink => exact .execShrink h
  | launch => exact .execLaunch h
  | mapack => exact .execMapack h
  | fence => exact .execFence h
  | iadd => exact .execIadd h
  | iaddi => exact .execIaddi h
  | isub => exact .execIsub h
  | imul => exact .execImul h
  | imulh => exact .execImulh h
  | imad => exact .execImad h
  | imin => exact .execImin h
  | imax => exact .execImax h
  | iaddw => exact .execIaddw h
  | isubw => exact .execIsubw h
  | shlw => exact .execShlw h
  | isetp => exact .execIsetp h
  | isetpw => exact .execIsetpw h
  | and => exact .execAnd h
  | or => exact .execOr h
  | xor => exact .execXor h
  | lop3 => exact .execLop3 h
  | shl => exact .execShl h
  | shr => exact .execShr h
  | sar => exact .execSar h
  | rot => exact .execRot h
  | popc => exact .execPopc h
  | clz => exact .execClz h
  | brev => exact .execBrev h
  | bfx => exact .execBfx h
  | bfi => exact .execBfi h
  | mov => exact .execMov h
  | movi => exact .execMovi h
  | shape => exact .execShape h
  | unif => exact .execUnif h
  | plop => exact .execPlop h
  | p2v => exact .execP2v h
  | v2p => exact .execV2p h
  | shflLane => exact .execShflLane h
  | shflSwap => exact .execShflSwap h
  | shflBelow => exact .execShflBelow h
  | shflAbove => exact .execShflAbove h
  | voteAll => exact .execVoteAll h
  | voteAny => exact .execVoteAny h
  | voteEq => exact .execVoteEq h
  | voteBallotLo => exact .execVoteBallotLo h
  | voteBallotHi => exact .execVoteBallotHi h
  | matchW => exact .execMatchW h
  | redw => exact .execRedw h
  | crd => exact .execCrd h
  | cwr => exact .execCwr h
  | fadd => exact .execFadd h
  | fsub => exact .execFsub h
  | fmul => exact .execFmul h
  | ffma => exact .execFfma h
  | fmin => exact .execFmin h
  | fmax => exact .execFmax h
  | fsetp => exact .execFsetp h
  | frcp => exact .execFrcp h
  | frsq => exact .execFrsq h
  | fsqrt => exact .execFsqrt h
  | fexp2 => exact .execFexp2 h
  | flog2 => exact .execFlog2 h
  | fsin => exact .execFsin h
  | fcos => exact .execFcos h
  | frnd => exact .execFrnd h
  | cvt => exact .execCvt h
  | dadd => exact .execDadd h
  | dmul => exact .execDmul h
  | dfma => exact .execDfma h
  | dmin => exact .execDmin h
  | dmax => exact .execDmax h
  | dsetp => exact .execDsetp h
  | hadd2 => exact .execHadd2 h
  | hmul2 => exact .execHmul2 h
  | hfma2 => exact .execHfma2 h
  | ld => exact .execLd h
  | ldAcq => exact .execLdAcq h
  | ldPoll => exact .execLdPoll h
  | ldU => exact .execLdU h
  | st => exact .execSt h
  | stRel => exact .execStRel h
  | lds => exact .execLds h
  | sts => exact .execSts h
  | ldt => exact .execLdt h
  | stt => exact .execStt h
  | atomArith => exact .execAtomArith h
  | atomMinmax => exact .execAtomMinmax h
  | atomBit => exact .execAtomBit h
  | atomCas => exact .execAtomCas h
  | stashmap => exact .execStashmap h
  | stashmapUn => exact .execStashmapUn h
  | stashpin => exact .execStashpin h
  | stashpinUn => exact .execStashpinUn h
  | rld => exact .execRld h
  | rst => exact .execRst h
  | ratom => exact .execRatom h
  | rred => exact .execRred h
  | chjoin => exact .execChjoin h
  | chdrain => exact .execChdrain h
  | chstat => exact .execChstat h
  | cpySh => exact .execCpySh h
  | cpySt => exact .execCpySt h
  | cpyTile => exact .execCpyTile h
  | cpyr => exact .execCpyr h
  | twaitAny => exact .execTwaitAny h
  | twaitAll => exact .execTwaitAll h
  | tfirst => exact .execTfirst h
  | tlwait => exact .execTlwait h
  | tlread => exact .execTlread h
  | tld => exact .execTld h
  | tst => exact .execTst h
  | tzero => exact .execTzero h
  | tmov => exact .execTmov h
  | mtrn => exact .execMtrn h
  | tget => exact .execTget h
  | tset => exact .execTset h
  | mma => exact .execMma h
  | mmab => exact .execMmab h
  | mscale => exact .execMscale h
  | mpoly => exact .execMpoly h
  | miterNs => exact .execMiterNs h
  | miterNinv => exact .execMiterNinv h
  | miterPoly => exact .execMiterPoly h
  | tqnt => exact .execTqnt h
  | tdq => exact .execTdq h
  | mxWordEnd => exact .execMxWordEnd h
  | entryVisibleAtDieScope => exact .execEntryVisibleAtDieScope h
  | cplheadWrite => exact .execCplheadWrite h

/-- Settles O60: a step keeps every machine the package holds in its form, and a group under way ends with the step that began it. -/
theorem formInvariant : Obligations.FormInvariant := fun _ t h e => Keeps.cycle (fun _ _ hs => .exec hs) h t e

end Sys2Proof.Machine
end

section
namespace Sys2Proof.Machine

/-! ### Favos goes through its steps (R16 to R18, R324) -/

variable {m : Mach} {r : BootReport} {map : ResMap} {n : Nat}

/-- The map Favos makes of what the package's parts report. -/
def Mach.mapFor (m : Mach) (r : BootReport) : ResMap := mapOne r m.limitNow (m.powerCause m.limitNow)

/-- The step in which the boot ends: the one whose test fails, or the last. -/
def Mach.lastStep (m : Mach) (r : BootReport) : Nat := ((bootFailure r (m.mapFor r)).map Prod.fst).getD 6

/-- The package whose boot failed in a step, for a reason (R18). -/
def Mach.giveUp (m : Mach) (step reason : Nat) : Mach :=
  { m with bootStep := step, bootState := 3, bootReason := reason, booting := none }

/-- The package that has booted with a map (R16 step 6). -/
def Mach.goLive (m : Mach) (map : ResMap) : Mach :=
  { m with
    bootStep := 6, bootState := 2, rmap := map, pubBody := map, pubVer := map.ver, booting := none,
    cores := m.cores.zipIdx.map fun p => { p.1 with live := map.coreLive p.2 } }

/-- The package when its boot has ended. -/
def Mach.booted (m : Mach) (r : BootReport) : Mach :=
  match bootFailure r (m.mapFor r) with
  | some (step, reason) => m.giveUp step reason
  | none => m.goLive (m.mapFor r)

/-- Favos n cycles on. -/
def Mach.favosFor (m : Mach) (n : Nat) : Mach := (List.range n).foldl (fun m _ => m.favos) m

theorem favosFor_succ : m.favosFor (n + 1) = (m.favosFor n).favos := by
  simp [Mach.favosFor, List.range_succ]

theorem booted_of_failure {step reason : Nat} (hf : bootFailure r (m.mapFor r) = some (step, reason)) :
    m.booted r = m.giveUp step reason := by
  simp [Mach.booted, hf]

theorem booted_of_passed (hf : bootFailure r (m.mapFor r) = none) : m.booted r = m.goLive (m.mapFor r) := by
  simp [Mach.booted, hf]

theorem lastStep_of_failure {step reason : Nat} (hf : bootFailure r (m.mapFor r) = some (step, reason)) : m.lastStep r = step := by
  simp [Mach.lastStep, hf]

theorem lastStep_of_passed (hf : bootFailure r (m.mapFor r) = none) : m.lastStep r = 6 := by
  simp [Mach.lastStep, hf]

theorem booted_booting : (m.booted r).booting = none := by
  unfold Mach.booted
  split <;> rfl

theorem favos_of_booting_none (h : m.booting = none) : m.favos = m := by
  simp [Mach.favos, h]

section
variable (hb : m.booting = some r)
include hb

/-- A cycle ends the boot in its last step, and begins the next step otherwise. -/
theorem favos_eq : m.favos = if m.bootStep = m.lastStep r then m.booted r else { m with bootStep := m.bootStep + 1 } := by
  cases hf : bootFailure r (m.mapFor r) with
  | none =>
    rw [lastStep_of_passed hf, booted_of_passed hf]
    unfold Mach.mapFor at hf ⊢
    simp only [Mach.favos, hb, hf, Mach.goLive]
    split
    next h => rw [← h]
    next => rfl
  | some p =>
    rw [lastStep_of_failure hf, booted_of_failure hf]
    unfold Mach.mapFor at hf
    simp only [Mach.favos, hb, hf, Mach.giveUp]
    split
    next h => rw [← h]
    next => rfl

/-- Until the last step, each cycle begins the next one and changes nothing else. -/
theorem favosFor_of_le (h0 : m.bootStep = 0) (hn : n ≤ m.lastStep r) : m.favosFor n = { m with bootStep := n } := by
  induction n with
  | zero =>
    change m = _
    rw [← h0]
  | succ n ih =>
    rw [favosFor_succ, ih (by omega), favos_eq (m := { m with bootStep := n }) hb]
    exact if_neg (Nat.ne_of_lt hn)

/-- After the last step the boot has ended, and nothing more changes. -/
theorem favosFor_of_gt (h0 : m.bootStep = 0) (hn : m.lastStep r < n) : m.favosFor n = m.booted r := by
  induction hn with
  | refl =>
    rw [favosFor_succ, favosFor_of_le hb h0 (Nat.le_refl _), favos_eq (m := { m with bootStep := m.lastStep r }) hb]
    exact if_pos rfl
  | step _ ih => rw [favosFor_succ, ih, favos_of_booting_none booted_booting]
end

/-! ### The test that fails first (R17, R18, R324, R332) -/

theorem bootFailure_of_image (h : r.imageOk = false) : bootFailure r map = some (0, 4) := by
  simp [bootFailure, h]

theorem bootFailure_of_ident (hi : r.imageOk = true) (h : badIdent r.ident = true) : bootFailure r map = some (1, 6) := by
  simp [bootFailure, hi, h]

theorem bootFailure_of_fe (hi : r.imageOk = true) (hid : badIdent r.ident = false) (h : r.feOk = false) :
    bootFailure r map = some (4, 1) := by
  simp [bootFailure, hi, hid, h]

/-- A package that passes the tests before step 6 has a map, or fails there for want of a die or of a plane. -/
theorem bootFailure_of_fe_ok (hi : r.imageOk = true) (hid : badIdent r.ident = false) (h : r.feOk = true) :
    bootFailure r map = none ∨ bootFailure r map = some (6, 2) ∨ bootFailure r map = some (6, 3) := by
  simp only [bootFailure, hi, hid, h, Bool.not_true, Bool.false_eq_true, if_false]
  split
  · exact .inr (.inl rfl)
  split
  · exact .inr (.inr rfl)
  · exact .inl rfl

theorem bootFailure_step_le {step reason : Nat} (h : bootFailure r map = some (step, reason)) : step ≤ 6 := by
  unfold bootFailure at h
  grind

/-- A map that is published has a compute die, and a plane, that is not lost. -/
theorem of_bootFailure_none (h : bootFailure r map = none) :
    (∃ d e, d < 8 ∧ map.dies[d]? = some e ∧ (e.state = 1 ∨ e.state = 2)) ∧ ∃ p ∈ map.planes, p.1 ≠ 0 := by
  unfold bootFailure at h
  have hdie : (map.dies.take 8).any (fun e => e.state == 1 || e.state == 2) = true := by grind
  have hplane : map.planes.any (fun p => p.1 != 0) = true := by grind
  obtain ⟨e, he, hs⟩ := List.any_eq_true.mp hdie
  obtain ⟨p, hp, hp0⟩ := List.any_eq_true.mp hplane
  obtain ⟨d, hd, hde⟩ := List.mem_take_iff_getElem.mp he
  refine ⟨⟨d, e, by omega, ?_, by simpa using hs⟩, p, hp, by simpa using hp0⟩
  exact List.getElem?_eq_some_iff.mpr ⟨by omega, hde⟩

/-! ### How the boot ends -/

section
variable (hb : m.booting = some r) (h0 : m.bootStep = 0)
include hb h0

theorem favosFor_of_failure {step reason : Nat} (hf : bootFailure r (m.mapFor r) = some (step, reason)) (hn : step < n) :
    m.favosFor n = m.giveUp step reason := by
  rw [favosFor_of_gt hb h0 (by rwa [lastStep_of_failure hf]), booted_of_failure hf]

theorem favosFor_of_image (hi : r.imageOk = false) :
    (m.favosFor 1).bootState = 3 ∧ (m.favosFor 1).bootReason = 4 ∧ (m.favosFor 1).rmap.ver = m.rmap.ver := by
  rw [favosFor_of_failure hb h0 (bootFailure_of_image hi) (by decide)]
  exact ⟨rfl, rfl, rfl⟩

theorem favosFor_of_ident (hi : r.imageOk = true) (hid : badIdent r.ident = true) :
    (m.favosFor 2).bootState = 3 ∧ (m.favosFor 2).bootStep = 1 ∧ (m.favosFor 2).bootReason = 6 := by
  rw [favosFor_of_failure hb h0 (bootFailure_of_ident hi hid) (by decide)]
  exact ⟨rfl, rfl, rfl⟩

theorem favosFor_of_fe (hi : r.imageOk = true) (hid : badIdent r.ident = false) (hfe : r.feOk = false) :
    (m.favosFor 5).bootState = 3 ∧ (m.favosFor 5).bootStep = 4 ∧ (m.favosFor 5).bootReason = 1 := by
  rw [favosFor_of_failure hb h0 (bootFailure_of_fe hi hid hfe) (by decide)]
  exact ⟨rfl, rfl, rfl⟩

theorem favosFor_of_fe_ok (hi : r.imageOk = true) (hid : badIdent r.ident = false) (hfe : r.feOk = true) :
    (∀ n, n ≤ 6 → (m.favosFor n).bootState = m.bootState ∧ (m.favosFor n).bootStep = n) ∧
      ((m.favosFor 7).bootState = 2 ∨
        ((m.favosFor 7).bootState = 3 ∧ (m.favosFor 7).bootStep = 6 ∧ ((m.favosFor 7).bootReason = 2 ∨ (m.favosFor 7).bootReason = 3))) := by
  have hcases := bootFailure_of_fe_ok (map := m.mapFor r) hi hid hfe
  have hlast : m.lastStep r = 6 := by
    obtain hf | hf | hf := hcases
    · exact lastStep_of_passed hf
    · exact lastStep_of_failure hf
    · exact lastStep_of_failure hf
  refine ⟨fun n hn => ?_, ?_⟩
  · rw [favosFor_of_le hb h0 (hlast ▸ hn)]
    exact ⟨rfl, rfl⟩
  · rw [favosFor_of_gt hb h0 (by omega)]
    obtain hf | hf | hf := hcases
    · exact .inl (by rw [booted_of_passed hf]; rfl)
    · exact .inr (by rw [booted_of_failure hf]; exact ⟨rfl, rfl, .inl rfl⟩)
    · exact .inr (by rw [booted_of_failure hf]; exact ⟨rfl, rfl, .inr rfl⟩)

/-- A boot that ends well has passed every test, and ends with the map. -/
theorem of_favosFor_live (h : (m.favosFor 7).bootState = 2) : bootFailure r (m.mapFor r) = none ∧ m.favosFor 7 = m.booted r := by
  cases hf : bootFailure r (m.mapFor r) with
  | none => exact ⟨rfl, favosFor_of_gt hb h0 (by rw [lastStep_of_passed hf]; decide)⟩
  | some p =>
    rw [favosFor_of_failure hb h0 hf (Nat.lt_succ_of_le (bootFailure_step_le hf))] at h
    cases h

/-- What a boot that ends well leaves: version 1 of the map, the cores live that it names, a compute die and a plane. -/
theorem favosFor_live (h : (m.favosFor 7).bootState = 2) :
    (m.favosFor 7).rmap.ver = 1 ∧ (∀ c, c < m.cores.length → ((m.favosFor 7).core c).live = (m.favosFor 7).rmap.coreLive c) ∧
      (∃ d e, d < 8 ∧ (m.favosFor 7).rmap.dies[d]? = some e ∧ (e.state = 1 ∨ e.state = 2)) ∧ ∃ p ∈ (m.favosFor 7).rmap.planes, p.1 ≠ 0 := by
  obtain ⟨hf, e⟩ := of_favosFor_live hb h0 h
  rw [e, booted_of_passed hf]
  exact ⟨rfl, fun c hc => by simp [Mach.core, Mach.goLive, hc], of_bootFailure_none hf⟩
end

/-! ### Package reset (R3, R16, R324) -/

/-- The report Favos goes by has its own verdict on the image (R332). -/
theorem boot_booting : (m.boot r).booting = some { r with imageOk := imageValid (m.boot r).image } := rfl

theorem reset_queues : State.reset.m.queues = List.replicate 256 Queue.empty := rfl

theorem reset_cores : State.reset.m.cores = List.replicate 160 Core.empty := rfl

theorem reset_slots : State.reset.m.slots = List.replicate 2 (List.replicate 256 RSlot.empty) := rfl

theorem boot_queue_off (q : Nat) : ((m.boot r).queue q).enable = false := by
  change ((List.replicate 256 Queue.empty).getD q Queue.empty).enable = false
  rw [List.getD_eq_getElem?_getD, List.getElem?_replicate]
  split
  · rfl
  · rfl

/-- Settles O55: reset's values are closed facts, and Favos's cycles come to the step in which `bootFailure`, or step 6, ends the boot. -/
theorem resetAndBoot : Obligations.ResetAndBoot := by
  refine ⟨⟨rfl, rfl, rfl, rfl, rfl, rfl, rfl, rfl, rfl, rfl, rfl, ?_, ?_, rfl, ?_, ?_, ?_, rfl, ⟨reset_wf, rfl⟩, rfl⟩, fun s r => ?_⟩
  · rw [reset_queues, List.length_replicate]
  · intro q hq
    rw [reset_queues] at hq
    rw [List.eq_of_mem_replicate hq]
    rfl
  · rw [reset_cores, List.length_replicate]
  · intro c hc
    rw [reset_cores] at hc
    rw [List.eq_of_mem_replicate hc]
    decide
  · intro l hl
    rw [reset_slots] at hl
    rw [List.eq_of_mem_replicate hl]
    exact ⟨List.length_replicate, fun k hk => by rw [List.eq_of_mem_replicate hk]; rfl⟩
  · refine ⟨s.m.boot r, rfl, rfl, rfl, rfl, rfl, rfl, rfl, rfl, rfl, rfl, rfl, rfl, ?_, rfl, ?_⟩
    · exact boot_queue_off
    · have hb := boot_booting (m := s.m) (r := r)
      exact ⟨favosFor_of_image hb rfl, favosFor_of_ident hb rfl, favosFor_of_fe hb rfl, favosFor_of_fe_ok hb rfl, favosFor_live hb rfl⟩

end Sys2Proof.Machine
end

section
namespace Sys2Proof.Machine

/-! ### Forms of an effect: rules about what a word or an event works on, each said once -/

/-- R101, R287: the trap of a word leaves the fetched machine with its trap entered, as `Cx.Traps` says. -/
theorem Cx.traps_trap (c : Cx) (cause sub addr detail : Nat) :
    c.Traps (.next (c.trap cause sub addr detail)) cause sub addr detail := by
  have hf : c.fetched cause = if laneDetail cause then c.is.base else c.is.base.touchPcs c.b.ctx c.b.entry c.is.code := by
    simp [Cx.fetched, laneDetail]
  unfold Cx.Traps
  rw [hf]
  rfl

/-- R105: an entry that waits for its result changes nothing else. -/
theorem Cx.awaits_enter (c : Cx) (dests : List Dest) (pend : Pend) (vals : List RVal) (acq : Bool) (waits : List Nat) :
    c.Awaits (.next (c.enter dests pend vals acq waits).s) id dests pend acq waits :=
  ⟨c.mkEntry dests pend vals acq waits, by rw [enter_state]; rfl, fun w => ⟨c.mkEntry_new _ _ _ _ _ w, rfl, rfl, rfl, rfl⟩⟩

/-- R104, R105: a long result with one value for all lanes. -/
theorem long_uniform_enters (c : Cx) (d : BitVec 6) (x : Word) : c.Enters (.next (c.long d.toNat [.u x]).s) d 0 [fun _ => x] :=
  long_enters c d _ _ rfl fun i f hf l _ _ => by
    cases i with
    | zero => cases hf; rfl
    | succ i => cases hf

/-- Two changes of the issuing warp are one. -/
theorem Cx.updW_updW (c : Cx) (f g : Warp → Warp) (hf : ∀ x, (f x).num = x.num) : (c.updW f).updW g = c.updW fun x => g (f x) := by
  simp only [Cx.updW, Cx.upd]
  rw [updWarp_updWarp _ _ _ _ _ hf]

/-- R105: entering a return-buffer entry and a later change of the warp are one change of the warp. -/
theorem enter_updW_state (c : Cx) (dests : List Dest) (pend : Pend) (vals : List RVal) (acq : Bool) (waits : List Nat) (f : Warp → Warp) :
    ((c.enter dests pend vals acq waits).updW f).s = c.withWarp fun w => f (w.push (c.mkEntry dests pend vals acq waits w)) :=
  congrArg Cx.s (c.updW_updW (fun w => w.push (c.mkEntry dests pend vals acq waits w)) f fun _ => rfl)

/-- Every word that names no register runs without the frame's check. -/
theorem Cx.holds_nil {c : Cx} : c.Holds [] := fun _ hr => absurd hr List.not_mem_nil

/-- What a fence of the group leaves to do changes the machine alone. -/
theorem Cx.afterFence_is (c : Cx) : c.afterFence.is = c.is := by
  unfold Cx.afterFence; simp only; split <;> rfl

/-- R185: with the lanes' earlier accesses performed, the word goes on. -/
theorem Cx.settledAll_of_true {c : Cx} {m1 : Mach} (he : c.s.m.settleAll c.is.blk c.is.warp c.ex = (m1, true)) (k : Cx → State) :
    c.settledAll k = k { c with s := { c.s with m := m1 } } := by
  rw [Cx.settledAll, he]; rfl

/-- R185: while one of them cannot perform, the group waits. -/
theorem Cx.settledAll_of_false {c : Cx} {m1 : Mach} (he : c.s.m.settleAll c.is.blk c.is.warp c.ex = (m1, false)) (k : Cx → State) :
    c.settledAll k = c.stall := by
  rw [Cx.settledAll, he]; rfl

/-- An event's meaning is a change of the machine alone. -/
theorem State.event_of_eq {s : State} {f : Mach → Mach} {m : Mach} (h : f s.m = m) : s.event f = .next { s with m := m } := by
  rw [State.event, h]

end Sys2Proof.Machine
end

section
namespace Sys2Proof.Machine

/-! ### Rules of the words that read control registers (O17) -/

section
variable {s : State} {h : Hdr} {c : Cx}

/-- R245: only the numbers 0x030 to 0x03F name a tile's TCTL. -/
theorem Cx.noTile_of_outside {n : Nat} (ho : n < 0x030 ∨ 0x040 ≤ n) : c.noTile n = false :=
  decide_eq_false (by omega)

/-- R352: no number from 0x022 to 0x062, and none from 0x066 on, is a long register's. -/
theorem crLong_eq_false {n : Nat} (hn : 0x022 ≤ n ∧ n ≤ 0x062 ∨ 0x066 ≤ n) : crLong n = false := by
  rw [crLong, List.contains_eq_mem, decide_eq_false_iff_not]
  simp only [List.mem_cons, List.not_mem_nil, or_false]
  omega

/-- R119: the short registers from the TCTLs on. -/
theorem Cx.crShort_of_ge (c : Cx) {n : Nat} (hn : 0x030 ≤ n) : c.crShort n =
    if n < 0x040 then .u (c.side.tctl.getD (n - 0x030) 0)
    else if n < 0x060 then .u ((if n % 2 = 0 then lo32 else hi32) (c.side.eng.coef.getD ((n - 0x040) / 2) 0))
    else if n = 0x060 then .u c.side.eng.mitcap
    else if n = 0x061 then .u c.side.eng.mittol
    else if n = 0x062 then .u c.side.eng.mitdiv
    else .u (c.w.vcs.getD (n - 0x068) 0) := by
  unfold Cx.crShort
  iterate 26 rw [if_neg (by omega)]
  by_cases h40 : n < 0x040
  · rw [if_pos ⟨hn, h40⟩, if_pos h40]
  · rw [if_neg (fun hc => h40 hc.2), if_neg h40]
    by_cases h60 : n < 0x060
    · rw [if_pos ⟨by omega, h60⟩, if_pos h60]
      split <;> rfl
    · rw [if_neg (fun hc => h60 hc.2), if_neg h60]

section
variable (hr : Runs s h c) {d : BitVec 6} (hh : c.Holds [d.toNat]) {n : BitVec 13}
include hr hh

/-- R245, R352: what CRD does when it runs. -/
theorem exec_crd_of_runs : exec (.crd h d n) s = .next
    (if c.noTile n.toNat then c.trap 0x08 1 0 c.ex.toNat
     else if crLong n.toNat then c.crLongRead d.toNat n.toNat
     else (c.short d.toNat (c.crShort n.toNat)).s) := by
  change execCrd h d n s = _
  exact word_runs hr hh _

/-- R352: CRD of a short register writes its value. -/
theorem crd_short {f : Nat → Word} (ht : c.noTile n.toNat = false) (hl : crLong n.toNat = false)
    (hv : ∀ l, l < c.W → (c.crShort n.toNat).get l = f l) : c.SetsReg (exec (.crd h d n) s) d 0 f := by
  rw [exec_crd_of_runs hr hh, ht, hl]
  exact short_sets c d _ f fun l hW _ => hv l hW

/-- R352: CRD of a long register goes on with the long read. -/
theorem crd_long (ht : c.noTile n.toNat = false) (hl : crLong n.toNat = true) :
    exec (.crd h d n) s = .next (c.crLongRead d.toNat n.toNat) := by
  rw [exec_crd_of_runs hr hh, ht, hl]
  rfl

/-- R245: CRD of the TCTL of a tile the block does not hold traps TILE. -/
theorem crd_noTile (ht : c.noTile n.toNat = true) : c.Traps (exec (.crd h d n) s) 0x08 1 0 c.ex.toNat := by
  rw [exec_crd_of_runs hr hh, if_pos ht]
  exact c.traps_trap _ _ _ _

/-- R352: a short register with one value for all lanes, none of a tile. -/
theorem crd_uniform {x : Word} (hv : c.crShort n.toNat = .u x) (ht : n.toNat < 0x030 ∨ 0x040 ≤ n.toNat := by decide)
    (hl : crLong n.toNat = false := by decide) : c.SetsReg (exec (.crd h d n) s) d 0 fun _ => x :=
  crd_short hr hh (Cx.noTile_of_outside ht) hl fun _ _ => by rw [hv]; rfl

/-- R352: CRD of a register that is not sampled at once leaves an entry that samples it. -/
theorem crd_sampled (ht : n.toNat < 0x030 ∨ 0x040 ≤ n.toNat := by decide) (hl : crLong n.toNat = true := by decide)
    (hn : n.toNat ≠ 0x011 ∧ n.toNat ≠ 0x012 ∧ n.toNat ≠ 0x019 := by decide) :
    c.Awaits (exec (.crd h d n) s) id (c.wholeRegs [d.toNat]) (.sample n.toNat) false [] := by
  obtain ⟨h11, h12, h19⟩ := hn
  rw [crd_long hr hh (Cx.noTile_of_outside ht) hl, Cx.crLongRead, if_neg h11, if_neg h12, if_neg h19]
  exact c.awaits_enter _ _ _ _ _

end
end

/-- A mask's high word, as CRD's numbers give it. -/
theorem hi32_eq_ofNat (v : BitVec 64) : hi32 v = BitVec.ofNat 32 (v.toNat / 2 ^ 32) := by
  apply BitVec.eq_of_toNat_eq
  simp [hi32, Nat.shiftRight_eq_div_pow]

/-- Settles O17: a short register by `crd_short`, a sampled one by `crd_sampled`; CLOCK, CLOCKHI and FPFLAGS are entries known at issue. -/
theorem controlReads : Obligations.ControlReads := by
  intro s h c d r hr hh k read
  have u {n : BitVec 13} {x : Word} := @crd_uniform s h c hr d hh n x
  have byLane {n : BitVec 13} {f : Nat → Word} (ho : n.toNat < 0x030 ∨ 0x040 ≤ n.toNat) :=
    @crd_short s h c hr d hh n f (Cx.noTile_of_outside ho)
  refine ⟨?short, ?framesz, ?coef, ?vcs, ?tctl, ?noTile, ?clock, ?clockhi, ?sampled, ?fpflags⟩
  case short =>
    simp only [List.forall_mem_cons, List.not_mem_nil, false_implies, implies_true, and_true]
    have lane : c.SetsReg (read 0x000) d 0 fun l => BitVec.ofNat 32 l :=
      byLane (by decide) rfl fun l _ => by simp [Cx.crShort, RVal.get]
    have thread : c.SetsReg (read 0x00B) d 0 fun l => BitVec.ofNat 32 (c.w.num * c.b.width + l) :=
      byLane (by decide) rfl fun l _ => by simp [Cx.crShort, RVal.get, BitVec.ofNat_add, Cx.W]
    have depth : c.SetsReg (read 0x01C) d 0 fun l => BitVec.ofNat 32 (c.w.lane l).depth :=
      byLane (by decide) rfl fun l hl => RVal.lanes_get _ _ _ hl
    have exhi : c.SetsReg (read 0x004) d 0 fun _ => hi32 c.ex := by rw [hi32_eq_ofNat]; exact u rfl
    exact ⟨lane, u rfl, u rfl, u rfl, exhi, u rfl, u rfl, u rfl, u rfl, u rfl, u rfl, thread, u rfl, u rfl, u rfl, u rfl, u rfl, u rfl,
      u rfl, u rfl, u rfl, depth, u rfl, u rfl, u rfl, u rfl, u rfl, u rfl⟩
  case framesz =>
    intro f hf
    exact u (congrArg (fun v => RVal.u (BitVec.ofNat 32 v)) (by rw [Cx.frameSz, hf]))
  case coef =>
    intro h1 h2
    exact u (by rw [c.crShort_of_ge (by omega), if_neg (by omega), if_pos h2]) (.inr h1) (crLong_eq_false (.inl (by omega)))
  case vcs =>
    intro h1 h2
    refine u ?_ (.inr (by omega)) (crLong_eq_false (.inr (by omega)))
    rw [c.crShort_of_ge (by omega)]
    iterate 5 rw [if_neg (by omega)]
  case tctl =>
    intro h1 h2 h3
    refine crd_short hr hh (decide_eq_false (by omega)) (crLong_eq_false (.inl (by omega))) fun l _ => ?_
    rw [c.crShort_of_ge h1, if_pos (by omega)]
    rfl
  case noTile =>
    intro h1 h2
    exact crd_noTile hr hh (decide_eq_true (by omega))
  case clock =>
    have e := crd_long hr hh (n := 0x011) (Cx.noTile_of_outside (by decide)) rfl
    refine ⟨c.mkEntry (c.wholeRegs [d.toNat]) .value [.u (BitVec.ofNat 32 c.is.base.clock)] false [], ?_,
      fun w => ⟨c.mkEntry_new _ _ _ _ _ w, rfl, rfl⟩⟩
    exact e.trans (congrArg _ (enter_updW_state c _ _ _ _ _ _))
  case clockhi =>
    have e := crd_long hr hh (n := 0x012) (Cx.noTile_of_outside (by decide)) rfl
    rw [show read 0x012 = _ from e]
    exact long_uniform_enters c d c.w.clkHi
  case sampled =>
    simp only [List.forall_mem_cons, List.not_mem_nil, false_implies, implies_true, and_true]
    have sampled {n : BitVec 13} := @crd_sampled s h c hr d hh n
    exact ⟨sampled, sampled, sampled, sampled, sampled, sampled, sampled, sampled⟩
  case fpflags =>
    intro w0 hw
    have e := crd_long hr hh (n := 0x019) (Cx.noTile_of_outside (by decide)) rfl
    refine ⟨c.mkEntry (c.wholeRegs [d.toNat]) (if c.miterOpen then .sample 0x019 else .value) [.u w0.fpflags] false [], ?_,
      fun w => ⟨c.mkEntry_new _ _ _ _ _ w, rfl, rfl, rfl⟩⟩
    refine e.trans (congrArg _ ?_)
    change (if c.miterOpen then _ else _) = _
    rw [hw]
    cases c.miterOpen <;> rfl

end Sys2Proof.Machine
end

section
namespace Sys2Proof.Machine

/-! ### Sites, barriers, yields and exits (O23) -/

section
variable {s : State} {h : Hdr} {c : Cx} (hr : Runs s h c)
include hr

/-- R341: what BAR does when it runs. -/
theorem exec_bar_of_runs : exec (.bar h) s = .next (c.settledAll fun c =>
    ((c.afterFence.updW fun w => w.updLanes c.ex fun l => { l with run := .bar }).updB Block.evalBar).s) := by
  change execBar h s = _
  exact word_runs hr Cx.holds_nil _

/-- R362: what EXIT does when it runs. -/
theorem exec_exit_of_runs : exec (.exit h) s = .next (c.settledAll fun c =>
    (c.release.upd fun m => m.exitLanes c.is.blk c.is.warp c.ex).s) := by
  change execExit h s = _
  exact word_runs hr Cx.holds_nil _

/-- R54: what DIVG does when it runs. -/
theorem exec_divg_of_runs (k : BitVec 13) : exec (.divg h k) s = .next (c.withWarp fun w =>
    let w1 := match w.sites[k.toNat]? with | some x => w.releaseSite k.toNat x.waiting | none => w
    { w1 with sites := w1.sites.set k.toNat { expected := c.ex, arrived := 0, waiting := 0, depth := c.lanes.map fun l => (l, (c.w.lane l).depth) } }) := by
  change execDivg h k s = _
  exact word_runs hr Cx.holds_nil _

/-- R55: what RECONV does when it runs. -/
theorem exec_reconv_of_runs (k : BitVec 13) : exec (.reconv h k) s = .next (c.afterFence.withWarp fun w =>
    match w.sites[k.toNat]? with
    | none => w
    | some x =>
      let here := c.ex &&& x.expected
      let w1 : Warp := { w with sites := w.sites.set k.toNat { x with arrived := x.arrived ||| here, waiting := x.waiting ||| here } }
      (w1.updLanes here fun l => { l with run := .reconv k.toNat }).siteCheck k.toNat) := by
  change execReconv h k s = _
  exact word_runs hr Cx.holds_nil _

/-- R429: what YIELD does when it runs. -/
theorem exec_yield_of_runs : exec (.yield h) s = .next ((c.updW fun w => w.yielded c.is.lanes).upd Mach.markYield).s := by
  change execYield h s = _
  exact word_runs hr Cx.holds_nil _

end

/-- R429: the ready pending warps of a core that may take the place of warp w of block blk, oldest first. -/
def Mach.successors (m : Mach) (gate : Gate) (c blk w : Nat) : List (Block × Warp) :=
  (m.coreWarps c).filter fun p =>
    !(m.core c).actSet.contains (p.1.id, p.2.num) && (p.1.id, p.2.num) != (blk, w) && !(m.offers gate p.1 p.2).isEmpty

/-- R429: without a successor the active set stays. -/
theorem Mach.yieldPlace_of_nil {m : Mach} {gate : Gate} {c blk w : Nat} (hn : m.successors gate c blk w = []) :
    m.yieldPlace gate c blk w = m := by
  rw [Mach.successors] at hn
  simp only [Mach.yieldPlace, hn]

/-- R429: the oldest successor takes the place of the warp that gives it away. -/
theorem Mach.yieldPlace_of_cons {m : Mach} {gate : Gate} {c blk w : Nat} {p : Block × Warp} {rest : List (Block × Warp)}
    (hn : m.successors gate c blk w = p :: rest) : m.yieldPlace gate c blk w =
      m.updCore c fun k => { k with actSet := (k.actSet.filter fun q => q != (blk, w)) ++ [(p.1.id, p.2.num)] } := by
  rw [Mach.successors] at hn
  simp only [Mach.yieldPlace, hn]

/-- R429: at the end of the cycle the issuing warp gives its place away if it has executed a YIELD. -/
theorem Mach.giveAway_of_front {m : Mach} {gate : Gate} {f : Front} {b : Block} {w : Warp} (hf : m.front = some f)
    (hb : m.block? f.blk = some b) (hw : m.warp? f.blk f.warp = some w) :
    m.giveAway gate = if f.yields then m.yieldPlace gate (b.side w.side).core f.blk f.warp else m := by
  simp only [Mach.giveAway, hf, hb, hw]
  cases f.yields <;> rfl

/-- Settles O23: DIVG, RECONV, BAR, YIELD and EXIT each by the word's own equation, and the place a YIELD gives away by `Mach.giveAway_of_front`. -/
theorem sitesAndExit : Obligations.SitesAndExit := by
  intro s h c k hr site opened arrive
  refine ⟨?divg, ?reconv, ?performed, ?waiting, ?yield, ?giveAway⟩
  case divg =>
    refine (exec_divg_of_runs hr k).trans ?_
    congr 2
    funext w
    cases hx : w.sites[k.toNat]? with
    | none => simp only [site, hx]; rfl
    | some x => simp only [site, hx]; rfl
  case reconv =>
    refine (exec_reconv_of_runs hr k).trans ?_
    congr 2
    funext w
    cases hx : w.sites[k.toNat]? with
    | none => simp only [site, hx]
    | some x => simp only [site, hx]; rfl
  case performed =>
    intro m1 hm
    rw [exec_bar_of_runs hr, exec_exit_of_runs hr, Cx.settledAll_of_true hm, Cx.settledAll_of_true hm]
    refine ⟨?_, rfl⟩
    simp only [Cx.Does, Cx.updB, Cx.updW, Cx.upd, Cx.afterFence_is]
  case waiting =>
    intro m1 hm
    rw [exec_bar_of_runs hr, exec_exit_of_runs hr, Cx.settledAll_of_false hm, Cx.settledAll_of_false hm]
    exact ⟨rfl, rfl⟩
  case yield => exact exec_yield_of_runs hr
  case giveAway =>
    intro m f b w hf hb hw
    rw [Mach.giveAway_of_front hf hb hw]
    refine ⟨⟨{ f with yields := true }, by rw [Mach.markYield, hf]; rfl, rfl, rfl, rfl⟩, fun hy => by rw [hy]; rfl, fun hy => ?_⟩
    rw [if_pos hy]
    exact ⟨Mach.yieldPlace_of_nil, fun _ _ => Mach.yieldPlace_of_cons⟩

end Sys2Proof.Machine
end

section
namespace Sys2Proof.Machine

/-! ### The scheduler's and the save engine's events (O45) -/

section
variable {m : Mach} {w : Warp} {id : Nat} {b : Block}

/-- A change of one element depends on what it makes of that element alone. -/
theorem modAt_congr {α : Type} {l : List α} {i : Nat} (d : α) {f g : α → α} (h : f (l.getD i d) = g (l.getD i d)) : modAt l i f = modAt l i g := by
  induction l generalizing i with
  | nil => rfl
  | cons x xs ih =>
    cases i with
    | zero => exact congrArg (· :: xs) h
    | succ i => exact congrArg (x :: ·) (ih h)

/-- Two changes of a core that agree on what it holds are the same. -/
theorem Mach.updCore_congr {c : Nat} {f g : Core → Core} (h : f (m.core c) = g (m.core c)) : m.updCore c f = m.updCore c g := by
  rw [Mach.updCore, Mach.updCore, modAt_congr Core.empty h]

/-- The best element is one of the list. -/
theorem bestBy_mem {α : Type} {f : α → Nat} {x : α} {xs : List α} (h : bestBy f xs = some x) : x ∈ xs := by
  induction xs generalizing x with
  | nil => cases h
  | cons y ys ih =>
    rw [bestBy] at h
    cases hb : bestBy f ys with
    | none =>
      simp only [hb] at h
      cases h
      exact List.mem_cons_self
    | some z =>
      simp only [hb] at h
      split at h
      · cases h; exact List.mem_cons_self
      · cases h; exact List.mem_cons_of_mem _ (ih hb)

/-- R281: the warp that joins the active set is a pending one of the core that has waited 512 cycles. -/
theorem Mach.of_exchangeWarp {c : Nat} {p : Nat × Nat} (h : m.exchangeWarp c = some p) :
    ∃ b w, (b, w) ∈ m.coreWarps c ∧ (b.id, w.num) = p ∧ 512 ≤ w.waitCnt ∧ p ∉ (m.core c).actSet := by
  rw [Mach.exchangeWarp, Option.map_eq_some_iff] at h
  obtain ⟨⟨b, w⟩, hbest, rfl⟩ := h
  have hmem := bestBy_mem hbest
  simp only [List.mem_filter, Bool.and_eq_true, Bool.not_eq_true', decide_eq_true_eq, List.contains_eq_mem, decide_eq_false_iff_not] at hmem
  obtain ⟨hin, hout, h512⟩ := hmem
  exact ⟨b, w, hin, rfl, h512, hout⟩

/-- R281: it joins the set behind the others, in the place of the one longest in it. -/
theorem Mach.exchange_of_some {c : Nat} {p : Nat × Nat} (h : m.exchangeWarp c = some p) : m.exchange c =
    (m.updCore c fun x => { x with actSet := (m.core c).actSet.drop 1 ++ [p], exch := some m.clock }).updWarp p.1 p.2 fun w => { w with waitCnt := 0 } := by
  simp only [Mach.exchange, h]
  rw [Mach.updCore_congr]
  rfl

/-! #### Paths that age (R50, R429) -/

/-- R50: a path whose counter has reached 256, not aged yet. -/
def Path.due (p : Path) : Bool := !p.aged && decide (256 ≤ p.age)

theorem Warp.ageFront_paths (w : Warp) : w.ageFront.paths =
    ((w.paths.filter Path.due).map fun p => { p with aged := true, yield := false }) ++ w.paths.filter fun p => !p.due := rfl

/-- R50: no path is lost or added. -/
theorem Warp.ageFront_length (w : Warp) : w.ageFront.paths.length = w.paths.length := by
  have hsplit := List.length_eq_countP_add_countP Path.due (l := w.paths)
  simp only [decide_not, Bool.decide_eq_true, List.countP_eq_length_filter] at hsplit
  rw [Warp.ageFront_paths, List.length_append, List.length_map, ← hsplit]

/-- R50: afterwards no path of 256 cycles or more is left unaged. -/
theorem Warp.ageFront_aged {p : Path} (hp : p ∈ w.ageFront.paths) (h : 256 ≤ p.age) : p.aged = true := by
  rw [Warp.ageFront_paths, List.mem_append, List.mem_map, List.mem_filter] at hp
  obtain ⟨q, _, rfl⟩ | ⟨_, hd⟩ := hp
  · rfl
  · simpa [Path.due, h] using hd

/-- The paths that have become aged stand first. -/
theorem Warp.ageFront_front {p : Path} (hp : p ∈ w.paths) (h : 256 ≤ p.age) (ha : p.aged = false) :
    { p with aged := true, yield := false } ∈ w.ageFront.paths.take (w.paths.filter Path.due).length := by
  rw [Warp.ageFront_paths, List.take_left' (List.length_map _)]
  exact List.mem_map_of_mem (List.mem_filter.2 ⟨hp, by simp [Path.due, h, ha]⟩)

/-! #### Watches that end (R53) -/

/-- What `updLanes` leaves in a lane of its mask. -/
theorem Warp.updLanes_lane {k : Mask} {f : Lane → Lane} {l : Nat} (hl : l < w.lanes.length) (hk : k.getLsbD l = true) :
    (w.updLanes k f).lane l = f (w.lane l) := by
  simp [Warp.updLanes, Warp.lane, hl, hk]

/-- R53: the path of a lane whose watch is over is ready again. -/
def Warp.watchOver (w : Warp) (l : Nat) (due : Run → Bool) : Warp :=
  if due (w.lane l).run then w.updLanes (w.pathOf l) fun k => if due k.run then { k with run := .ready } else k else w

/-- R53: the lane goes on at its PC, and the order of the paths stays. -/
theorem Warp.watchOver_lane {l : Nat} {due : Run → Bool} (hd : due (w.lane l).run = true) (hl : l < w.lanes.length)
    (hp : (w.pathOf l).getLsbD l = true) : ((w.watchOver l due).lane l).run = .ready ∧ ((w.watchOver l due).lane l).pc = (w.lane l).pc ∧
      (w.watchOver l due).paths = w.paths := by
  rw [Warp.watchOver, if_pos hd, Warp.updLanes_lane hl hp, if_pos hd]
  exact ⟨rfl, rfl, rfl⟩

/-! #### Banks that swap (R282, R300) -/

/-- R283, R300: the end of a swap, by whether the Anteroom then asks for another. -/
theorem Mach.swapOver_of_due {c t : Nat} (ht : (m.core c).swapEnd = some t) (h : t ≤ m.clock) : m.swapOver c =
    if (m.core c).again && !(m.inBank c (m.core c).active).isEmpty && decide (m.bankPriority c (m.core c).active < m.bankPriority c (1 - (m.core c).active))
    then (m.updCore c fun k => { k with swapEnd := none, again := false }).swap c
    else m.updCore c fun k => { k with swapEnd := none, again := false } := by
  simp only [Mach.swapOver, ht, if_pos h]

/-! #### Blocks saved and restored (R302, R303) -/

/-- R302: a block that is stopped, or of a suspended context, is saved. -/
theorem Mach.contextSave_of_block (hb : m.block? id = some b) (hs : b.stopped = true ∨ (m.ctx? b.ctx).any Ctx.suspended = true) :
    m.contextSave id = (m.saveBlock id).1 := by
  have hs' : (b.stopped || (m.ctx? b.ctx).any Ctx.suspended) = true := by rw [Bool.or_eq_true]; exact hs
  simp only [Mach.contextSave, hb, hs', if_true]

/-- R302 step 1: a running MX word keeps the block from its record. -/
theorem Mach.saveBlock_of_mx (hb : m.block? id = some b) (hp : b.place = .placed) (hq : (m.freeze id).mxQuiet b = false) :
    m.saveBlock id = (m.freeze id, false) := by
  simp [Mach.saveBlock, hb, hp, hq]

/-- R302: a quiet block whose header and record can be written is stowed. -/
theorem Mach.saveBlock_of_open {b2 : Block} {h r : Mach} (hb : m.block? id = some b) (hp : b.place = .placed)
    (hq : (m.freeze id).mxQuiet b = true) (hb2 : ((m.freeze id).quiesce id).block? id = some b2) (hp2 : b2.place = .placed) (hc : b2.copies = [])
    (hh : ((m.freeze id).quiesce id).headerOpen b2.die b2.ctx = (h, true))
    (hr : h.recordOpen b2 { r := false, w := true, x := false } = (r, true)) : m.saveBlock id = (r.stow id, true) := by
  simp [Mach.saveBlock, hb, hp, hq, hb2, hp2, hc, hh, hr]

theorem Mach.block?_id (hb : m.block? id = some b) : b.id = id := by
  simpa using List.find?_some hb

theorem Mach.foldl_updBank_blocks {α : Type} (c i : α → Nat) (f : Bank → Bank) (l : List α) (m : Mach) :
    (l.foldl (fun m x => m.updBank (c x) (i x) f) m).blocks = m.blocks := by
  induction l generalizing m with
  | nil => rfl
  | cons x xs ih => rw [List.foldl_cons, ih, Mach.updBank_blocks]

/-- R303, R447: a block that has taken up a place is being restored. -/
theorem Mach.reserve_place {spot : Spot} {x : Block} (hx : (m.reserve b spot).block? b.id = some x) : x.place = .restoring := by
  rw [Mach.block?, Mach.reserve, Mach.foldl_updBank_blocks, Mach.updBlock, find_modWhere _ _ _ _ (by simp), Option.map_eq_some_iff] at hx
  obtain ⟨y, hy, rfl⟩ := hx
  rw [if_pos (List.find?_some hy)]

/-- R306: the record of a block in its place is read when all its pages can be. -/
theorem Mach.readRecord_of_open {r : Mach} (hb : m.block? id = some b) (hp : b.place = .restoring)
    (hr : m.recordOpen b { r := true, w := false, x := false } = (r, true)) : m.readRecord id = (r.unstow b, true) := by
  simp [Mach.readRecord, hb, hp, hr]

theorem Mach.place_of_restorable (h : m.restorable b = true) : b.place = .saved := by
  simp only [Mach.restorable, Bool.and_eq_true, beq_iff_eq] at h
  obtain ⟨⟨hp, _⟩, _⟩ := h
  exact hp

/-- R303: a saved block takes the first place that can take it. -/
theorem Mach.restoreBlock_of_spot {spot : Spot} {more : List Spot} (hb : m.block? id = some b) (h : m.restorable b = true)
    (hs : m.restoreSpots b = spot :: more) : m.restoreBlock id = (m.reserve b spot).readRecord id := by
  have hp := Mach.place_of_restorable h
  simp [Mach.restoreBlock, hb, h, hp, hs]

/-- R283, R303: a saved block whose record is read takes its place, and swaps its cores in as its priority asks. -/
theorem Mach.restore_of_read {spot : Spot} {more : List Spot} {r : Mach} {y : Block} (hb : m.block? id = some b) (h : m.restorable b = true)
    (hs : m.restoreSpots b = spot :: more) (hr : (m.reserve b spot).readRecord id = (r, true)) (hy : r.block? id = some y) :
    m.restore id = r.swapIn (m.blockPriority b) (y.sides.map fun s => (s.core, s.bank, s.tagFirst)) m := by
  simp [Mach.restore, hb, h, hs, Mach.restoreBlock_of_spot hb h hs, hr, hy]

end

/-- Settles O45: each event's meaning is a change of the machine alone, and the lemmas above say what the change does. -/
theorem schedulerEvents : Obligations.SchedulerEvents := by
  intro s
  refine ⟨?exchange, ?aged, ?wake, ?expiry, ?swap, ?swapped, ?save, ?restore⟩
  case exchange =>
    intro c p h
    exact ⟨Mach.of_exchangeWarp h, State.event_of_eq (f := fun m => m.exchange c) (Mach.exchange_of_some h)⟩
  case aged =>
    intro id n
    exact ⟨Warp.ageFront, rfl, fun w => ⟨w.ageFront_length, fun p => Warp.ageFront_aged, rfl, fun p => Warp.ageFront_front⟩⟩
  case wake =>
    intro id n l
    refine ⟨fun w => w.watchOver l Run.woken, rfl, fun w t k hw hl hp => Warp.watchOver_lane ?_ hl hp⟩
    rw [hw]
    rfl
  case expiry =>
    intro id n l
    refine ⟨fun w => w.watchOver l (Run.expired s.m.clock), rfl, fun w t k x hw ht hl hp => Warp.watchOver_lane ?_ hl hp⟩
    rw [hw]
    exact decide_eq_true ht
  case swap =>
    intro c h
    exact State.event_of_eq (f := fun m => m.bankSwap c) (if_pos h)
  case swapped =>
    intro c t ht h k done_ higher
    have e : exec (.swapComplete c) s = .next { s with m := s.m.swapOver c } := rfl
    rw [e, Mach.swapOver_of_due ht h]
    have hiff : (k.again && !(s.m.inBank c k.active).isEmpty && decide (s.m.bankPriority c k.active < s.m.bankPriority c (1 - k.active))) = true ↔ higher := by
      simp [higher, and_assoc]
    exact ⟨fun hn => by rw [if_neg (fun hc => hn (hiff.1 hc))], fun hy => by rw [if_pos (hiff.2 hy)]⟩
  case save =>
    intro id b hb hp hs
    have e : exec (.contextSave id) s = .next { s with m := (s.m.saveBlock id).1 } :=
      State.event_of_eq (f := fun m => m.contextSave id) (Mach.contextSave_of_block hb hs)
    refine ⟨fun hq => ?_, fun b2 hq hb2 hp2 hc h r hh hr => ?_⟩
    · rw [e, Mach.saveBlock_of_mx hb hp hq]
    · rw [e, Mach.saveBlock_of_open hb hp hq hb2 hp2 hc hh hr]
  case restore =>
    intro id b spot more x r hb h hs hx hr y hy
    obtain rfl := Mach.block?_id hb
    have hread := Mach.readRecord_of_open hx (Mach.reserve_place hx) hr
    exact State.event_of_eq (f := fun m => m.restore b.id) (Mach.restore_of_read hb h hs hread hy)

end Sys2Proof.Machine
end

section
namespace Sys2Proof.Machine

/-! ### Registers, shape tags and predicates (O7, O8) -/

/-! #### What a write leaves in a register (R72 to R74) -/

theorem RVal.affine_code (x q : Word) : (RVal.affine x q).code = 0 ↔ q = 0 := by
  unfold RVal.affine
  split
  next h => exact iff_of_true rfl h
  next h => exact iff_of_false (by simp [RVal.code]) h

/-- R72: a value that a full write leaves as it is: A with stride 0 is U. -/
def RVal.Normal (v : RVal) : Prop := ∀ x p, v = .a x p → p ≠ 0

theorem RVal.normal_u (x : Word) : (RVal.u x).Normal := fun _ _ h => nomatch h

theorem RVal.normal_affine (x p : Word) : (RVal.affine x p).Normal := by
  unfold RVal.affine
  split
  next => exact RVal.normal_u x
  next h =>
    intro y q e
    cases e
    exact h

section
variable {W : Nat} {old val : RVal} {ex live : Mask} {k : Word}

/-- R72: a full write leaves the value with its tag. -/
theorem RVal.write_full (hs : subset live ex = true) (hv : val.Normal) : RVal.write W old ex live fullBits val = val := by
  unfold RVal.write
  simp only [hs, if_true]
  cases val with
  | u x => rfl
  | a x p => exact if_neg (hv x p rfl)
  | g vs => rfl

/-- R74: what lane l holds where a narrow write has merged the value in. -/
def RVal.merged (old val : RVal) (k : Word) (l : Nat) : Word := (old.get l &&& ~~~k) ||| (val.get l &&& k)

theorem RVal.merged_fullBits (l : Nat) : RVal.merged old val fullBits l = val.get l := by
  have hn : ~~~fullBits = 0#32 := by decide
  have hf : fullBits = BitVec.allOnes 32 := by decide
  rw [RVal.merged, hn, hf, BitVec.and_zero, BitVec.zero_or, BitVec.and_allOnes]

/-- R72, R74: lane by lane, where a write misses a live lane or brings in a G value. -/
theorem RVal.write_lanes (hs : subset live ex = false ∨ k ≠ fullBits ∧ (old.isU && val.isU) = false) :
    RVal.write W old ex live k val = RVal.lanes W fun l => if ex.getLsbD l then old.merged val k l else old.get l := by
  unfold RVal.write
  by_cases hk : k = fullBits
  · subst hk
    obtain hs | ⟨hn, _⟩ := hs
    · simp only [hs, if_true, Bool.false_eq_true, if_false, RVal.merged_fullBits]
    · exact absurd rfl hn
  · have hu : (subset live ex && old.isU && val.isU) = false := by
      obtain hs | ⟨_, hu⟩ := hs
      · rw [hs]; rfl
      · rw [Bool.and_assoc, hu, Bool.and_false]
    simp only [if_neg hk, hu, Bool.false_eq_true, if_false]
    rfl

/-- R72, R74: a write that misses a live lane leaves a G value. -/
theorem RVal.write_code_of_partial (hs : subset live ex = false) : (RVal.write W old ex live k val).code = 2 := by
  rw [RVal.write_lanes (.inl hs)]
  rfl

/-- R72, R74: a write of a G value leaves a G value. -/
theorem RVal.write_code_of_g (hv : val.code = 2) : (RVal.write W old ex live k val).code = 2 := by
  have hu : val.isU = false := by rw [RVal.isU, hv]; rfl
  cases hs : subset live ex with
  | false => exact RVal.write_code_of_partial hs
  | true =>
    by_cases hk : k = fullBits
    · subst hk
      rw [RVal.write_full hs (fun x p h => by rw [h] at hv; cases hv)]
      exact hv
    · rw [RVal.write_lanes (.inr ⟨hk, by rw [hu, Bool.and_false]⟩)]
      rfl

/-- R72, R74, R78: a lane of Exec takes the value's bits that are written and keeps the others; a live lane outside Exec keeps all. -/
theorem RVal.write_get_merged {l : Nat} (hl : l < W) :
    (ex.getLsbD l = true → (RVal.write W old ex live k val).get l = old.merged val k l) ∧
      (ex.getLsbD l = false → live.getLsbD l = true → (RVal.write W old ex live k val).get l = old.get l) := by
  by_cases hk : k = fullBits
  · subst hk
    rw [RVal.merged_fullBits]
    exact RVal.write_get W old ex live val l hl
  · by_cases hu : (subset live ex && old.isU && val.isU) = true
    · have hw : RVal.write W old ex live k val = .u (old.merged val k 0) := by
        unfold RVal.write
        simp only [if_neg hk, hu, if_true]
        rfl
      simp only [Bool.and_eq_true] at hu
      obtain ⟨⟨hs, hold⟩, hval⟩ := hu
      refine ⟨fun _ => ?_, fun he hlive => ?_⟩
      · rw [hw, RVal.merged, RVal.merged, RVal.get_of_isU hold l, RVal.get_of_isU hval l]; rfl
      · rw [subset_getLsbD hs l hlive] at he
        cases he
    · rw [Bool.not_eq_true, Bool.and_assoc, Bool.and_eq_false_iff] at hu
      rw [RVal.write_lanes (hu.imp id fun h => ⟨hk, h⟩), RVal.lanes_get _ _ _ hl]
      exact ⟨fun he => if_pos he, fun he _ => if_neg (by rw [he]; exact Bool.false_ne_true)⟩

end

/-- A lane of one mask that another leaves out. -/
theorem subset_eq_false {a b : Mask} {j : Nat} (ha : a.getLsbD j = true) (hb : b.getLsbD j = false) : subset a b = false := by
  rw [Bool.eq_false_iff]
  intro hs
  rw [subset_getLsbD hs j ha] at hb
  cases hb

/-- R72, R104: a short result that covers the live set is the register's new value, with its tag. -/
theorem short_full (c : Cx) (d : BitVec 6) {v : RVal} (hs : subset (c.w.liveSet c.fid d.toNat) c.ex = true) (hv : v.Normal) :
    (c.short d.toNat v).s = c.withWarp fun w => w.setReg c.fid d.toNat v :=
  congrArg c.withWarp (funext fun w => by rw [Warp.write, RVal.write_full hs hv])

/-! #### The tag arithmetic of R73 -/

theorem RVal.addLike_of_line {W : Nat} {f : Word → Word → Word} {v u : RVal} {x p y q : Word} (hv : v.line = some (x, p))
    (hu : u.line = some (y, q)) : RVal.addLike W f v u = RVal.affine (f x y) (f p q) := by
  simp only [RVal.addLike, hv, hu]

theorem RVal.shlLike_affine (W : Nat) (x p y : Word) :
    RVal.shlLike W (.a x p) (.u y) = RVal.affine (x <<< y.toNat) (p <<< y.toNat) := by
  rw [← shlWord_eq, ← shlWord_eq]; rfl

/-- Settles O7: the value of each word is one that a full write keeps (`short_full`), and a partial write leaves G. -/
theorem shapeTags : Obligations.ShapeTags := by
  intro s h c d a b m hr hh gives
  have full {i : Instr} {v : RVal} (hs : subset (c.w.liveSet c.fid d.toNat) c.ex = true) (hv : v.Normal)
      (e : exec i s = .next (c.short d.toNat v).s) : gives i v := e.trans (congrArg _ (short_full c d hs hv))
  refine ⟨fun hs => ⟨?addSub, ?mulShl, ?and⟩, ?partialWrite⟩
  case addSub =>
    intro x p y q hx hy
    refine ⟨full hs (RVal.normal_affine _ _) ?_, full hs (RVal.normal_affine _ _) ?_⟩
    · change execIadd h d a b m none s = _
      rw [execIadd, word_runs hr hh, ← RVal.addLike_of_line (W := c.W) (f := fun p q => p + q) hx hy]
      rfl
    · change execIsub h d a b m none s = _
      rw [execIsub, word_runs hr hh, ← RVal.addLike_of_line (W := c.W) (f := fun p q => p - q) hx hy]
      rfl
  case mulShl =>
    intro x p y hx hy
    refine ⟨full hs (RVal.normal_affine _ _) ?_, full hs (RVal.normal_affine _ _) ?_⟩
    · change execImul h d a b m s = _
      rw [execImul, word_runs hr hh, hx, hy]
      rfl
    · change execShl h d a b m s = _
      rw [execShl, word_runs hr hh, hx, hy, RVal.shlLike_affine]
  case and =>
    intro x y hx hy
    refine full hs (RVal.normal_u _) ?_
    change execAnd h d a b m s = _
    rw [execAnd, word_runs hr hh, hx, hy]
    rfl
  case partialWrite =>
    intro hs
    refine ⟨fun w => RVal.write c.W (w.reg c.fid d.toNat) c.ex (c.w.liveSet c.fid d.toNat) fullBits (c.reg a.toNat), ?_,
      fun w => RVal.write_code_of_partial hs⟩
    change execMov h d a s = _
    rw [execMov, word_runs hr fun r hm => hh r (List.mem_append_left _ hm)]
    rfl

/-! #### Predicates (R70) -/

section
variable {w : Warp} {p : Nat} {ex v : Mask}

/-- R70: p7 reads as 1. -/
theorem Warp.pred_seven {l : Nat} (hl : l < 64) : (w.pred 7).getLsbD l = true := by
  have h0 : BitVec.getLsbD (0 : Mask) l = false := BitVec.getLsbD_zero
  change (~~~(0 : Mask)).getLsbD l = true
  rw [BitVec.getLsbD_not, h0, decide_eq_true hl]
  rfl

theorem Warp.setPred_seven : w.setPred 7 ex v = w := if_neg (by decide)

theorem Warp.setPred_preds : w.setPred p ex v = { w with preds := (w.setPred p ex v).preds } := by
  unfold Warp.setPred
  split <;> rfl

/-- R70: the predicate that is written takes the value in the lanes of Exec, every other one stays. -/
theorem Warp.pred_setPred (hp : p < 7) (q : Nat) :
    (w.setPred p ex v).pred q = if q = p then (w.pred p &&& ~~~ex) ||| (v &&& ex) else w.pred q := by
  rw [Warp.setPred, if_pos hp]
  unfold Warp.pred
  by_cases h7 : q = 7
  · rw [if_pos h7, if_neg (by omega), if_pos h7]
  · simp only [if_neg h7, List.getD_eq_getElem?_getD, putAt_getD]

end

/-! #### The frame check (R69) -/

section
variable {s : State} {h : Hdr} {c : Cx} {f : Frame}

theorem Cx.not_holds {regs : List Nat} {r : Nat} (hf : c.w.frame? c.fid = some f) (hm : r ∈ regs) (h56 : r < 56) (hs : f.size ≤ r) :
    ¬ c.Holds regs := by
  intro hh
  obtain ⟨g, hg, hlt⟩ := hh r hm h56
  rw [hf] at hg
  cases hg
  omega

/-- R69: a running word traps FRAME, sub-cause 0x01, for a register it names that lies outside the frame. -/
theorem word_traps_frame (hr : Runs s h c) (hf : c.w.frame? c.fid = some f) {regs : List Nat} (k : Cx → State)
    (ho : ∃ r ∈ regs, r < 56 ∧ f.size ≤ r) : c.Traps (s.word h regs k) 0x0B 1 0 0 := by
  obtain ⟨r, hm, h56, hs⟩ := ho
  rw [word_frame hr (Cx.not_holds hf hm h56 hs)]
  exact c.traps_trap _ _ _ _

end

/-- Settles O8: reads by the tags, predicate writes by `Warp.pred_setPred`, register writes by `RVal.write_get_merged`, the frame check by `word_traps_frame`. -/
theorem registerRules : Obligations.RegisterRules := by
  refine ⟨?tags, ?preds, ?writes, ?frames⟩
  case tags =>
    intro x p vs l
    exact ⟨rfl, rfl, rfl, rfl, rfl, rfl, fun q => ⟨RVal.affine_get x q l, RVal.affine_code x q⟩⟩
  case preds =>
    intro w p ex v l hl
    refine ⟨Warp.pred_seven hl, Warp.setPred_seven, fun hp => ?_, fun hp q hq => ?_, Warp.setPred_preds⟩
    · rw [Warp.pred_setPred hp, if_pos rfl]
      simp only [BitVec.getLsbD_or, BitVec.getLsbD_and, BitVec.getLsbD_not, decide_eq_true hl]
      cases ex.getLsbD l <;> simp
    · rw [Warp.pred_setPred hp, if_neg hq]
  case writes =>
    intro W old val ex live k l hl _ new
    obtain ⟨hin, hout⟩ := RVal.write_get_merged (old := old) (val := val) (ex := ex) (live := live) (k := k) hl
    exact ⟨hin, hout, fun ⟨j, _, hlive, he⟩ => RVal.write_code_of_partial (subset_eq_false hlive he), RVal.write_code_of_g⟩
  case frames =>
    intro s h c d a b f hr hf
    have traps (regs : List Nat) {k : Cx → State} {r : Nat} (hm : r ∈ regs) (h56 : r < 56) (hs : f.size ≤ r) :
        c.Traps (s.word h regs k) 0x0B 1 0 0 := word_traps_frame hr hf k ⟨r, hm, h56, hs⟩
    have second (r : Nat) : b.toNat ∈ [r, a.toNat] ++ regsB b false := by simp [regsB]
    refine ⟨fun ho => ?mov, fun m ho => ?iaddw, fun m h56 hs => ⟨?and, fun q k => ⟨?fsetp, fun hm => ?fadd⟩⟩⟩
    case mov =>
      change c.Traps (execMov h d a s) _ _ _ _
      obtain ⟨h56, hs⟩ | ⟨h56, hs⟩ := ho
      · exact traps [d.toNat, a.toNat] (by simp) h56 hs
      · exact traps [d.toNat, a.toNat] (by simp) h56 hs
    case iaddw =>
      change c.Traps (execIaddw h d a b m s) _ _ _ _
      obtain ⟨h55, hs⟩ | ⟨h55, hs⟩ := ho
      · exact traps (pairRegs d ++ pairRegs a ++ regsB b m) (by simp [pairRegs]) (by omega) hs
      · exact traps (pairRegs d ++ pairRegs a ++ regsB b m) (by simp [pairRegs]) (by omega) hs
    case and =>
      change c.Traps (execAnd h d a b false s) _ _ _ _
      exact traps _ (second d.toNat) h56 hs
    case fsetp =>
      change c.Traps (execFsetp h q k a b false s) _ _ _ _
      exact traps ([a.toNat] ++ regsB b false) (by simp [regsB]) h56 hs
    case fadd =>
      subst hm
      change c.Traps (execFadd h d a b false s) _ _ _ _
      exact traps _ (second d.toNat) h56 hs

end Sys2Proof.Machine
end

section
namespace Sys2Proof.Machine

/-! ### Values that cross lanes (O15) -/

section
variable {c : Cx}

/-- R104, R105: a long result of one register. -/
theorem long_one_enters (d : BitVec 6) {v : RVal} {f : Nat → Word} (hv : ∀ l, l < c.W → v.get l = f l) :
    c.Enters (.next (c.long d.toNat [v]).s) d 0 [f] :=
  long_enters c d _ _ rfl fun i g hg l hl _ => by
    cases i with
    | zero => cases hg; exact hv l hl
    | succ i => cases hg

/-- R68, R105: a long result of two registers. -/
theorem long_two_enters (d : BitVec 6) {v u : RVal} {f g : Nat → Word} (hv : ∀ l, l < c.W → v.get l = f l)
    (hu : ∀ l, l < c.W → u.get l = g l) : c.Enters (.next (c.long d.toNat [v, u]).s) d 0 [f, g] :=
  long_enters c d _ _ rfl fun i k hk l hl _ => by
    match i with
    | 0 => cases hk; exact hv l hl
    | 1 => cases hk; exact hu l hl
    | i + 2 => cases hk

/-- R411: what lane l reads of lane j: its value where j is in Exec, else lane l's own. -/
def Cx.readOf (c : Cx) (a : BitVec 6) (l j : Nat) : Word := if c.ex.getLsbD j then c.lane a j else c.lane a l

/-- R411: the lane selector of lane l: the payload's field, or the value of register b. -/
def Cx.selector (c : Cx) (b : BitVec 6) (pf : Option (BitVec 23)) (l : Nat) : Nat :=
  match pf with | some p => p.toNat % 64 | none => (c.lane b l).toNat

/-- R411: what lane l takes from the lane its selector names, or from itself when it names none. -/
def Cx.shuffled (c : Cx) (a b : BitVec 6) (pf : Option (BitVec 23)) (src : Nat → Nat → Option Nat) (l : Nat) : Word :=
  match src l (c.selector b pf l) with
  | some j => c.readOf a l j
  | none => c.lane a l

theorem Cx.shuffled_of_ite {src : Nat → Nat → Option Nat} {a b : BitVec 6} {pf : Option (BitVec 23)} {l j : Nat} {P : Prop} [Decidable P]
    (h : src l (c.selector b pf l) = if P then some j else none) :
    c.shuffled a b pf src l = if P then c.readOf a l j else c.lane a l := by
  rw [Cx.shuffled, h]
  by_cases hP : P
  · rw [if_pos hP, if_pos hP]
  · rw [if_neg hP, if_neg hP]

/-- A register with one value for all lanes gives each lane that value, whatever lane it names. -/
theorem Cx.shuffled_of_isU {a : BitVec 6} (hu : (c.reg a.toNat).isU = true) (b : BitVec 6) (pf : Option (BitVec 23))
    (src : Nat → Nat → Option Nat) (l : Nat) : c.shuffled a b pf src l = c.lane a l := by
  have same (j : Nat) : c.lane a j = c.lane a l := by rw [Cx.lane, Cx.lane, Cx.val, Cx.val, RVal.get_of_isU hu j, RVal.get_of_isU hu l]
  unfold Cx.shuffled Cx.readOf
  split
  · rw [same, ite_self]
  · rfl

/-- R411: the four SHFLs but for the lane they name. -/
theorem shuffle_enters (d a b : BitVec 6) (pf : Option (BitVec 23)) (src : Nat → Nat → Option Nat) :
    c.Enters (.next (c.shuffle d a b pf src)) d 0 [c.shuffled a b pf src] := by
  have hsel (l : Nat) : (if pf.isSome then pfField pf 0 6 else (c.val b.toNat l).toNat) = c.selector b pf l := by
    cases pf with
    | none => rfl
    | some p => exact congrArg (· % 2 ^ 6) (Nat.div_one _)
  refine long_one_enters d fun l hl => ?_
  cases hu : (c.reg a.toNat).isU with
  | true => exact (Cx.shuffled_of_isU hu b pf src l).symm
  | false =>
    simp only [Bool.false_eq_true, if_false]
    rw [RVal.lanes_get _ _ _ hl, hsel]
    rfl

/-- R384: the lanes of Exec that hold lane l's value. -/
def Cx.agreeing (c : Cx) (a : BitVec 6) (l : Nat) : Mask := c.ex &&& maskOf fun k => c.lane a k == c.lane a l

theorem Cx.agreeing_getLsbD {a : BitVec 6} {l k : Nat} (hk : k < 64) :
    (c.agreeing a l).getLsbD k = (c.ex.getLsbD k && decide (c.lane a k = c.lane a l)) := by
  have hmask : (maskOf fun k => c.lane a k == c.lane a l).getLsbD k = decide (c.lane a k = c.lane a l) :=
    Bool.eq_iff_iff.2 (by simp only [maskOf_getLsbD, Bool.and_eq_true, decide_eq_true_eq, beq_iff_eq, hk, true_and])
  rw [Cx.agreeing, BitVec.getLsbD_and, hmask]

end

/-- Settles O15: SHAPE and UNIF give one value, MATCH the mask `Cx.agreeing`, and each SHFL is `shuffle_enters` at the lane it names. -/
theorem crossLaneMoves : Obligations.CrossLaneMoves := by
  intro s h c d a b pf hr _ hh n from_
  have held {r : Nat} (hm : r = d.toNat ∨ r = d.toNat + 1 ∨ r = a.toNat ∨ r = b.toNat) : r ∈ pairRegs d ++ [a.toNat, b.toNat] := by
    simp only [pairRegs, List.mem_append, List.mem_cons, List.not_mem_nil, or_false]
    omega
  have hda : c.Holds [d.toNat, a.toNat] := fun r hm => hh r (held (by
    simp only [List.mem_cons, List.not_mem_nil, or_false] at hm
    omega))
  have hpair : c.Holds (pairRegs d ++ [a.toNat]) := fun r hm => hh r (held (by
    simp only [pairRegs, List.mem_append, List.mem_cons, List.not_mem_nil, or_false] at hm
    omega))
  have hshfl : c.Holds (shflRegs d a b pf) := fun r hm => hh r (held (by
    have hb : r ∈ (if pf.isSome then [] else [b.toNat]) → r = b.toNat := by
      intro h
      split at h
      · cases h
      · exact List.mem_singleton.1 h
    simp only [shflRegs, List.mem_append, List.mem_cons, List.not_mem_nil, or_false] at hm
    obtain hm | hm := hm
    · omega
    · exact .inr (.inr (.inr (hb hm)))))
  have shfl (src : Nat → Nat → Option Nat) {f : Nat → Word} (hf : ∀ l, c.shuffled a b pf src l = f l) :
      c.Enters (.next (c.shuffle d a b pf src)) d 0 [f] := by
    rw [← funext hf]
    exact shuffle_enters d a b pf src
  refine ⟨?shape, ?unif, ⟨c.agreeing a, ?agree, fun l k => Cx.agreeing_getLsbD⟩, ?lane, ?swap, ?below, ?above⟩
  case shape =>
    change c.Enters (execShape h d a s) _ _ _
    rw [execShape, word_runs hr hda]
    exact long_uniform_enters c d _
  case unif =>
    change c.Enters (execUnif h d a s) _ _ _
    rw [execUnif, word_runs hr hda]
    exact long_uniform_enters c d _
  case agree =>
    change c.Enters (execMatchW h d a s) _ _ _
    rw [execMatchW, word_runs hr hpair]
    exact long_two_enters d (fun l hl => RVal.lanes_get _ _ _ hl) (fun l hl => RVal.lanes_get _ _ _ hl)
  case lane =>
    change c.Enters (execShflLane h d a b pf s) _ _ _
    rw [execShflLane, word_runs hr hshfl]
    exact shfl (fun _ k => some (k % c.W)) fun l => rfl
  case swap =>
    change c.Enters (execShflSwap h d a b pf s) _ _ _
    rw [execShflSwap, word_runs hr hshfl]
    exact shfl (fun l k => some (l ^^^ (k % c.W))) fun l => rfl
  case below =>
    change c.Enters (execShflBelow h d a b pf s) _ _ _
    rw [execShflBelow, word_runs hr hshfl]
    exact shfl (fun l k => if k ≤ l then some (l - k) else none) fun l => Cx.shuffled_of_ite rfl
  case above =>
    change c.Enters (execShflAbove h d a b pf s) _ _ _
    rw [execShflAbove, word_runs hr hshfl]
    exact shfl (fun l k => if l + k < c.W then some (l + k) else none) fun l => Cx.shuffled_of_ite rfl

end Sys2Proof.Machine
end

section
namespace Sys2Proof.Machine

/-! ### Calls, returns and frame sizes (O20, O21, O22) -/

section
variable {c : Cx}

/-! #### What a word does when nothing of its return stacks lies in memory -/

/-- R86: a word with no return entry to read or write in memory goes on. -/
theorem Cx.stackChecked_nil (hne : c.ex ≠ 0) (k : Cx → List (Access × PteRef × Bool × Bool) → State) : c.stackChecked [] k = k c [] :=
  if_neg hne

/-- R82: reading no bytes, a word waits for none. -/
theorem Cx.arrived_nil (c : Cx) (k : Cx → State) : c.arrived [] k = k c := rfl

/-- R82: accessing no bytes, a word waits for no earlier access. -/
theorem Cx.settledIf_nil (c : Cx) (k : Cx → State) : c.settledIf [] k = k c := rfl

theorem Cx.mem_lanes {l : Nat} : l ∈ c.lanes ↔ c.ex.getLsbD l = true := by
  rw [Cx.lanes, lanesOf_mem]
  exact ⟨fun h => h.2, fun h => ⟨lane_lt h, h⟩⟩

theorem Warp.updLanes_num (w : Warp) (m : Mask) (f : Lane → Lane) : (w.updLanes m f).num = w.num := rfl

/-! #### CALL and CALLX (R85, R86, R347) -/

/-- R86: a lane with one return entry more. -/
def Cx.pushed (c : Cx) (l : Lane) : Lane :=
  { l with depth := l.depth + 1, stack := ⟨c.returnAddr, c.fid⟩ :: l.stack.take 15 }

/-- R86: lanes with room on their stacks push without a store. -/
theorem Cx.push_of_room (hne : c.ex ≠ 0) (hs : ∀ l ∈ c.lanes, (c.w.lane l).stack.length < 16) (k : Cx → State) :
    c.push k = k (c.updW fun w => w.updLanes c.ex c.pushed) := by
  have hfull : (c.lanes.filter fun l => 16 ≤ (c.w.lane l).stack.length) = [] :=
    List.filter_eq_nil_iff.2 fun l hl => by simpa using hs l hl
  unfold Cx.push
  simp only [hfull, List.map_nil]
  rw [Cx.stackChecked_nil hne]
  rfl

/-- R85: the frame a call makes, of so many registers. -/
def Cx.entered (c : Cx) (size : Nat) (w : Warp) : Warp :=
  w.addFrame c.w.freeFid size (match c.w.frame? c.fid with | some f => f.level + 1 | none => 1) c.ex

/-- R86: a call without demand pushes and goes to its target. -/
theorem Cx.callFrame_zero (hne : c.ex ≠ 0) (hs : ∀ l ∈ c.lanes, (c.w.lane l).stack.length < 16) (p : PC) :
    c.callFrame 0 p = c.withWarp fun w => (w.updLanes c.ex c.pushed).updLanes c.ex fun l => { l with pc := p } := by
  rw [Cx.callFrame, Cx.push_of_room hne hs]
  exact congrArg Cx.s (c.updW_updW _ (fun w => w.updLanes c.ex fun l => { l with pc := p }) fun w => w.updLanes_num _ _)

/-- R85: a call with demand enters a new frame between the two. -/
theorem Cx.callFrame_pos (hne : c.ex ≠ 0) (hs : ∀ l ∈ c.lanes, (c.w.lane l).stack.length < 16) {size : Nat} (h0 : size ≠ 0) (p : PC) :
    c.callFrame size p = c.withWarp fun w =>
      ((c.entered size (w.updLanes c.ex c.pushed)).updLanes c.ex fun l => { l with fid := c.w.freeFid }).updLanes c.ex fun l => { l with pc := p } := by
  rw [Cx.callFrame, Cx.push_of_room hne hs]
  simp only [if_neg h0]
  have e1 := c.updW_updW (fun w => w.updLanes c.ex c.pushed) (fun w => (c.entered size w).updLanes c.ex fun l => { l with fid := c.w.freeFid })
    fun w => w.updLanes_num _ _
  have e2 := c.updW_updW (fun w => (c.entered size (w.updLanes c.ex c.pushed)).updLanes c.ex fun l => { l with fid := c.w.freeFid })
    (fun w => w.updLanes c.ex fun l => { l with pc := p }) fun _ => rfl
  rw [← e1] at e2
  exact congrArg Cx.s e2

/-- R98: a packet that lies in the segment. -/
theorem Cx.relative_of_eq {off : Int} {p : PC} (h : (c.is.here.pk : Int) + off = p.pk) (hsl : p.sl = 0) (hpk : p.pk ≤ 1398100) :
    c.relative off = .ok p := by
  unfold Cx.relative lastPacket
  rw [h, if_neg (by omega)]
  cases p
  cases hsl
  rfl

/-- R85: a call that neither traps nor waits enters its frame. -/
theorem Cx.call_of_room {dm : Nat} {p : PC} (hd : ∀ l ∈ c.lanes, (c.w.lane l).depth ≠ 64) (hf : dm ≠ 0 → c.w.frames.length < 256)
    (ha : dm ≠ 0 → c.allocates (c.b.lines (8 * dm)) = true) : c.call dm p = c.callFrame (8 * dm) p := by
  have hdepth : ¬ (c.lanes.any fun l => (c.w.lane l).depth == 64) = true := by simpa using hd
  unfold Cx.call
  simp only [if_neg hdepth]
  rw [if_neg fun ⟨h0, h⟩ => absurd (hf (by omega)) (by omega), if_neg fun ⟨h0, h⟩ => by simp [ha (by omega)] at h]

/-- R86: a call by a lane 64 deep traps. -/
theorem Cx.call_of_deep {dm : Nat} {p : PC} (hd : ∃ l ∈ c.lanes, (c.w.lane l).depth = 64) : c.call dm p = c.trap 0x0B 4 0 0 :=
  if_pos (by simpa using hd)

/-- R85: a call that wants a 257th frame traps. -/
theorem Cx.call_of_frames {dm : Nat} {p : PC} (hd : ∀ l ∈ c.lanes, (c.w.lane l).depth ≠ 64) (h0 : dm ≠ 0) (hf : 256 ≤ c.w.frames.length) :
    c.call dm p = c.trap 0x0B 6 0 0 := by
  unfold Cx.call
  simp only [if_neg (show ¬ (c.lanes.any fun l => (c.w.lane l).depth == 64) = true by simpa using hd)]
  exact if_pos ⟨by omega, hf⟩

section
variable {s : State} {h : Hdr} {e : BitVec 3} {p : PC} (hr : Runs s h c)
include hr

/-- R347: a CALL whose target lies in the segment. -/
theorem exec_call_of_runs {t : BitVec 16} (hp : c.relative t.toInt = .ok p) : exec (.call h e t) s = .next (c.call e.toNat p) := by
  change execCall h e t s = _
  rw [execCall, word_runs hr Cx.holds_nil, hp]

/-- R347: a CALLX whose target lies in the segment. -/
theorem exec_callx_of_runs {a : BitVec 6} (hh : c.Holds (pairRegs a)) (hu : c.allU (pairRegs a) = true)
    (hp : codePc c.b.entry (c.lowPair a.toNat) = .ok p) : exec (.callx h e a) s = .next (c.call e.toNat p) := by
  change execCallx h e a s = _
  unfold pairRegs at hu
  rw [execCallx, word_runs hr hh]
  simp only [hu, hp, Bool.not_true, Bool.false_eq_true, if_false]
end
end

/-- Settles O20: both words are `Cx.call` of their target, and each case of it has a lemma above. -/
theorem calls : Obligations.Calls := by
  intro s h c e a t p hr hh size pushed new i hi
  have he : exec i s = .next (c.call e.toNat p) := by
    obtain ⟨rfl, ht, hsl, hpk⟩ | ⟨rfl, hu, hp⟩ := hi
    · exact exec_call_of_runs hr (Cx.relative_of_eq ht hsl hpk)
    · exact exec_callx_of_runs hr hh hu hp
  have hpush : pushed = c.pushed := by
    funext l
    simp only [pushed, Cx.pushed, Cx.returnAddr, PC.offset, Nat.add_assoc]
  have h0 : e ≠ 0 → e.toNat ≠ 0 := fun hne hz => hne (BitVec.eq_of_toNat_eq hz)
  rw [he, hpush]
  refine ⟨fun hd => ?deep, fun hroom => ⟨fun hz => ?plain, fun hne hf ha => ?demand, fun hne hf => ?frames⟩⟩
  case deep =>
    rw [Cx.call_of_deep hd]
    exact c.traps_trap _ _ _ _
  case plain =>
    have hz0 : e.toNat = 0 := by rw [hz]; rfl
    rw [hz0, Cx.call_of_room (fun l hl => (hroom l hl).2) (fun hn => absurd rfl hn) (fun hn => absurd rfl hn)]
    exact congrArg _ (Cx.callFrame_zero hr.some (fun l hl => (hroom l hl).1) p)
  case demand =>
    rw [Cx.call_of_room (fun l hl => (hroom l hl).2) (fun _ => hf) (fun _ => ha)]
    exact congrArg _ (Cx.callFrame_pos hr.some (fun l hl => (hroom l hl).1) (by have := h0 hne; omega) p)
  case frames =>
    rw [Cx.call_of_frames (fun l hl => (hroom l hl).2) (h0 hne) hf]
    exact c.traps_trap _ _ _ _

end Sys2Proof.Machine
end

section
namespace Sys2Proof.Machine

/-! #### RET and UNWIND (R86, R88, R89, R402, R426) -/

section
variable {c : Cx}

/-- R86: the newest entries of a lane that holds them on chip. -/
theorem Cx.topEntries_of_onChip {l n : Nat} (hn : n ≤ (c.w.lane l).stack.length) (back : List (Nat × RetEnt)) :
    c.topEntries l n back = (c.w.lane l).stack.take n := by
  unfold Cx.topEntries
  simp [Nat.sub_eq_zero_of_le hn]

/-- R89: is a return entry of a live frame lane l is still a member of. -/
def Cx.knows (c : Cx) (l : Nat) (e : RetEnt) : Bool :=
  match c.w.frame? e.fid with | some f => f.members.getLsbD l | none => false

/-- Two folds that agree on the elements of the list are the same. -/
theorem foldl_congr_of_mem {α β : Type} {f g : β → α → β} {xs : List α} (h : ∀ x ∈ xs, ∀ b, f b x = g b x) (b : β) :
    xs.foldl f b = xs.foldl g b := by
  induction xs generalizing b with
  | nil => rfl
  | cons x xs ih =>
    rw [List.foldl_cons, List.foldl_cons, h x List.mem_cons_self, ih fun y hy => h y (List.mem_cons_of_mem _ hy)]

theorem Warp.mapLanes_congr {w : Warp} {m : Mask} {f g : Nat → Lane → Lane} (h : ∀ l, m.getLsbD l = true → ∀ k, f l k = g l k) :
    w.mapLanes m f = w.mapLanes m g := by
  unfold Warp.mapLanes
  congr 1
  refine List.map_congr_left fun p _ => ?_
  split
  next hm => exact h p.2 hm p.1
  next => rfl

/-- R86, R89: lane l holds n entries on chip; taking them it leaves the frames `left` and goes on with the entry `last` at `dest`. -/
structure Cx.Pops (c : Cx) (n l : Nat) (left : List Nat) (last : RetEnt) (dest : PC) : Prop where
  onChip : n ≤ (c.w.lane l).stack.length
  entry  : (c.w.lane l).stack[n - 1]? = some last
  passed : framesPassed (c.knows l) (c.w.lane l).fid [] ((c.w.lane l).stack.take n) = some left
  target : codePc c.b.entry last.addr = .ok dest

/-- R86, R88: a warp whose lanes of Exec have taken n entries off. -/
def Cx.popped (c : Cx) (n : Nat) (left : Nat → List Nat) (last : Nat → RetEnt) (dest : Nat → PC) (w : Warp) : Warp :=
  ((c.lanes.foldl (fun w l => (left l).foldl (fun w f => w.leave (bit l) f) w) w).mapLanes c.ex fun l k =>
    { k with pc := dest l, fid := (last l).fid, depth := k.depth - n, stack := k.stack.drop n }).sitesCheck

section
variable {n l : Nat} {left : List Nat} {last : RetEnt} {dest : PC}

/-- R86: the last entry a lane takes off is the n-th newest. -/
theorem Cx.Pops.getLast? (hp : c.Pops n l left last dest) (hn : n ≠ 0) (back : List (Nat × RetEnt)) :
    (c.topEntries l n back).getLast? = some last := by
  rw [Cx.topEntries_of_onChip hp.onChip, List.getLast?_take, if_neg hn, hp.entry]
  rfl

theorem Cx.Pops.framesPassed (hp : c.Pops n l left last dest) (back : List (Nat × RetEnt)) :
    framesPassed (c.knows l) (c.w.lane l).fid [] (c.topEntries l n back) = some left := by
  rw [Cx.topEntries_of_onChip hp.onChip]
  exact hp.passed
end

/-- R86, R88, R89: popping n entries the lanes hold on chip, none of which traps. -/
theorem Cx.popN_of_onChip {n : Nat} (hne : c.ex ≠ 0) (hn : n ≠ 0) {left : Nat → List Nat} {last : Nat → RetEnt} {dest : Nat → PC}
    (hp : ∀ l ∈ c.lanes, c.Pops n l (left l) (last l) (dest l)) :
    c.Does (.next (c.popN n)) fun m => ((m.updWarp c.is.blk c.is.warp (c.popped n left last dest)).grantsFor c.b c.w).awaitFill c.b c.is.warp c.ex := by
  have hrs : (c.lanes.flatMap fun l => ((List.range (n - (c.w.lane l).stack.length)).map fun i => (c.w.lane l).depth - 1 - (c.w.lane l).stack.length - i).map
      fun i => c.localAccess l (16 * i) 16 { r := true, w := false, x := false }) = [] :=
    List.flatMap_eq_nil_iff.2 fun l hl => by rw [Nat.sub_eq_zero_of_le (hp l hl).onChip]; rfl
  unfold Cx.popN
  simp only [hrs]
  rw [Cx.stackChecked_nil hne]
  simp only [List.map_nil, Cx.settledIf_nil, Cx.arrived_nil, List.filterMap_nil]
  refine congrArg _ ((if_neg fun hnone => ?isKnown).trans ?_)
  case isKnown =>
    obtain ⟨l, hl, h⟩ := List.any_eq_true.1 hnone
    cases (Option.isNone_iff_eq_none.1 h).symm.trans ((hp l hl).framesPassed [])
  split
  next l e hbad =>
    obtain ⟨l, hl, h⟩ := List.exists_of_findSome?_eq_some hbad
    rw [(hp l hl).getLast? hn, Option.getD_some, (hp l hl).target] at h
    cases h
  next =>
    refine congrArg (fun g => ({ c.s with m := ((c.s.m.updWarp c.is.blk c.is.warp g).grantsFor c.b c.w).awaitFill c.b c.is.warp c.ex } : State))
      (funext fun w => congrArg Warp.sitesCheck ?_)
    have hleft (w : Warp) : c.lanes.foldl (fun w l => ((framesPassed (c.knows l) (c.w.lane l).fid [] (c.topEntries l n [])).getD []).foldl
        (fun w f => w.leave (bit l) f) w) w = c.lanes.foldl (fun w l => (left l).foldl (fun w f => w.leave (bit l) f) w) w :=
      foldl_congr_of_mem (fun l hl w => by rw [(hp l hl).framesPassed]; rfl) w
    rw [← hleft]
    refine Warp.mapLanes_congr fun l hl k => ?_
    have hl' := hp l (Cx.mem_lanes.2 hl)
    rw [hl'.getLast? hn, Option.getD_some, hl'.target]

section
variable {s : State} {h : Hdr} {a : BitVec 6} (hr : Runs s h c)
include hr

/-- R88: what RET does when it runs. -/
theorem exec_ret_of_runs : exec (.ret h) s =
    .next (if c.lanes.any fun l => (c.w.lane l).depth == 0 then c.trap 0x0C 1 0 0 else c.popN 1) := by
  change execRet h s = _
  exact word_runs hr Cx.holds_nil _

/-- R89: what UNWIND does when it runs. -/
theorem exec_unwind_of_runs (hh : c.Holds [a.toNat]) : exec (.unwind h a) s = .next
    (if !c.allU [a.toNat] then c.trap 0x03 0 0 0
     else if (c.lane a c.low).toNat = 0 then c.trap 0x13 1 0 0
     else if c.lanes.any fun l => (c.w.lane l).depth < (c.lane a c.low).toNat then c.trap 0x13 2 0 0
     else c.popN (c.lane a c.low).toNat) := by
  change execUnwind h a s = _
  exact word_runs hr hh _
end
end

/-- Settles O21: entries on chip by `Cx.popN_of_onChip`; the traps are the words' own checks. -/
theorem returns : Obligations.Returns := by
  intro s h c a hr hh
  refine ⟨fun n i left last dest hi hp => ?pops, fun h0 => ?ret, fun hu => ?shape, fun hu hz => ?zero, fun hu hz hd => ?deep⟩
  case pops =>
    have hpop : n ≠ 0 → c.Does (.next (c.popN n)) _ := fun hn =>
      Cx.popN_of_onChip hr.some hn (left := left) (last := last) (dest := dest) fun l hl => by
        obtain ⟨honChip, _, hlast, hleft, hdest⟩ := hp l hl
        exact ⟨honChip, hlast, hleft, hdest⟩
    have hdepth : ∀ l ∈ c.lanes, n ≤ (c.w.lane l).depth := fun l hl => by
      obtain ⟨_, hd, _⟩ := hp l hl
      exact hd
    obtain ⟨rfl, rfl⟩ | ⟨rfl, hu, hn, hn0⟩ := hi
    · rw [exec_ret_of_runs hr, if_neg (by simpa [Nat.one_le_iff_ne_zero] using hdepth)]
      exact hpop Nat.one_ne_zero
    · rw [exec_unwind_of_runs hr hh, ← hn, hu, if_neg (by decide), if_neg hn0, if_neg (by simpa using hdepth)]
      exact hpop hn0
  case ret =>
    rw [exec_ret_of_runs hr, if_pos (by simpa using h0)]
    exact c.traps_trap _ _ _ _
  case shape =>
    rw [exec_unwind_of_runs hr hh, hu]
    exact c.traps_trap _ _ _ _
  case zero =>
    rw [exec_unwind_of_runs hr hh, hu, hz]
    exact c.traps_trap _ _ _ _
  case deep =>
    have hn0 : (c.lane a c.low).toNat ≠ 0 := fun h0 => hz (BitVec.eq_of_toNat_eq h0)
    rw [exec_unwind_of_runs hr hh, hu, if_neg (by decide), if_neg hn0, if_pos (by simpa using hd)]
    exact c.traps_trap _ _ _ _

end Sys2Proof.Machine
end

section
namespace Sys2Proof.Machine

/-! #### GROW, GROW.try and SHRINK (R83, R84, R369, R413) -/

section
variable {c : Cx} {a : BitVec 6} (k : Nat → Nat → State)

/-- R83: a count that is not U traps SHAPE. -/
theorem Cx.resize_of_shape (hu : c.allU [a.toNat] = false) : c.resize a k = c.trap 0x03 0 0 0 := by
  rw [Cx.resize, hu]
  rfl

section
variable (hu : c.allU [a.toNat] = true)
include hu

/-- R83: a live lane of the frame left out of Exec traps FRAME. -/
theorem Cx.resize_of_missing (hs : subset (c.w.liveSet c.fid 0) c.ex = false) : c.resize a k = c.trap 0x0B 2 0 0 := by
  rw [Cx.resize, hu]
  simp only [hs]
  rfl

variable (hs : subset (c.w.liveSet c.fid 0) c.ex = true)
include hs

/-- R83: a count that is no positive multiple of 8 traps FRAME. -/
theorem Cx.resize_of_count (hn : (c.lane a c.low).toNat = 0 ∨ (c.lane a c.low).toNat % 8 ≠ 0) : c.resize a k = c.trap 0x0B 3 0 0 := by
  rw [Cx.resize, hu]
  simp only [hs]
  exact if_pos hn

/-- R83: past the shared checks the word goes on with the frame's size and the count. -/
theorem Cx.resize_of_ok {f : Frame} (hf : c.w.frame? c.fid = some f) (h0 : (c.lane a c.low).toNat ≠ 0)
    (h8 : (c.lane a c.low).toNat % 8 = 0) : c.resize a k = k f.size (c.lane a c.low).toNat := by
  rw [Cx.resize, hu]
  simp only [hs, hf]
  exact if_neg (not_or.2 ⟨h0, Classical.not_not.2 h8⟩)
end

/-- R83: a frame with n registers more. -/
def Frame.grown (f : Frame) (n : Nat) : Frame := { f with size := f.size + n, regs := f.regs ++ List.replicate n (.u 0) }

/-- R83: a frame with its top n registers taken away. -/
def Frame.shrunk (f : Frame) (n : Nat) : Frame := { f with size := f.size - n, regs := f.regs.take (f.size - n) }

/-- R84: are n lines free for a request that need not queue. -/
def Cx.roomFor (c : Cx) (n : Nat) : Bool :=
  ((c.s.m.core (c.b.side c.w.side).core).bank (c.b.side c.w.side).bank).queue.isEmpty &&
    decide (n ≤ c.s.m.freeLines (c.b.side c.w.side).core (c.b.side c.w.side).bank)

/-- R83, R369: the predicate and the frame, changed one after the other. -/
theorem Cx.shortPred_growBy (c : Cx) (p : Nat) (v : Mask) (n : Nat) :
    ((c.shortPred p v).growBy n).s = c.withWarp fun w => (w.setPred p c.ex v).updFrame c.fid fun f => f.grown n :=
  congrArg Cx.s (c.updW_updW (fun w => w.setPred p c.ex v) (fun w => w.updFrame c.fid fun f => f.grown n) fun w => w.setPred_num _ _ _)

variable {s : State} {h : Hdr} (hr : Runs s h c) (hh : c.Holds [a.toNat])
include hr hh

/-- R83: what GROW does when it runs. -/
theorem exec_grow_of_runs : exec (.grow h a) s = .next (c.resize a fun size n =>
    if 56 < size + n then c.trap 0x0B 3 0 0
    else if c.allocates (c.b.lines n) then (c.growBy n).s
    else c.block 2 (c.b.lines n)) := by
  change execGrow h a s = _
  exact word_runs hr hh _

/-- R369: what GROW.try does when it runs. -/
theorem exec_growTry_of_runs (p : BitVec 3) : exec (.growTry h p a) s = .next (c.resize a fun size n =>
    if 56 < size + n then c.trap 0x0B 3 0 0
    else
      let c1 := c.shortPred p.toNat (if c.roomFor (c.b.lines n) then c.ex else 0)
      if c.roomFor (c.b.lines n) then (c1.growBy n).s else c1.s) := by
  change execGrowTry h p a s = _
  exact word_runs hr hh _

/-- R413: what SHRINK does when it runs. -/
theorem exec_shrink_of_runs : exec (.shrink h a) s = .next (c.resize a fun size n =>
    if size < n + 8 then c.trap 0x0B 3 0 0
    else ((c.updW fun w => w.updFrame c.fid fun f => f.shrunk n).upd fun m => m.grantsFor c.b c.w).s) := by
  change execShrink h a s = _
  exact word_runs hr hh _

/-- R83: the three words begin with the same checks. -/
theorem exec_resize_of_runs {p : BitVec 3} {i : Instr} (hi : i ∈ [Instr.grow h a, .growTry h p a, .shrink h a]) :
    ∃ k, exec i s = .next (c.resize a k) := by
  simp only [List.mem_cons, List.not_mem_nil, or_false] at hi
  obtain rfl | rfl | rfl := hi
  · exact ⟨_, exec_grow_of_runs hr hh⟩
  · exact ⟨_, exec_growTry_of_runs hr hh p⟩
  · exact ⟨_, exec_shrink_of_runs hr hh⟩
end

/-- Settles O22: the shared checks are `Cx.resize`'s, and past them each word's own equation gives its case. -/
theorem frameSizes : Obligations.FrameSizes := by
  intro s h c p a fr hr hh hf n grow bank room
  refine ⟨fun i hi => ?checks, fun hu hs h0 h8 => ?words⟩
  case checks =>
    obtain ⟨k, e⟩ := exec_resize_of_runs hr hh hi
    rw [e]
    refine ⟨fun hu => ?_, fun hu hs => ?_, fun hu hs hn => ?_⟩
    · rw [Cx.resize_of_shape k hu]; exact c.traps_trap _ _ _ _
    · rw [Cx.resize_of_missing k hu hs]; exact c.traps_trap _ _ _ _
    · rw [Cx.resize_of_count k hu hs hn]; exact c.traps_trap _ _ _ _
  case words =>
    have past (k : Nat → Nat → State) : c.resize a k = k fr.size n := Cx.resize_of_ok k hu hs hf h0 h8
    rw [exec_grow_of_runs hr hh, exec_growTry_of_runs hr hh, exec_shrink_of_runs hr hh, past, past, past]
    refine ⟨fun hb => ?big, fun hle ha => ?grown, fun hle hroom => ?tried, fun hle hroom => ?refused, fun hlt => ?small, fun hle => ?shrunk⟩
    case big =>
      rw [if_pos hb, if_pos hb]
      exact ⟨c.traps_trap _ _ _ _, c.traps_trap _ _ _ _⟩
    case grown =>
      rw [if_neg (Nat.not_lt.2 hle), if_pos ha]
      rfl
    case tried =>
      have hroom' : c.roomFor (c.b.lines n) = true := hroom
      simp only [if_neg (Nat.not_lt.2 hle), hroom', if_true, Cx.shortPred_growBy]
      rfl
    case refused =>
      have hroom' : c.roomFor (c.b.lines n) = false := hroom
      simp only [if_neg (Nat.not_lt.2 hle), hroom', Bool.false_eq_true, if_false]
      rfl
    case small =>
      rw [if_pos hlt]
      exact c.traps_trap _ _ _ _
    case shrunk =>
      rw [if_neg (Nat.not_lt.2 hle)]
      rfl

end Sys2Proof.Machine
end

section
namespace Sys2Proof.Machine

/-! ### A spill when two warps of a block have one number (O46)

O46 gives the spilled frame the slots of the warp that `Mach.warp?` finds. The model gives the frame of each warp it changes that warp's own slots,
and `Mach.updWarp` changes every warp of the number. No placement makes two warps of one number, but O46 speaks of every state. -/

/-- A booted package whose one block has warp 0 twice, first with every lane vacant, then with its 16 lanes live; the Cellar of core 0 spills its frame. -/
def twinWarps : Mach :=
  (Mach.reset.installed.updBlock 0 fun b => { b with warps := b.warps.flatMap fun w => [{ w with vacant := ~~~0 }, w] }).updBank 0 0
    fun k => { k with spill := some (0, 0, 0) }

def twinBlock : Block := (twinWarps.block? 0).get (by decide)

/-- The warp the number names: the one without a live lane. -/
def vacantTwin : Warp := (twinWarps.warp? 0 0).get (by decide)

def vacantFrame : Frame := (vacantTwin.frame? 0).get (by decide)

/-- The slots of every frame, by block and warp, of the package an outcome leaves. -/
def slotsAfter (o : Host.Outcome State Fault Refusal) : List (List (List (List (Nat × Nat)))) :=
  match o with
  | .next t => t.m.blocks.map fun b => b.warps.map fun w => w.frames.map fun f => f.slots
  | _ => []

/-- R91: a frame without a live member is spillable, and its slots, none, take it. -/
theorem vacantFrame_spills : vacantTwin.spillable vacantFrame = true ∧
    twinWarps.slotBusy twinBlock (twinWarps.slotKeys twinBlock vacantTwin vacantFrame) = false ∧
    twinWarps.slotsOpen twinBlock vacantTwin vacantFrame { r := false, w := true, x := false } = (twinWarps, some []) := by
  refine ⟨by decide, by decide, ?_⟩
  have hl : lanesOf (vacantFrame.members &&& vacantTwin.liveLanes) = [] := by decide
  rw [Mach.slotsOpen, hl]
  rfl

/-- The live twin's frame takes the slots of its 16 lanes. -/
theorem twinWarps_spilled : slotsAfter (exec (.cellarSpillComplete 0) { m := twinWarps, iss := none, inputs := [] }) =
    [[[[]], [(List.range 16).map fun l => (l, 1024 + 65536 * l)]]] := by decide

/-- Refutes O46: where two warps of a block have one number, the spill of `twinWarps` gives the live one's frame its own 16 slots, O46 none. -/
theorem not_warpEvents : ¬ Obligations.WarpEvents := by
  intro hall
  obtain ⟨_, hcores⟩ := hall
  obtain ⟨_, _, hspill, _⟩ := hcores { m := twinWarps, iss := none, inputs := [] }
  obtain ⟨hs, hbusy, hopen⟩ := vacantFrame_spills
  obtain ⟨_, hdone⟩ := hspill 0 0 0 0 twinBlock vacantTwin vacantFrame rfl rfl rfl rfl
  have hstated := congrArg slotsAfter (hdone twinWarps [] hs hbusy hopen)
  rw [twinWarps_spilled] at hstated
  exact absurd hstated (by decide)

end Sys2Proof.Machine
end

section
namespace Sys2Proof.Machine

/-! ### Words that act on a channel (O35, O36) -/

/-! #### The steps they share: the channel, the checks, what comes first, and room -/

section
variable {c : Cx}

/-- R69: two lists of registers lie in the frame when each does. -/
theorem Cx.holds_append {rs qs : List Nat} : c.Holds (rs ++ qs) ↔ c.Holds rs ∧ c.Holds qs :=
  List.forall_mem_append

theorem Cx.lanes_ne_nil (hne : c.ex ≠ 0) : c.lanes ≠ [] := lanesOf_ne_nil hne

theorem Cx.now_of_block {b : Block} (hb : c.s.m.block? c.is.blk = some b) : c.now = b := by
  rw [Cx.now, hb]; rfl

theorem Cx.nextSeq_of_warp {w : Warp} (hw : c.s.m.warp? c.is.blk c.is.warp = some w) : c.nextSeq = w.nextSeq := by
  rw [Cx.nextSeq, hw]

/-- R177, R185: with what must come first performed, the word goes on. -/
theorem Cx.settled_of_true {accs : List Access} {m1 : Mach} (he : c.s.m.settle c.is.blk c.is.warp c.w.nextSeq c.ex accs = (m1, true))
    (k : Cx → State) : c.settled accs k = k { c with s := { c.s with m := m1 } } := by
  rw [Cx.settled, he]; rfl

/-- R203: the model's test of a channel's room. -/
theorem Mach.chanRoom_iff {m : Mach} {b : Block} {i n : Nat} : m.chanRoom b i n = true ↔ m.Room b i n := by
  unfold Mach.chanRoom Mach.Room
  split
  next h => simp [h]
  next h => simp [h]

/-- R203: a channel with room, as a word sees it. -/
theorem Cx.chanRoom_of_room {b : Block} {i n : Nat} (hb : c.s.m.block? c.is.blk = some b) (h : c.s.m.Room b i n) :
    c.s.m.chanRoom c.now i n = true := by
  rw [Cx.now_of_block hb]
  exact Mach.chanRoom_iff.mpr h

/-- R203: a word that finds room on its channel does not stall. -/
theorem Cx.go_of_room {b : Block} {i n : Nat} (hb : c.s.m.block? c.is.blk = some b) (h : c.s.m.Room b i n) (stalled go : State) :
    (if !c.s.m.chanRoom c.now i n then stalled else go) = go := by
  rw [Cx.chanRoom_of_room hb h]; rfl

/-- R105: a word that changes the machine and leaves an entry. -/
theorem Cx.awaits_enter_of_upd {c1 : Cx} {f : Mach → Mach} (h : c1 = c.upd f) (dests : List Dest) (pend : Pend) (vals : List RVal)
    (acq : Bool) (waits : List Nat) : c.Awaits (.next (c1.enter dests pend vals acq waits).s) f dests pend acq waits := by
  subst h
  exact ⟨c.mkEntry dests pend vals acq waits, rfl, fun w => ⟨c.mkEntry_new _ _ _ _ _ w, rfl, rfl, rfl, rfl⟩⟩

end

/-- What a lane's checks answer when they pass (R173). -/
def LaneRes.passed (y : Access × PteRef × Bool × Bool) : LaneRes := .ok y.1 y.2.1 y.2.2.1 y.2.2.2

/-- R173: where no lane traps and none parks, every lane passes. -/
theorem eq_of_verdict_go {rs : List LaneRes} {accs : List (Access × PteRef × Bool × Bool)} (h : verdict rs = .go accs []) :
    rs = accs.map LaneRes.passed := by
  unfold verdict at h
  split at h
  next => cases h
  next hb =>
    injection h with hok hpage
    subst hok
    unfold firstBad at hb
    induction rs with
    | nil => rfl
    | cons r rs ih =>
      cases r with
      | ok a p nc host => exact congrArg (LaneRes.passed (a, p, nc, host) :: ·) (ih hb hpage)
      | page l va => cases hpage
      | bad l va cause sub pa => cases hb

/-- R173: each of the lanes then passes, with one of the accesses. -/
theorem passed_of_verdict_go {f : Nat → LaneRes} {ls : List Nat} {accs : List (Access × PteRef × Bool × Bool)}
    (h : verdict (ls.map f) = .go accs []) {l : Nat} (hl : l ∈ ls) : ∃ y ∈ accs, f l = .passed y := by
  have hm : f l ∈ accs.map LaneRes.passed := eq_of_verdict_go h ▸ List.mem_map_of_mem hl
  obtain ⟨y, hy, hp⟩ := List.mem_map.mp hm
  exact ⟨y, hy, hp.symm⟩

/-- R173: lanes that all pass their checks go on with their accesses. -/
theorem Cx.checked_of_go {c : Cx} {rs : List LaneRes} {accs : List (Access × PteRef × Bool × Bool)} (hne : rs ≠ [])
    (h : verdict rs = .go accs []) (access place : Nat) (k : Cx → List (Access × PteRef × Bool × Bool) → State) :
    c.checked rs access place k = k c accs := by
  have haccs : accs.isEmpty = false := by
    cases accs with
    | nil => exact absurd (eq_of_verdict_go h) hne
    | cons y ys => rfl
  rw [Cx.checked, h]
  simp only [Cx.park, haccs, List.isEmpty_nil, if_true, Bool.false_eq_true, if_false]

section
variable {s : State} {h : Hdr} {c : Cx} (hr : Runs s h c) {regs : List Nat} (hh : c.Holds regs) {i : Nat} (k : Cx → State)
include hr hh

/-- R199: a word of a channel at or above the block's count traps CHAN, sub-cause 0x01. -/
theorem word_traps_chan (hi : c.b.nchan ≤ i) : c.Traps (s.word h regs fun c => c.withChan i (k c)) 0x0D 1 0 0 := by
  rw [word_runs hr hh, Cx.withChan, if_pos hi]
  exact c.traps_trap _ _ _ _

/-- R199: a word of a channel of the block has its own meaning. -/
theorem word_runs_chan (hi : i < c.b.nchan) : s.word h regs (fun c => c.withChan i (k c)) = .next (k c) := by
  rw [word_runs hr hh, Cx.withChan, if_neg (Nat.not_le.mpr hi)]

end

/-! #### RST, RATOM and RRED (R399, R405, R406) -/

/-- R200, R406: RST's stores on channel i, in lane order, behind what goes to ch0 first; the pages of the stores marked. -/
def Cx.putStores (c : Cx) (i r z : Nat) (accs : List (Access × PteRef × Bool × Bool)) : Cx :=
  ((c.upd fun m => m.ch0First c.is.blk i).touched accs true).updB fun b => (accs.map fun y => y.1).foldl
    (fun b y => b.enqueueStore (c.s.m.names c.b) i c.s.m.clock y.key y.va (c.dataBytes r z y.lane)) b

/-- R200, R399: RATOM's atomics on channel i, in lane order, for the entry numbered n. -/
def Cx.putAtoms (c : Cx) (i op n : Nat) (oks : List (Access × PteRef × Bool × Bool)) (accs : List Access) : Cx :=
  ((c.upd fun m => m.ch0First c.is.blk i).touched oks true).updB fun b => b.putAtoms i op c.is.warp n accs

/-- R200, R405: RRED's contributions on channel i, in lane order, for the entry numbered n. -/
def Cx.putRreds (c : Cx) (i op n : Nat) (desc : Nat → BitVec 64) (value : Nat → Word) : Cx :=
  (c.upd fun m => m.ch0First c.is.blk i).updB fun b => c.lanes.foldl
    (fun b l => b.enqueue i (c.s.m.rmap.pkg, 16 + (desc l).toNat / 256 % 2) (.rred op (desc l) (value l) c.is.warp n l) none []) b

section
variable {s : State} {h : Hdr} {c : Cx} (hr : Runs s h c) {ch : BitVec 4} {a : BitVec 5} {r : BitVec 6} {x : BitVec 4} {b : Block}
  (hi : ch.toNat < c.b.nchan)
include hr hi

section
variable {accs : List (Access × PteRef × Bool × Bool)} {m1 : Mach}

/-- R203, R406: RST whose lanes pass their checks and find room. -/
theorem exec_rst_of_room (hh : c.Holds (sizeRegs r x.toNat ++ [2 * a.toNat, 2 * a.toNat + 1]))
    (hv : verdict (c.lanes.map fun l => c.is.base.checkOne c.b.ctx
      { lane := l, va := (c.pair (2 * a.toNat) l).toNat, size := Machine.sizeOf x.toNat, need := needW }) = .go accs [])
    (hs : c.s.m.settle c.is.blk c.is.warp c.w.nextSeq c.ex (accs.map fun y => y.1) = (m1, true)) {c1 : Cx}
    (hc : Cx.putStores { c with s := { c.s with m := m1 } } ch.toNat r.toNat x.toNat accs = c1)
    (hb : c1.s.m.block? c1.is.blk = some b) (hroom : c1.s.m.Room b ch.toNat 0) : exec (.rst h ch a r x) s = .next c1.s := by
  subst hc
  change execRst h ch a r x s = _
  rw [execRst, word_runs_chan hr hh _ hi, Cx.checked_of_go (by simpa using Cx.lanes_ne_nil hr.some) hv, Cx.settled_of_true hs]
  exact congrArg _ (if_pos (Cx.chanRoom_of_room hb hroom))

/-- R203, R399: RATOM whose lanes pass their checks and find room. -/
theorem exec_ratom_of_room (hh : c.Holds (atomRegs x.toNat r.toNat ++ [2 * a.toNat, 2 * a.toNat + 1]))
    (hv : verdict (c.lanes.map fun l => c.is.base.checkOne c.b.ctx
      { lane := l, va := (c.pair (2 * a.toNat) l).toNat, size := atomSize x.toNat, need := { r := true, w := true, x := false } }) = .go accs [])
    (hfe : ∀ y ∈ accs, (homeOf y.1.key).2 ≠ 8) {ops : List Access} (ho : c.withOps x.toNat r.toNat accs = ops)
    (hs : c.s.m.settle c.is.blk c.is.warp c.w.nextSeq c.ex ops = (m1, true)) (hb : (c.ahead ch.toNat m1).block? c.is.blk = some b)
    (hroom : (c.ahead ch.toNat m1).Room b ch.toNat ops.length) {w : Warp} (hw : m1.warp? c.is.blk c.is.warp = some w) :
    exec (.ratom h ch a r x) s = .next ((Cx.putAtoms { c with s := { c.s with m := m1 } } ch.toNat x.toNat w.nextSeq accs ops).enter
      (c.wholeRegs (atomDests x.toNat r.toNat)) (.chan (maskOfAccs ops) ops) [] false []).s := by
  subst ho
  change execRatom h ch a r x s = _
  rw [execRatom, word_runs_chan hr hh _ hi]
  refine congrArg _ ((Cx.checked_of_go (by simpa using Cx.lanes_ne_nil hr.some)
    ((congrArg verdict (List.map_congr_left fun l hl => ?home)).trans hv) _ _ _).trans ?go)
  case home =>
    obtain ⟨y, hy, hp⟩ := passed_of_verdict_go hv hl
    rw [hp]
    exact if_neg (hfe y hy)
  case go =>
    rw [Cx.settled_of_true hs]
    dsimp only
    rw [Cx.go_of_room (c := Cx.upd { c with s := { c.s with m := m1 } } fun m => m.ch0First c.is.blk ch.toNat) hb hroom,
      Cx.nextSeq_of_warp hw]
    rfl

end

/-- R203, R405: RRED whose slot descriptors are good and whose lanes find room. -/
theorem exec_rred_of_room (hh : c.Holds (((List.range 4).map fun i => r.toNat + i) ++ [2 * a.toNat, 2 * a.toNat + 1]))
    (hg : ∀ l ∈ c.lanes, badSlot (c.pair (2 * a.toNat) l) = false) (hb : (c.ahead ch.toNat c.s.m).block? c.is.blk = some b)
    (hroom : (c.ahead ch.toNat c.s.m).Room b ch.toNat c.lanes.length) {w : Warp} (hw : c.s.m.warp? c.is.blk c.is.warp = some w) :
    exec (.rred h ch a r x) s = .next ((c.putRreds ch.toNat x.toNat w.nextSeq (c.pair (2 * a.toNat)) (c.val r.toNat)).enter
      (c.wholeRegs [r.toNat, r.toNat + 1, r.toNat + 2, r.toNat + 3]) (.chan c.ex []) [] false []).s := by
  have hgood : (c.lanes.filter fun l => badSlot (c.pair (2 * a.toNat) l)) = [] := List.filter_eq_nil_iff.mpr fun l hl => by simp [hg l hl]
  change execRred h ch a r x s = _
  rw [execRred, word_runs_chan hr hh _ hi]
  simp only [hgood]
  rw [Cx.go_of_room (c := c.upd fun m => m.ch0First c.is.blk ch.toNat) hb hroom, Cx.nextSeq_of_warp hw]
  rfl

/-- R236: RRED with a bad slot descriptor traps BOUNDS, sub-cause 0x08. -/
theorem rred_traps_badSlot (hh : c.Holds (((List.range 4).map fun i => r.toNat + i) ++ [2 * a.toNat, 2 * a.toNat + 1]))
    (hbad : ∃ l ∈ c.lanes, badSlot (c.pair (2 * a.toNat) l) = true) : ∃ k, c.Traps (exec (.rred h ch a r x) s) 0x07 8 0 k := by
  obtain ⟨l, hl, hb⟩ := hbad
  obtain ⟨j, js, hj⟩ := List.exists_cons_of_ne_nil (List.ne_nil_of_mem (List.mem_filter (p := fun l => badSlot (c.pair (2 * a.toNat) l)).mpr ⟨hl, hb⟩))
  change ∃ k, c.Traps (execRred h ch a r x s) 0x07 8 0 k
  rw [execRred, word_runs_chan hr hh _ hi]
  simp only [hj]
  exact ⟨_, c.traps_trap _ _ _ _⟩

end

/-- Settles O35: a channel of the block by `word_runs_chan`, the operations by `exec_rst_of_room`, `exec_ratom_of_room` and `exec_rred_of_room`. -/
theorem channelOperations : Obligations.ChannelOperations := by
  intro s h c ch a r x accs m1 b1 b2 hr hh i at_ mark
  obtain ⟨hfirst, hpair⟩ := Cx.holds_append.mp hh
  obtain ⟨hfirst, hquad⟩ := Cx.holds_append.mp hfirst
  obtain ⟨hsize, hatom⟩ := Cx.holds_append.mp hfirst
  have hrst := Cx.holds_append.mpr ⟨hsize, hpair⟩
  have hratom := Cx.holds_append.mpr ⟨hatom, hpair⟩
  have hrred := Cx.holds_append.mpr ⟨hquad, hpair⟩
  refine ⟨fun hi => ?chan, fun hi => ⟨?rst, ?ratom, ?rred, rred_traps_badSlot hr hi hrred⟩⟩
  case chan =>
    have trst : c.Traps (execRst h ch a r x s) 0x0D 1 0 0 := word_traps_chan hr hrst _ hi
    have tratom : c.Traps (execRatom h ch a r x s) 0x0D 1 0 0 := word_traps_chan hr hratom _ hi
    have trred : c.Traps (execRred h ch a r x s) 0x0D 1 0 0 := word_traps_chan hr hrred _ hi
    exact ⟨trst, tratom, trred⟩
  case rst =>
    intro hv hs sent hb hroom
    exact exec_rst_of_room hr hi hrst hv hs rfl hb hroom
  case ratom =>
    intro need ops hv hfe hs hb hroom w hw
    have hlen : ops.length = accs.length := List.length_map _
    rw [exec_ratom_of_room hr hi hratom hv hfe rfl hs hb (hlen ▸ hroom) hw]
    exact Cx.awaits_enter_of_upd (by rfl) _ _ _ _ _
  case rred =>
    intro hg hb hroom w hw
    rw [exec_rred_of_room hr hi hrred hg hb hroom hw]
    exact Cx.awaits_enter_of_upd (by rfl) _ _ _ _ _

/-! #### CHJOIN and CHDRAIN (R207, R208, R211) -/

section
variable {s : State} {h : Hdr} {c : Cx} (hr : Runs s h c) {ch : BitVec 4} {b : Block}
include hr

/-- R203, R207: CHJOIN that finds room. -/
theorem exec_chjoin_of_room {k : BitVec 4} (hi : max ch.toNat k.toNat < c.b.nchan) {m1 : Mach}
    (hm : (c.ahead ch.toNat c.s.m).updBlock c.is.blk (fun b => b.endHold k.toNat) = m1) (hb : m1.block? c.is.blk = some b)
    (hroom : m1.Room b ch.toNat 1) : exec (.chjoin h ch k) s = .next { c.s with m := m1.updBlock c.is.blk fun b =>
      (b.enqueue ch.toNat (0, 255) (.join k.toNat (b.chan k.toNat).issued) none []).settleJoins } := by
  subst hm
  change execChjoin h ch k s = _
  rw [execChjoin, word_runs_chan hr Cx.holds_nil _ hi]
  exact congrArg _ (Cx.go_of_room (c := c.upd fun m => (m.ch0First c.is.blk ch.toNat).updBlock c.is.blk fun b => b.endHold k.toNat) hb hroom _ _)

variable (hi : ch.toNat < c.b.nchan) (hb : c.s.m.block? c.is.blk = some b)
include hi hb

/-- R208: CHDRAIN of a channel with an operation outstanding waits. -/
theorem exec_chdrain_of_outstanding (hq : (b.chan ch.toNat).ackedUpto (b.chan ch.toNat).issued = false)
    (hrun : (c.w.lane c.low).run ≠ .drained) : exec (.chdrain h ch) s =
      .next (c.waitIn (fun m => m.updBlock c.is.blk fun b => b.endHold ch.toNat) (.chdrain ch.toNat (b.chan ch.toNat).issued)) := by
  change execChdrain h ch s = _
  rw [execChdrain, word_runs_chan hr Cx.holds_nil _ hi]
  simp only [hb]
  exact congrArg _ (if_pos (by simp [hq, hrun]))

section
variable (hq : (b.chan ch.toNat).ackedUpto (b.chan ch.toNat).issued = true ∨ (c.w.lane c.low).run = .drained)
include hq

/-- R208: CHDRAIN of a channel that has drained, with no error latched. -/
theorem exec_chdrain_of_drained (he : (b.chan ch.toNat).err = none) : exec (.chdrain h ch) s = .next c.s := by
  change execChdrain h ch s = _
  rw [execChdrain, word_runs_chan hr Cx.holds_nil _ hi]
  simp only [hb, he]
  exact congrArg _ (if_neg (by obtain hq | hq := hq <;> simp [hq]))

/-- R208: CHDRAIN of a channel that has drained, with an error latched. -/
theorem exec_chdrain_of_error {cause va pa : Nat} (he : (b.chan ch.toNat).err = some (cause, va, pa)) : exec (.chdrain h ch) s =
    .next ((c.standing fun m => m.updBlock c.is.blk fun b => b.updChan ch.toNat fun x => { x with err := none }).trap
      0x0D 2 va (cause * 2 ^ 56 + pa)) := by
  change execChdrain h ch s = _
  rw [execChdrain, word_runs_chan hr Cx.holds_nil _ hi]
  simp only [hb, he]
  exact congrArg _ (if_neg (by obtain hq | hq := hq <;> simp [hq]))

end
end

/-- Settles O36: a channel of the block by `word_runs_chan`, CHJOIN by `exec_chjoin_of_room`, the three outcomes of CHDRAIN by a lemma each. -/
theorem joinAndDrain : Obligations.JoinAndDrain := by
  intro s h c ch k b0 b1 hr hb0 held q
  refine ⟨fun hi => ?joinChan, fun hi => ?drainChan, fun hi hb hroom => exec_chjoin_of_room hr hi rfl hb hroom,
    fun hi hq => ⟨fun he => exec_chdrain_of_drained hr hi hb0 hq he, fun cause va pa he => ?error⟩, fun hi hq hrun => ?waits⟩
  case joinChan =>
    change c.Traps (execChjoin h ch k s) 0x0D 1 0 0
    exact word_traps_chan hr Cx.holds_nil _ hi
  case drainChan =>
    change c.Traps (execChdrain h ch s) 0x0D 1 0 0
    exact word_traps_chan hr Cx.holds_nil _ hi
  case error =>
    rw [exec_chdrain_of_error hr hi hb0 hq he]
    exact Cx.traps_trap (c.standing _) _ _ _ _
  case waits =>
    rw [exec_chdrain_of_outstanding hr hi hb0 hq hrun]
    rfl

end Sys2Proof.Machine
end
